-- ==== Sys2Proof/Word.lean ====
section
/-! DEFINITION. The word types of the machine. -/

namespace Sys2Proof

/-- A 32-bit word: a register element, a code offset, an instruction word. -/
abbrev Word := BitVec 32

/-- A byte of storage. -/
abbrev Byte := BitVec 8

/-- A set of lanes of a group; bit L stands for lane L. -/
abbrev Mask := BitVec 32

/-- A 64-bit value: a pointer, a completion word. -/
abbrev DWord := BitVec 64

end Sys2Proof
end

