-- ==== Sys2Proof/Syntax.lean ====
section
/-! DEFINITION. The steps of the machine: one constructor of `Instr` per row of the operation
table. The rows with an encoding are Benlek 3 instructions; the other rows are the device's events,
and their constructors carry the objects the event acts on. -/

namespace Sys2Proof

/-- The low three bits of every instruction word (R78): guarded, reuse, switch marker. -/
structure Mods where
  g : Bool
  r : Bool
  s : Bool
  deriving DecidableEq, Repr

/-- Integer types of 32 bits (R101): `.i32` and `.w32`. -/
inductive IntTy where
  | i32 | w32
  deriving DecidableEq, Repr

/-- Integer types of `isetp` (R100). -/
inductive CmpTy where
  | i32 | w32 | i64 | w64
  deriving DecidableEq, Repr

/-- Ordered comparisons (R101, codes 0-5). -/
inductive Cmp where
  | eq | ne | lt | le | gt | ge
  deriving DecidableEq, Repr

/-- Floating comparisons (R101, codes 0-13). -/
inductive FCmp where
  | ord (c : Cmp)
  | num
  | nan
  | unord (c : Cmp)
  deriving DecidableEq, Repr

/-- Directed and nearest roundings (R101, codes 0-3). -/
inductive Rm where
  | rne | rz | rd | ru
  deriving DecidableEq, Repr

/-- Roundings with the stochastic one (R101, codes 0-4). -/
inductive RmS where
  | det (r : Rm)
  | rs
  deriving DecidableEq, Repr

/-- Floating formats (R236). -/
inductive FTy where
  | f32 | f16 | bf16 | e4m3 | e5m2
  deriving DecidableEq, Repr

/-- 16-bit floating formats of the paired instructions (R112). -/
inductive PTy where
  | f16 | bf16
  deriving DecidableEq, Repr

/-- Types of `cvt` (R115). -/
inductive CvtTy where
  | i32 | w32 | i16 | w16 | i8 | w8
  | fp (t : FTy)
  deriving DecidableEq, Repr

/-- `shfl` modes (R120). -/
inductive ShflMode where
  | src | back | ahead | mirror | rot
  deriving DecidableEq, Repr

/-- Operations of `redux` and `prfx` (R121). -/
inductive RedOp where
  | add | min | max | and | or | xor
  deriving DecidableEq, Repr

/-- Types of `redux` and `prfx` (R100). -/
inductive RedTy where
  | i32 | w32 | f32
  deriving DecidableEq, Repr

/-- Types of `rng` (R123). -/
inductive RngTy where
  | w32 | w16
  deriving DecidableEq, Repr

/-- `vote` modes (R118). -/
inductive VoteMode where
  | some | each | same | odd
  deriving DecidableEq, Repr

/-- Scratchpad spaces of loads and stores (R138). -/
inductive Space where
  | sk | tm | cl
  deriving DecidableEq, Repr

/-- Element types of loads and stores (R195, codes 0-7). -/
inductive MTy where
  | i32 | w32 | i16 | w16 | i8 | w8 | i64 | w64
  deriving DecidableEq, Repr

/-- Element count of a load or store (R195). -/
inductive Vec where
  | v1 | v2 | v4
  deriving DecidableEq, Repr

/-- Scopes (R161). -/
inductive Scope where
  | grp | team | clus | dev | sys
  deriving DecidableEq, Repr

/-- Ordering of an atomic (R200). -/
inductive AOrd where
  | relaxed | acq | rel | acqrel
  deriving DecidableEq, Repr

/-- Types of atomics (R200). -/
inductive ATy where
  | i32 | w32 | i64 | w64 | f32
  deriving DecidableEq, Repr

/-- Operations of atomics (R200). -/
inductive AOp where
  | add | min | max | and | or | xor | exch | incw
  deriving DecidableEq, Repr

/-- Address operand of layout EM (R194, R195). -/
structure Addr where
  a : BitVec 7
  base : BitVec 6
  sp : Space
  bx : Bool
  ix : Bool
  off : BitVec 11
  deriving DecidableEq, Repr

/-- Address operand of layout EX (R200). -/
structure AddrX where
  a : BitVec 7
  base : BitVec 6
  cl : Bool
  bx : Bool
  ix : Bool
  off : BitVec 8
  deriving DecidableEq, Repr

/-- Completion-word space of the copy family (R206). -/
inductive CwSpace where
  | none | tm | cl
  deriving DecidableEq, Repr

/-- Common fields of layout EC (R206). -/
structure CopyX where
  cwb : BitVec 6
  cnt : BitVec 6
  cl : Bool
  cws : CwSpace
  ord : Bool
  cwoff : BitVec 6
  deriving DecidableEq, Repr

/-- Row reference of layout ER (R269). -/
structure Row where
  a : BitVec 6
  ax : Bool
  roff : BitVec 15
  deriving DecidableEq, Repr

/-- Formats of an `mmas` operand (R272). -/
inductive MmTy where
  | f16 | bf16 | e4m3 | e5m2
  deriving DecidableEq, Repr

/-- Register operand of `sread` and `swrite` (R342). -/
inductive RegOp where
  | g (n : BitVec 7)
  | s (n : BitVec 6)
  | k (n : BitVec 4)
  deriving DecidableEq, Repr

/-- Destination of `perfrd` (R353). -/
inductive PerfDst where
  | s (n : BitVec 6)
  | k (n : BitVec 4)
  deriving DecidableEq, Repr

/-- Scope of a watchpoint (R346). -/
inductive WScope where
  | lane | team | ctx
  deriving DecidableEq, Repr

/-- Kind of a watchpoint (R346). -/
inductive WKind where
  | r | w | rw
  deriving DecidableEq, Repr

/-- Space of a watchpoint (R159, R346). -/
inductive WSpace where
  | sk | tm | cl | hbm
  deriving DecidableEq, Repr

/-- System registers (R340). -/
inductive SysReg where
  | lanenum | grpid | role | teamgrps | teamx | teamy | teamz | gridx | gridy | gridz
  | coreid | grpslot | ctxnum | capsel | capptr | lanepc | exmask | lsp | cadence | fpflags | qovf
  | rngseedlo | rngseedhi | accbase | acclim | accflags | chprog | ferrylate | tagctl | tvec
  | tcode | tinfo | tmaskAct | tmaskFlt | taddrlo | taddrhi | tinstr | tpc
  | tdeleg | svtab | memmode | replaybuflo | replaybufhi | ptbaselo | ptbasehi | vfsegbase | vfsegsize
  | accowner | ctxbuflo | ctxbufhi | ctxaltlo | ctxalthi | hangwd | tracectl
  | tracebuflo | tracebufhi | tracepos | codebaselo | codebasehi
  deriving DecidableEq, Repr

/-- Performance events (R353). -/
inductive PerfEvent where
  | slots | clauses | cadenceTurns | earlyDrains | bankReads | coreCycles | matrixSteps | chainWork
  deriving DecidableEq, Repr

/-- Operands d, a. -/
structure OpDA where
  d : BitVec 7
  a : BitVec 7
  m : Mods
  deriving DecidableEq, Repr

/-- Operands d, a, b. -/
structure OpDAB where
  d : BitVec 7
  a : BitVec 7
  b : BitVec 7
  m : Mods
  deriving DecidableEq, Repr

/-- Operand a of kind G. -/
structure OpA where
  a : BitVec 7
  m : Mods
  deriving DecidableEq, Repr

/-- Operand a of kind S. -/
structure OpSA where
  a : BitVec 6
  m : Mods
  deriving DecidableEq, Repr

/-- Shift by an immediate 0-31 (R107). -/
structure OpShiftI where
  d : BitVec 7
  a : BitVec 7
  n : BitVec 5
  m : Mods
  deriving DecidableEq, Repr

/-- Typed integer operation with two sources (R100). -/
structure OpDABT where
  d : BitVec 7
  a : BitVec 7
  b : BitVec 7
  t : IntTy
  m : Mods
  deriving DecidableEq, Repr

/-- Operands d, a, b, c. -/
structure OpDABC where
  d : BitVec 7
  a : BitVec 7
  b : BitVec 7
  c : BitVec 7
  m : Mods
  deriving DecidableEq, Repr

/-- FP32 operation with a rounding (R100). -/
structure OpFDAB where
  d : BitVec 7
  a : BitVec 7
  b : BitVec 7
  rm : Rm
  m : Mods
  deriving DecidableEq, Repr

/-- Unary FP32 operation with a rounding (R100). -/
structure OpFDA where
  d : BitVec 7
  a : BitVec 7
  rm : Rm
  m : Mods
  deriving DecidableEq, Repr

/-- Paired 16-bit operation (R112). -/
structure OpPDAB where
  d : BitVec 7
  a : BitVec 7
  b : BitVec 7
  t : PTy
  rm : Rm
  m : Mods
  deriving DecidableEq, Repr

/-- Scalar operation with two sources (R119). -/
structure OpSDAB where
  d : BitVec 6
  a : BitVec 6
  b : BitVec 6
  m : Mods
  deriving DecidableEq, Repr

/-- Predicate operation with two sources (R117). -/
structure OpPred where
  pd : BitVec 6
  pa : BitVec 6
  pb : BitVec 6
  na : Bool
  nb : Bool
  m : Mods
  deriving DecidableEq, Repr

/-- Predicate operation with one source (R117). -/
structure OpPred1 where
  pd : BitVec 6
  pa : BitVec 6
  na : Bool
  m : Mods
  deriving DecidableEq, Repr

/-- Atomic operands (R200). -/
structure OpAtom where
  d : BitVec 7
  b : BitVec 7
  ad : AddrX
  t : ATy
  op : AOp
  ord : AOrd
  scope : Scope
  pro : Bool
  m : Mods
  deriving DecidableEq, Repr

/-- `red` operands (R200): orderings relaxed and release only. -/
structure OpRed where
  b : BitVec 7
  ad : AddrX
  t : ATy
  op : AOp
  rel : Bool
  scope : Scope
  m : Mods
  deriving DecidableEq, Repr

/-- `atomcas` operands (R200). -/
structure OpCas where
  d : BitVec 7
  b : BitVec 7
  ad : AddrX
  t : ATy
  ord : AOrd
  scope : Scope
  pro : Bool
  m : Mods
  deriving DecidableEq, Repr

/-- `copy.in`, `copy.out` operands: scratchpad pointer, main-memory pair, common fields (R207). -/
structure OpCopyMm where
  sp : BitVec 6
  mm : BitVec 7
  x : CopyX
  m : Mods
  deriving DecidableEq, Repr

/-- `gather`, `scatter` operands (R207). -/
structure OpGather where
  sp : BitVec 6
  mm : BitVec 7
  idx : BitVec 7
  x : CopyX
  esz : BitVec 3
  win : BitVec 5
  m : Mods
  deriving DecidableEq, Repr

/-- Completion-word operands (R213). -/
structure OpCw where
  a : BitVec 6
  b : BitVec 6
  cl : Bool
  w64 : Bool
  off : BitVec 21
  m : Mods
  deriving DecidableEq, Repr

/-- `bar` arrive and sync operands (R128). -/
structure OpBar where
  br : Bool
  wr : Bool
  sx : BitVec 6
  bn : BitVec 6
  cnt : BitVec 5
  m : Mods
  deriving DecidableEq, Repr

/-- `ctxsave` and `ctxload` operands (R348, R349). -/
structure OpCtx where
  p : BitVec 6
  m : Mods
  deriving DecidableEq, Repr

/-- A host write to a register of a function (R381, R382, R384, R385). -/
structure HostWrite where
  fn : Nat
  bar2 : Bool
  off : Nat
  value : Word
  deriving DecidableEq, Repr

/-- Operations and events of the machine, one constructor per row of the operation table. -/
inductive Instr where
  -- control flow (R104)
  | nop (m : Mods)
  | bra (off : BitVec 21) (m : Mods)
  | brx (o : OpA)
  | call (off : BitVec 21) (m : Mods)
  | callx (o : OpA)
  | ret (m : Mods)
  | exit (m : Mods)
  | enrol (j : BitVec 3) (off : BitVec 18) (m : Mods)
  | rejoin (j : BitVec 3) (m : Mods)
  | yield (m : Mods)
  -- integer (R107-R109)
  | add (o : OpDAB)
  | sub (o : OpDAB)
  | mul (o : OpDAB)
  | mulhi (o : OpDABT)
  | mad (o : OpDABC) (t : IntTy) (sat : Bool)
  | min (o : OpDABT)
  | max (o : OpDABT)
  | abs (o : OpDA)
  | neg (o : OpDA)
  | and (o : OpDAB)
  | or (o : OpDAB)
  | xor (o : OpDAB)
  | not (o : OpDA)
  | shl (o : OpDAB)
  | shr (o : OpDAB)
  | sar (o : OpDAB)
  | clz (o : OpDA)
  | popc (o : OpDA)
  | brev (o : OpDA)
  | bfe (o : OpDABT)
  | bfi (o : OpDABC)
  | sel (o : OpDAB) (p : BitVec 6)
  | mov (o : OpDA)
  | movi (d : BitVec 7) (imm : Word) (m : Mods)
  | addi (o : OpDA) (imm : BitVec 7)
  | lea (o : OpDAB) (imm : BitVec 24) (sh : BitVec 5)
  | add64 (o : OpDAB)
  | sub64 (o : OpDAB)
  | isetp (p : BitVec 6) (a b : BitVec 7) (cc : Cmp) (t : CmpTy) (m : Mods)
  | shli (o : OpShiftI)
  | shri (o : OpShiftI)
  | sari (o : OpShiftI)
  -- floating point (R110-R116)
  | fadd (o : OpFDAB)
  | fsub (o : OpFDAB)
  | fmul (o : OpFDAB)
  | ffma (o : OpDABC) (rm : Rm)
  | fmin (o : OpDAB)
  | fmax (o : OpDAB)
  | fabs (o : OpDA)
  | fneg (o : OpDA)
  | fsetp (p : BitVec 6) (a b : BitVec 7) (cc : FCmp) (m : Mods)
  | pfadd (o : OpPDAB)
  | pfmul (o : OpPDAB)
  | pffma (o : OpDABC) (t : PTy) (rm : Rm)
  | fclass (o : OpDA) (t : FTy)
  | rcp (o : OpFDA)
  | rsq (o : OpFDA)
  | sqrt (o : OpFDA)
  | exp2 (o : OpFDA)
  | log2 (o : OpFDA)
  | cvt (o : OpDA) (dt st : CvtTy) (rm : RmS) (sat : Bool) (b : BitVec 7) (c : BitVec 6)
  | frnd (o : OpFDA)
  -- predicates (R117-R118)
  | pand (o : OpPred)
  | por (o : OpPred)
  | pxor (o : OpPred)
  | pmov (o : OpPred1)
  | vote (o : OpPred1) (mode : VoteMode)
  | elect (o : OpPred1)
  -- scalars (R119)
  | smov (d a : BitVec 6) (m : Mods)
  | smovi (d : BitVec 6) (imm : Word) (m : Mods)
  | sadd (o : OpSDAB)
  | ssub (o : OpSDAB)
  | smul (o : OpSDAB)
  | sand (o : OpSDAB)
  | sor (o : OpSDAB)
  | sxor (o : OpSDAB)
  | sshl (o : OpSDAB)
  | sshr (o : OpSDAB)
  | ssetp (p : BitVec 6) (a b : BitVec 6) (cc : Cmp) (t : IntTy) (m : Mods)
  | s2g (d : BitVec 7) (a : BitVec 6) (m : Mods)
  | g2s (d : BitVec 6) (a : BitVec 7) (lane : BitVec 5) (m : Mods)
  | slea (o : OpSDAB) (imm : BitVec 24) (sh : BitVec 5)
  -- lane exchange and random numbers (R120-R123)
  | shfl (o : OpDAB) (p : BitVec 6) (mode : ShflMode) (imm : Bool) (lane : BitVec 5)
  | redux (o : OpDA) (op : RedOp) (t : RedTy) (rm : Rm)
  | prfx (o : OpDA) (op : RedOp) (t : RedTy) (rm : Rm) (excl : Bool)
  | rng (o : OpDAB) (t : RngTy)
  | rngn (o : OpDAB)
  | rngf (o : OpDAB)
  -- memory (R194-R205)
  | ld (d : BitVec 7) (ad : Addr) (t : MTy) (v : Vec) (acq : Option Scope) (pro : Bool) (m : Mods)
  | st (b : BitVec 7) (ad : Addr) (t : MTy) (v : Vec) (rel : Option Scope) (m : Mods)
  | ldu (d : BitVec 6) (ad : Addr) (t : MTy) (v : Vec) (m : Mods)
  | pwait (b : BitVec 7) (ad : Addr) (m : Mods)
  | ptest (p : BitVec 6) (ad : Addr) (m : Mods)
  | atom (o : OpAtom)
  | red (o : OpRed)
  | atomcas (o : OpCas)
  | fence (scope : Scope) (m : Mods)
  | tagget (o : OpDA) (cl : Bool)
  | tagset (b : BitVec 7) (ad : Addr) (m : Mods)
  | tagptr (o : OpDAB)
  -- copies and completion words (R206-R214)
  | copyIn (o : OpCopyMm)
  | copyOut (o : OpCopyMm)
  | copySs (d a : BitVec 6) (x : CopyX) (srcCl : Bool) (m : Mods)
  | copyMm (d a : BitVec 7) (x : CopyX) (m : Mods)
  | copyt (o : OpCopyMm) (out : Bool) (t16 : Bool)
  | gather (o : OpGather)
  | scatter (o : OpGather)
  | cwinit (o : OpCw)
  | cwadd (o : OpCw)
  | cwwait (o : OpCw)
  | cwtest (p : BitVec 6) (o : OpCw)
  | copytag (d a : BitVec 7) (mm : Bool) (x : CopyX) (m : Mods)
  -- matrix and accumulator (R267-R282)
  | berth (a : BitVec 6) (n : BitVec 5) (m : Mods)
  | unberth (o : OpSA)
  | mmas (o : OpDABC) (ta tb : MmTy)
  | mmax (o : OpA)
  | accw (a b c : BitVec 6) (m : Mods)
  | accz (row : Row) (count : BitVec 16) (m : Mods)
  | accld (d : BitVec 7) (row : Row) (m : Mods)
  | accst (row : Row) (b : BitVec 7) (m : Mods)
  | accout (d : BitVec 6) (row : Row) (b : BitVec 6) (t : FTy) (rm : RmS) (sat : Bool) (n1 : BitVec 8) (m : Mods)
  | cvtb (d : BitVec 6) (a : BitVec 7) (b : BitVec 6) (ty : BitVec 2) (bl32 : Bool) (m : Mods)
  | accflg (d : BitVec 6) (m : Mods)
  -- Chain (R293-R296)
  | chain (k : BitVec 3) (row : Row) (b mask : BitVec 6) (m : Mods)
  | chapply (k : BitVec 3) (row : Row) (b : BitVec 6) (m : Mods)
  | chld (k : BitVec 3) (a : BitVec 6) (off : BitVec 11) (m : Mods)
  | chldId (k : BitVec 3) (m : Mods)
  | chst (k : BitVec 3) (a : BitVec 6) (off : BitVec 11) (m : Mods)
  -- Ferry (R219-R226)
  | slip (sid : BitVec 4) (cap1 : BitVec 6) (rb1 : BitVec 6) (a : BitVec 6) (m : Mods)
  | slipcl (o : OpSA)
  | ferry (o : OpA)
  | take (d : BitVec 6) (sid : BitVec 4) (m : Mods)
  | land (sid : BitVec 4) (a : BitVec 6) (m : Mods)
  | ltstat (o : OpDAB)
  | ltfree (o : OpA)
  -- barriers, rendezvous, launch (R124-R135)
  | barArrive (o : OpBar)
  | barWait (br : Bool) (sx bn : BitVec 6) (m : Mods)
  | barSync (o : OpBar)
  | barq (q : BitVec 2) (br : Bool) (sd bn : BitVec 6) (m : Mods)
  | reggive (peer : BitVec 5) (n8 : BitVec 4) (m : Mods)
  | regtake (peer : BitVec 5) (m : Mods)
  | launch (o : OpDAB)
  -- system (R338-R354)
  | trap (imm : BitVec 16) (m : Mods)
  | eret (m : Mods)
  | sread (rd : RegOp) (sys : SysReg) (m : Mods)
  | swrite (ra : RegOp) (sys : SysReg) (m : Mods)
  | watch (sc : WScope) (k : WKind) (sp : WSpace) (idx : BitVec 4) (a b : BitVec 7) (m : Mods)
  | unwatch (sc : WScope) (idx : BitVec 4) (m : Mods)
  | dbrk (imm : BitVec 16) (m : Mods)
  | ctxsaveAcc (o : OpCtx)
  | ctxsavePre (o : OpCtx)
  | ctxsaveSlice (o : OpCtx)
  | ctxsaveMig (o : OpCtx)
  | ctxsaveDump (o : OpCtx)
  | ctxloadAcc (o : OpCtx)
  | ctxloadImg (o : OpCtx)
  | pilotset (a : BitVec 6) (ax : Bool) (b : BitVec 6) (idx : BitVec 14) (m : Mods)
  | pilotget (d a : BitVec 6) (ax : Bool) (idx : BitVec 14) (m : Mods)
  | perfrd (d : PerfDst) (hi : Bool) (ev : PerfEvent) (m : Mods)
  | sample (a : BitVec 6) (off : BitVec 11) (m : Mods)
  | haltt (m : Mods)
  | resumet (m : Mods)
  | tlbinvAll (m : Mods)
  | tlbinvPage (a : BitVec 6) (m : Mods)
  | udf (u : BitVec 24)
  -- events; t names a resident team, g a group of it, i an entry of a list of the state
  | clauseDecode (t g : Nat)
  | headerWaitRelease (t g : Nat)
  | switchParkRelease (t g : Nat)
  | scoreboardRelease (t g : Nat)
  | cadenceTurn (t g : Nat)
  | longLatencyResultLands (t g i : Nat)
  | homePerform (i j : Nat)
  | parkedLdRelease (t g : Nat)
  | heldEntryPerformed (i : Nat)
  | pwaitRelease (t g : Nat)
  | cwwaitRelease (t g : Nat)
  | promotedAcquire (i : Nat)
  | reorderBufferRelease (i j : Nat)
  | trackerEntryFree (t g : Nat)
  | copyOperationComplete (i : Nat)
  | svcansRetry (fn pos : Nat)
  | svcansFail (fn pos : Nat)
  | faultRecordDelivery (i : Nat)
  | handlerEntry (t g : Nat)
  | pageMigrationOut (ctx : Nat) (va : BitVec 52)
  | pageMigrationIn (ctx : Nat) (va ia : BitVec 52)
  | migClearRetry (t g : Nat)
  | hostShootdown (ctx : Nat)
  | ferryRowArrival (i : Nat)
  | slipAnswer (i : Nat)
  | landDelivery (i : Nat)
  | landingTimeout (core e : Nat)
  | berthReadDone (i : Nat)
  | mmaxOperationComplete (i : Nat)
  | chainChunkComplete (t g : Nat)
  | carryMoveComplete (t g : Nat)
  | finePreemptionRequest (t : Nat)
  | preemptEntry (t : Nat)
  | sliceEndEntry (t : Nat)
  | sliceEndFallback (t : Nat)
  | launchRecordTaken (fn off : Nat) (bytes : List Byte)
  | dispatcherCycle
  | periodBoundary
  | pilotDecision (temperature : Int)
  | controlTick (hist : List (Nat × List Nat))
  | energyCapReached
  | hangReport (t g : Nat)
  | pilotAccessArrival (i : Nat)
  | pilotEnable (v : Word)
  | pilotStop (v : Word)
  | pilotReplayUpdate (v : Word)
  | functionLevelReset (fn : Nat)
  | contextCreate (fn : Nat)
  | contextDestroy (fn : Nat)
  | registerWrite (w : HostWrite)
  | debugHalt (fn : Nat) (z : BitVec 16)
  | debugResume (fn : Nat) (z : BitVec 16)
  | extend
  | rearm
  | getVersion
  | getCapabilities
  | negotiateAlgorithms
  | getDigests
  | getCertificate
  | challenge (nonce : List Byte)
  | getMeasurements (index : Nat)
  | powerOn (image key sig : List Byte)
  | stageHandoff (image key sig : List Byte)
  | ready (fuseAndCalibration : List Byte)
  | stageTimeLimit
  | thermalTrip
  | powerFault
  | contributionArrival (fn link sender : Nat) (collective : BitVec 16) (round : Word) (payload : List Byte)
  | waitingContributionLands (i : Nat)
  | stragglers (i : Nat)
  | causewayLinkDown (link : Nat)
  | causewayLinkUp (link : Nat)
  | scrubUnitFinished (unit : Nat)
  deriving DecidableEq, Repr

end Sys2Proof
end

