-- ==== Sys2Proof/WellFormed.lean ====
section
/-! DEFINITION. Which instructions the encoding admits: the checks that R78, R79, R81 and the
instruction entries make on the fields of one instruction at decode. Events have no encoding and no
check. -/

namespace Sys2Proof

/-- A predicate selector names p0-p47 (R79). -/
def predOk (p : BitVec 6) : Bool := decide (p.toNat < 48)

/-- The field names the low register of a pair (R108). -/
def even {n : Nat} (r : BitVec n) : Bool := r.toNat % 2 == 0

/-- The R bit is 0 where operand a is no G source (R79). -/
def noR (m : Mods) : Bool := !m.r

/-- Bytes of a load or store element (R197). -/
def MTy.size : MTy → Nat
  | .i32 => 4 | .w32 => 4 | .i16 => 2 | .w16 => 2 | .i8 => 1 | .w8 => 1 | .i64 => 8 | .w64 => 8

/-- Registers of a load or store element (R197). -/
def MTy.regs : MTy → Nat
  | .i64 => 2 | .w64 => 2 | _ => 1

/-- Elements of a load or store (R195). -/
def Vec.count : Vec → Nat
  | .v1 => 1 | .v2 => 2 | .v4 => 4

/-- Width, alignment and range of the registers of `ld`, `st` and `ldu` (R197); `top` is the number
of registers of the file. -/
def blockOk (start : Nat) (t : MTy) (v : Vec) (top : Nat) : Bool :=
  decide (t.size * v.count ≤ 16) && start % (t.regs * v.count) == 0 &&
    decide (start + t.regs * v.count ≤ top)

/-- Address operand of layout EM (R194, R195): a `.cl` base is present and even, an absent index is
0, and the R bit needs an index. -/
def Addr.ok (ad : Addr) (m : Mods) : Bool :=
  (!(ad.sp == .cl) || (ad.bx && even ad.base)) && (ad.ix || (ad.a == 0 && !m.r))

/-- Address operand of layout EX (R194, R200). -/
def AddrX.ok (ad : AddrX) (m : Mods) : Bool :=
  (!ad.cl || (ad.bx && even ad.base)) && (ad.ix || (ad.a == 0 && !m.r))

/-- 64-bit types of atomics (R200). -/
def ATy.wide : ATy → Bool
  | .i64 => true | .w64 => true | _ => false

/-- The types an atomic operation permits (R200). -/
def AOp.permits : AOp → ATy → Bool
  | .add, _ => true
  | .min, _ => true
  | .max, _ => true
  | .exch, _ => true
  | .and, t => t == .w32 || t == .w64
  | .or, t => t == .w32 || t == .w64
  | .xor, t => t == .w32 || t == .w64
  | .incw, t => t == .w32

/-- An ordering that is an acquire (R200). -/
def AOrd.isAcq : AOrd → Bool
  | .acq => true | .acqrel => true | _ => false

/-- An ordering that is a release (R200). -/
def AOrd.isRel : AOrd → Bool
  | .rel => true | .acqrel => true | _ => false

/-- Completion-word base of layout EC (R206): a `.cl` word takes an even pair. -/
def CopyX.cwOk (x : CopyX) : Bool := !(x.cws == .cl) || even x.cwb

/-- A scratchpad side in the peloton window is an even pair (R206). -/
def sideOk (cl : Bool) (r : BitVec 6) : Bool := !cl || even r

/-- A row reference (R269): without AX the A field is 0. -/
def Row.ok (r : Row) : Bool := r.ax || r.a == 0

/-- `redux` and `prfx` (R121). -/
def redOk (op : RedOp) (t : RedTy) (rm : Rm) : Bool :=
  (match op with
   | .and => t == .w32 | .or => t == .w32 | .xor => t == .w32 | _ => true) &&
  (rm == .rne || (op == .add && t == .f32))

/-- 16-bit formats of `mmas` (R272). -/
def MmTy.wide : MmTy → Bool
  | .f16 => true | .bf16 => true | _ => false

/-- Registers with one value per lane (R340). -/
def SysReg.isLane : SysReg → Bool
  | .lanenum => true | .lanepc => true | .lsp => true | .taddrlo => true | .taddrhi => true
  | _ => false

/-- Registers whose swrite column is not "—" (R340). -/
def SysReg.writable : SysReg → Bool
  | .capsel => true | .lanepc => true | .lsp => true | .cadence => true | .fpflags => true
  | .qovf => true | .rngseedlo => true | .rngseedhi => true | .chprog => true
  | .ferrylate => true | .tagctl => true | .tvec => true | .tdeleg => true | .memmode => true
  | .replaybuflo => true | .replaybufhi => true | .ptbaselo => true | .ptbasehi => true
  | .accowner => true | .ctxbuflo => true | .ctxbufhi => true | .ctxaltlo => true
  | .ctxalthi => true | .hangwd => true | .tracectl => true | .tracebuflo => true
  | .tracebufhi => true | .tracepos => true
  | _ => false

/-- Operand kind of a system register access (R340): g for a lane register, s or k otherwise. -/
def RegOp.fits (r : RegOp) (sys : SysReg) : Bool :=
  match r with
  | .g _ => sys.isLane
  | .s _ => !sys.isLane
  | .k _ => !sys.isLane

/-- Watchpoints of a scope (R346). -/
def WScope.count : WScope → Nat
  | .lane => 2 | .team => 8 | .ctx => 16

/-- Register operand of `watch` (R346): g in lane scope, s otherwise. -/
def watchReg (sc : WScope) (r : BitVec 7) : Bool :=
  match sc with
  | .lane => true
  | _ => decide (r.toNat < 64)

/-- `bar.arrive` and `bar.sync` (R128). -/
def OpBar.ok (o : OpBar) : Bool :=
  noR o.m && (o.wr || o.sx == 0) && (o.br || (decide (o.bn.toNat < 16) && (!(o.bn == 0) || o.cnt == 0)))

/-- The checks of R85 step 6 that are not a reserved bit or code. SPC of `copytag.mm`, of which R207 says nothing, is
accepted and has no effect. (DEDUCED, log 29) -/
def wellFormed : Instr → Bool
  | .nop m => noR m
  | .bra _ m => noR m
  | .call _ m => noR m
  | .ret m => noR m
  | .exit m => noR m
  | .enrol _ _ m => noR m
  | .rejoin _ m => noR m
  | .yield m => noR m
  | .sel _ p => predOk p
  | .movi _ _ m => noR m
  | .add64 o => even o.d && even o.a && even o.b
  | .sub64 o => even o.d && even o.a && even o.b
  | .isetp p a b _ t _ =>
    predOk p && (!(t == .i64 || t == .w64) || (even a && even b))
  | .fsetp p _ _ _ _ => predOk p
  | .cvt _ dt st rm _ b c =>
    if rm == .rs then
      st == .fp .f32 && (dt == .fp .f16 || dt == .fp .bf16 || dt == .fp .e4m3 || dt == .fp .e5m2)
    else b == 0 && c == 0
  | .pand o => noR o.m && predOk o.pd && predOk o.pa && predOk o.pb
  | .por o => noR o.m && predOk o.pd && predOk o.pa && predOk o.pb
  | .pxor o => noR o.m && predOk o.pd && predOk o.pa && predOk o.pb
  | .pmov o => noR o.m && predOk o.pd && predOk o.pa
  | .vote o _ => noR o.m && predOk o.pd && predOk o.pa
  | .elect o => noR o.m && predOk o.pd && predOk o.pa
  | .smov _ _ m => noR m
  | .smovi _ _ m => noR m
  | .sadd o => noR o.m
  | .ssub o => noR o.m
  | .smul o => noR o.m
  | .sand o => noR o.m
  | .sor o => noR o.m
  | .sxor o => noR o.m
  | .sshl o => noR o.m
  | .sshr o => noR o.m
  | .ssetp p _ _ _ _ m => noR m && predOk p
  | .s2g _ _ m => noR m
  | .slea o _ _ => noR o.m
  | .shfl o p _ imm _ => predOk p && (!imm || o.b == 0)
  | .redux _ op t rm => redOk op t rm
  | .prfx _ op t rm _ => redOk op t rm
  | .ld d ad t v acq pro m =>
    ad.ok m && blockOk d.toNat t v 128 && (!(ad.sp == .sk) || acq == none) && (!pro || acq.isSome)
  | .st b ad t v rel m =>
    ad.ok m && blockOk b.toNat t v 128 && (!(ad.sp == .sk) || rel == none)
  | .ldu d ad t v m =>
    noR m && ad.ok m && !ad.ix && !(ad.sp == .sk) && blockOk d.toNat t v 64
  | .pwait _ ad m => ad.ok m && !(ad.sp == .sk)
  | .ptest p ad m => ad.ok m && !(ad.sp == .sk) && predOk p
  | .atom o =>
    o.ad.ok o.m && o.op.permits o.t && (!o.t.wide || (even o.d && even o.b)) &&
      (!o.pro || o.ord.isAcq)
  | .red o => o.ad.ok o.m && o.op.permits o.t && (!o.t.wide || even o.b)
  | .atomcas o =>
    o.ad.ok o.m && (!o.t.wide || even o.d) && o.b.toNat % (if o.t.wide then 4 else 2) == 0 &&
      (!o.pro || o.ord.isAcq)
  | .fence _ m => noR m
  | .tagget o cl => !cl || even o.a
  | .tagset _ ad m => ad.ok m && !(ad.sp == .sk)
  | .copyIn o => even o.mm && sideOk o.x.cl o.sp && o.x.cwOk
  | .copyOut o => noR o.m && even o.mm && sideOk o.x.cl o.sp && o.x.cwOk
  | .copySs d a x srcCl m => noR m && sideOk x.cl d && sideOk srcCl a && x.cwOk
  | .copyMm d a x _ => even d && even a && !x.cl && x.cwOk
  | .copyt o out _ => (!out || noR o.m) && even o.mm && sideOk o.x.cl o.sp && o.x.cwOk
  | .gather o =>
    even o.mm && even o.idx && sideOk o.x.cl o.sp && o.x.cwOk && !o.x.ord &&
      decide (o.esz.toNat < 5) && decide (o.win.toNat < 13)
  | .scatter o =>
    noR o.m && even o.mm && even o.idx && sideOk o.x.cl o.sp && o.x.cwOk && !o.x.ord &&
      decide (o.esz.toNat < 5) && decide (o.win.toNat < 13)
  | .cwinit o => noR o.m && sideOk o.cl o.a && (!o.w64 || even o.b)
  | .cwadd o => noR o.m && sideOk o.cl o.a && (!o.w64 || even o.b)
  | .cwwait o => noR o.m && sideOk o.cl o.a && (!o.w64 || even o.b)
  | .cwtest p o => predOk p && noR o.m && sideOk o.cl o.a && (!o.w64 || even o.b)
  | .copytag d _ mm x _ =>
    (if mm then even d else decide (d.toNat < 64) && (!x.cl || even d)) && x.cwOk && !x.ord
  | .berth _ _ m => noR m
  | .unberth o => noR o.m
  | .mmas o ta tb =>
    o.d.toNat % 8 == 0 && o.a.toNat % 4 == 0 && o.b.toNat % 4 == 0 && o.c.toNat % 8 == 0 &&
      ta.wide == tb.wide
  | .mmax o => noR o.m
  | .accw _ _ _ m => noR m
  | .accz row count m =>
    noR m && row.ok && decide (1 ≤ count.toNat) && decide (count.toNat ≤ 24576)
  | .accld _ row m => noR m && row.ok
  | .accst row _ m => noR m && row.ok
  | .accout _ row b t rm _ _ m =>
    noR m && row.ok && even b && (b == 0 || rm == .rs) && !(rm == .rs && t == .f32)
  | .cvtb _ _ _ _ _ m => noR m
  | .accflg _ m => noR m
  | .chain _ row _ _ m => noR m && row.ok
  | .chapply _ row _ m => noR m && row.ok
  | .chld _ _ _ m => noR m
  | .chldId _ m => noR m
  | .chst _ _ _ m => noR m
  | .slip _ _ _ _ m => noR m
  | .slipcl o => noR o.m
  | .ferry o => noR o.m
  | .take _ _ m => noR m
  | .land _ _ m => noR m
  | .ltstat o => noR o.m
  | .ltfree o => noR o.m
  | .barArrive o => o.ok
  | .barWait br _ bn m => noR m && (br || decide (bn.toNat < 16))
  | .barSync o => o.ok
  | .barq _ br _ bn m => noR m && (br || decide (bn.toNat < 16))
  | .reggive _ n8 m => noR m && !(n8 == 0)
  | .regtake _ m => noR m
  | .launch o => noR o.m
  | .trap _ m => noR m
  | .eret m => noR m
  | .sread rd sys m => noR m && rd.fits sys
  | .swrite ra sys m => noR m && ra.fits sys && sys.writable
  | .watch sc _ _ idx a b m =>
    noR m && decide (idx.toNat < sc.count) && watchReg sc a && watchReg sc b && even a
  | .unwatch sc idx m => noR m && decide (idx.toNat < sc.count)
  | .dbrk _ m => noR m
  | .ctxsaveAcc o => noR o.m && predOk o.p
  | .ctxsavePre o => noR o.m && predOk o.p
  | .ctxsaveSlice o => noR o.m && predOk o.p
  | .ctxsaveMig o => noR o.m && predOk o.p
  | .ctxsaveDump o => noR o.m && predOk o.p
  | .ctxloadAcc o => noR o.m && predOk o.p
  | .ctxloadImg o => noR o.m && predOk o.p
  | .pilotset a ax _ _ m => noR m && (ax || a == 0)
  | .pilotget _ a ax _ m => noR m && (ax || a == 0)
  | .perfrd _ _ _ m => noR m
  | .sample _ _ m => noR m
  | .haltt m => noR m
  | .resumet m => noR m
  | .tlbinvAll m => noR m
  | .tlbinvPage a m => noR m && even a
  -- instructions whose operands are all G registers, and the events, which have no encoding
  | .brx .. | .callx .. | .add .. | .sub .. | .mul .. | .mulhi .. | .mad .. | .min .. | .max ..
  | .abs .. | .neg .. | .and .. | .or .. | .xor .. | .not .. | .shl .. | .shr .. | .sar ..
  | .clz .. | .popc .. | .brev .. | .bfe .. | .bfi .. | .mov .. | .addi .. | .lea .. | .shli ..
  | .shri .. | .sari .. | .fadd .. | .fsub .. | .fmul .. | .ffma .. | .fmin .. | .fmax ..
  | .fabs .. | .fneg .. | .pfadd .. | .pfmul .. | .pffma .. | .fclass .. | .rcp .. | .rsq ..
  | .sqrt .. | .exp2 .. | .log2 .. | .frnd .. | .g2s .. | .rng .. | .rngn .. | .rngf ..
  | .tagptr .. | .udf .. | .clauseDecode .. | .headerWaitRelease .. | .switchParkRelease ..
  | .scoreboardRelease .. | .cadenceTurn .. | .longLatencyResultLands .. | .homePerform ..
  | .parkedLdRelease .. | .heldEntryPerformed .. | .pwaitRelease .. | .cwwaitRelease ..
  | .promotedAcquire .. | .reorderBufferRelease .. | .trackerEntryFree ..
  | .copyOperationComplete .. | .svcansRetry .. | .svcansFail .. | .faultRecordDelivery ..
  | .handlerEntry .. | .pageMigrationOut .. | .pageMigrationIn .. | .migClearRetry ..
  | .hostShootdown .. | .ferryRowArrival .. | .slipAnswer .. | .landDelivery ..
  | .landingTimeout .. | .berthReadDone .. | .mmaxOperationComplete .. | .chainChunkComplete ..
  | .carryMoveComplete .. | .finePreemptionRequest .. | .preemptEntry .. | .sliceEndEntry ..
  | .sliceEndFallback .. | .launchRecordTaken .. | .dispatcherCycle | .periodBoundary
  | .pilotDecision .. | .controlTick .. | .energyCapReached | .hangReport ..
  | .pilotAccessArrival .. | .pilotEnable .. | .pilotStop .. | .pilotReplayUpdate ..
  | .functionLevelReset .. | .contextCreate .. | .contextDestroy .. | .registerWrite ..
  | .debugHalt .. | .debugResume .. | .extend | .rearm | .getVersion
  | .getCapabilities | .negotiateAlgorithms | .getDigests | .getCertificate
  | .challenge .. | .getMeasurements .. | .powerOn .. | .stageHandoff .. | .ready ..
  | .stageTimeLimit | .thermalTrip | .powerFault | .contributionArrival ..
  | .waitingContributionLands .. | .stragglers .. | .causewayLinkDown .. | .causewayLinkUp ..
  | .scrubUnitFinished .. => true

end Sys2Proof
end

