-- ==== Sys2Proof/Decode.lean ====
section
/-! DEFINITION. The instruction encodings (R78-R84 and the instruction entries): reading the fields of
an instruction word and its extension word, writing them, and decoding. A word is a natural number
below 2^32; bit 0 is its least significant bit. -/

namespace Sys2Proof

/-! ### Codes of fields -/

def IntTy.code : IntTy → Nat
  | .i32 => 0 | .w32 => 1
def IntTy.ofCode : Nat → Option IntTy
  | 0 => some .i32 | 1 => some .w32 | _ => none

def CmpTy.code : CmpTy → Nat
  | .i32 => 0 | .w32 => 1 | .i64 => 6 | .w64 => 7
def CmpTy.ofCode : Nat → Option CmpTy
  | 0 => some .i32 | 1 => some .w32 | 6 => some .i64 | 7 => some .w64 | _ => none

def Cmp.code : Cmp → Nat
  | .eq => 0 | .ne => 1 | .lt => 2 | .le => 3 | .gt => 4 | .ge => 5
def Cmp.ofCode : Nat → Option Cmp
  | 0 => some .eq | 1 => some .ne | 2 => some .lt | 3 => some .le | 4 => some .gt | 5 => some .ge
  | _ => none

def FCmp.code : FCmp → Nat
  | .ord c => c.code | .num => 6 | .nan => 7 | .unord c => 8 + c.code
def FCmp.ofCode : Nat → Option FCmp
  | 0 => some (.ord .eq) | 1 => some (.ord .ne) | 2 => some (.ord .lt)
  | 3 => some (.ord .le) | 4 => some (.ord .gt) | 5 => some (.ord .ge)
  | 6 => some .num | 7 => some .nan
  | 8 => some (.unord .eq) | 9 => some (.unord .ne) | 10 => some (.unord .lt)
  | 11 => some (.unord .le) | 12 => some (.unord .gt) | 13 => some (.unord .ge)
  | _ => none

def Rm.code : Rm → Nat
  | .rne => 0 | .rz => 1 | .rd => 2 | .ru => 3
def Rm.ofCode : Nat → Option Rm
  | 0 => some .rne | 1 => some .rz | 2 => some .rd | 3 => some .ru | _ => none

def RmS.code : RmS → Nat
  | .det r => r.code | .rs => 4
def RmS.ofCode : Nat → Option RmS
  | 0 => some (.det .rne) | 1 => some (.det .rz) | 2 => some (.det .rd) | 3 => some (.det .ru)
  | 4 => some .rs | _ => none

def FTy.code : FTy → Nat
  | .f32 => 8 | .f16 => 9 | .bf16 => 10 | .e4m3 => 11 | .e5m2 => 12
def FTy.ofCode : Nat → Option FTy
  | 8 => some .f32 | 9 => some .f16 | 10 => some .bf16 | 11 => some .e4m3 | 12 => some .e5m2
  | _ => none

def PTy.code : PTy → Nat
  | .f16 => 9 | .bf16 => 10
def PTy.ofCode : Nat → Option PTy
  | 9 => some .f16 | 10 => some .bf16 | _ => none

def CvtTy.code : CvtTy → Nat
  | .i32 => 0 | .w32 => 1 | .i16 => 2 | .w16 => 3 | .i8 => 4 | .w8 => 5 | .fp t => t.code
def CvtTy.ofCode : Nat → Option CvtTy
  | 0 => some .i32 | 1 => some .w32 | 2 => some .i16 | 3 => some .w16 | 4 => some .i8 | 5 => some .w8
  | 8 => some (.fp .f32) | 9 => some (.fp .f16) | 10 => some (.fp .bf16) | 11 => some (.fp .e4m3)
  | 12 => some (.fp .e5m2) | _ => none

def ShflMode.code : ShflMode → Nat
  | .src => 0 | .back => 1 | .ahead => 2 | .mirror => 3 | .rot => 4
def ShflMode.ofCode : Nat → Option ShflMode
  | 0 => some .src | 1 => some .back | 2 => some .ahead | 3 => some .mirror | 4 => some .rot
  | _ => none

def RedOp.code : RedOp → Nat
  | .add => 0 | .min => 1 | .max => 2 | .and => 3 | .or => 4 | .xor => 5
def RedOp.ofCode : Nat → Option RedOp
  | 0 => some .add | 1 => some .min | 2 => some .max | 3 => some .and | 4 => some .or
  | 5 => some .xor | _ => none

def RedTy.code : RedTy → Nat
  | .i32 => 0 | .w32 => 1 | .f32 => 8
def RedTy.ofCode : Nat → Option RedTy
  | 0 => some .i32 | 1 => some .w32 | 8 => some .f32 | _ => none

def RngTy.code : RngTy → Nat
  | .w32 => 1 | .w16 => 3
def RngTy.ofCode : Nat → Option RngTy
  | 1 => some .w32 | 3 => some .w16 | _ => none

def VoteMode.code : VoteMode → Nat
  | .some => 0 | .each => 1 | .same => 2 | .odd => 3
def VoteMode.ofCode : Nat → Option VoteMode
  | 0 => Option.some .some | 1 => Option.some .each | 2 => Option.some .same
  | 3 => Option.some .odd | _ => none

def Space.code : Space → Nat
  | .sk => 0 | .tm => 1 | .cl => 2
def Space.ofCode : Nat → Option Space
  | 0 => some .sk | 1 => some .tm | 2 => some .cl | _ => none

def MTy.code : MTy → Nat
  | .i32 => 0 | .w32 => 1 | .i16 => 2 | .w16 => 3 | .i8 => 4 | .w8 => 5 | .i64 => 6 | .w64 => 7
def MTy.ofCode : Nat → Option MTy
  | 0 => some .i32 | 1 => some .w32 | 2 => some .i16 | 3 => some .w16 | 4 => some .i8
  | 5 => some .w8 | 6 => some .i64 | 7 => some .w64 | _ => none

def Vec.code : Vec → Nat
  | .v1 => 0 | .v2 => 1 | .v4 => 2
def Vec.ofCode : Nat → Option Vec
  | 0 => some .v1 | 1 => some .v2 | 2 => some .v4 | _ => none

def Scope.code : Scope → Nat
  | .grp => 0 | .team => 1 | .clus => 2 | .dev => 3 | .sys => 4
def Scope.ofCode : Nat → Option Scope
  | 0 => some .grp | 1 => some .team | 2 => some .clus | 3 => some .dev | 4 => some .sys
  | _ => none

def AOrd.code : AOrd → Nat
  | .relaxed => 0 | .acq => 1 | .rel => 2 | .acqrel => 3
def AOrd.ofCode : Nat → Option AOrd
  | 0 => some .relaxed | 1 => some .acq | 2 => some .rel | 3 => some .acqrel | _ => none

def ATy.code : ATy → Nat
  | .i32 => 0 | .w32 => 1 | .i64 => 6 | .w64 => 7 | .f32 => 8
def ATy.ofCode : Nat → Option ATy
  | 0 => some .i32 | 1 => some .w32 | 6 => some .i64 | 7 => some .w64 | 8 => some .f32 | _ => none

def AOp.code : AOp → Nat
  | .add => 0 | .min => 1 | .max => 2 | .and => 3 | .or => 4 | .xor => 5 | .exch => 6 | .incw => 7
def AOp.ofCode : Nat → Option AOp
  | 0 => some .add | 1 => some .min | 2 => some .max | 3 => some .and | 4 => some .or
  | 5 => some .xor | 6 => some .exch | 7 => some .incw | _ => none

def CwSpace.code : CwSpace → Nat
  | .none => 0 | .tm => 1 | .cl => 2
def CwSpace.ofCode : Nat → Option CwSpace
  | 0 => some .none | 1 => some .tm | 2 => some .cl | _ => Option.none

def MmTy.code : MmTy → Nat
  | .f16 => 9 | .bf16 => 10 | .e4m3 => 11 | .e5m2 => 12
def MmTy.ofCode : Nat → Option MmTy
  | 9 => some .f16 | 10 => some .bf16 | 11 => some .e4m3 | 12 => some .e5m2 | _ => none

def WScope.code : WScope → Nat
  | .lane => 0 | .team => 1 | .ctx => 2
def WScope.ofCode : Nat → Option WScope
  | 0 => some .lane | 1 => some .team | 2 => some .ctx | _ => none

def WKind.code : WKind → Nat
  | .r => 1 | .w => 2 | .rw => 3
def WKind.ofCode : Nat → Option WKind
  | 1 => some .r | 2 => some .w | 3 => some .rw | _ => none

def WSpace.code : WSpace → Nat
  | .sk => 0 | .tm => 1 | .cl => 2 | .hbm => 3
def WSpace.ofCode : Nat → Option WSpace
  | 0 => some .sk | 1 => some .tm | 2 => some .cl | 3 => some .hbm | _ => none

def PerfEvent.code : PerfEvent → Nat
  | .slots => 0 | .clauses => 1 | .cadenceTurns => 2 | .earlyDrains => 3 | .bankReads => 4
  | .coreCycles => 5 | .matrixSteps => 6 | .chainWork => 7
def PerfEvent.ofCode : Nat → Option PerfEvent
  | 0 => some .slots | 1 => some .clauses | 2 => some .cadenceTurns | 3 => some .earlyDrains
  | 4 => some .bankReads | 5 => some .coreCycles | 6 => some .matrixSteps | 7 => some .chainWork
  | _ => none

/-- The numbers of R340. -/
def SysReg.code : SysReg → Nat
  | .lanenum => 0x000 | .grpid => 0x001 | .role => 0x002 | .teamgrps => 0x003
  | .teamx => 0x004 | .teamy => 0x005 | .teamz => 0x006
  | .gridx => 0x007 | .gridy => 0x008 | .gridz => 0x009
  | .coreid => 0x00A | .grpslot => 0x00B | .ctxnum => 0x00C | .capsel => 0x00D | .capptr => 0x00E
  | .lanepc => 0x010 | .exmask => 0x011 | .lsp => 0x012 | .cadence => 0x013 | .fpflags => 0x014
  | .qovf => 0x015 | .rngseedlo => 0x016 | .rngseedhi => 0x017
  | .accbase => 0x018 | .acclim => 0x019 | .accflags => 0x01A | .chprog => 0x01B
  | .ferrylate => 0x01C | .tagctl => 0x01D | .tvec => 0x01E
  | .tcode => 0x020 | .tinfo => 0x021 | .tmaskAct => 0x022 | .tmaskFlt => 0x023
  | .taddrlo => 0x024 | .taddrhi => 0x025 | .tinstr => 0x026 | .tpc => 0x027
  | .tdeleg => 0x030 | .svtab => 0x031 | .memmode => 0x032
  | .replaybuflo => 0x033 | .replaybufhi => 0x034 | .ptbaselo => 0x035 | .ptbasehi => 0x036
  | .vfsegbase => 0x037 | .vfsegsize => 0x038 | .accowner => 0x039
  | .ctxbuflo => 0x03A | .ctxbufhi => 0x03B | .ctxaltlo => 0x03C | .ctxalthi => 0x03D
  | .hangwd => 0x03E | .tracectl => 0x03F | .tracebuflo => 0x040 | .tracebufhi => 0x041
  | .tracepos => 0x042 | .codebaselo => 0x043 | .codebasehi => 0x044

def SysReg.ofCode : Nat → Option SysReg
  | 0x000 => some .lanenum | 0x001 => some .grpid | 0x002 => some .role | 0x003 => some .teamgrps
  | 0x004 => some .teamx | 0x005 => some .teamy | 0x006 => some .teamz
  | 0x007 => some .gridx | 0x008 => some .gridy | 0x009 => some .gridz
  | 0x00A => some .coreid | 0x00B => some .grpslot | 0x00C => some .ctxnum
  | 0x00D => some .capsel | 0x00E => some .capptr
  | 0x010 => some .lanepc | 0x011 => some .exmask | 0x012 => some .lsp | 0x013 => some .cadence
  | 0x014 => some .fpflags | 0x015 => some .qovf | 0x016 => some .rngseedlo
  | 0x017 => some .rngseedhi | 0x018 => some .accbase | 0x019 => some .acclim
  | 0x01A => some .accflags | 0x01B => some .chprog | 0x01C => some .ferrylate
  | 0x01D => some .tagctl | 0x01E => some .tvec
  | 0x020 => some .tcode | 0x021 => some .tinfo | 0x022 => some .tmaskAct | 0x023 => some .tmaskFlt
  | 0x024 => some .taddrlo | 0x025 => some .taddrhi | 0x026 => some .tinstr | 0x027 => some .tpc
  | 0x030 => some .tdeleg | 0x031 => some .svtab | 0x032 => some .memmode
  | 0x033 => some .replaybuflo | 0x034 => some .replaybufhi | 0x035 => some .ptbaselo
  | 0x036 => some .ptbasehi | 0x037 => some .vfsegbase | 0x038 => some .vfsegsize
  | 0x039 => some .accowner | 0x03A => some .ctxbuflo | 0x03B => some .ctxbufhi
  | 0x03C => some .ctxaltlo | 0x03D => some .ctxalthi | 0x03E => some .hangwd
  | 0x03F => some .tracectl | 0x040 => some .tracebuflo | 0x041 => some .tracebufhi
  | 0x042 => some .tracepos | 0x043 => some .codebaselo | 0x044 => some .codebasehi
  | _ => none

/-! ### Fields -/

/-- Bits [lo + n - 1 : lo] of a word. -/
def fld (w lo n : Nat) : Nat := w / 2 ^ lo % 2 ^ n

/-- Bit k of a word. -/
def flag (w k : Nat) : Bool := w / 2 ^ k % 2 == 1

/-- Bits [lo + n - 1 : lo] of a word, as bits. -/
def bv (n w lo : Nat) : BitVec n := BitVec.ofNat n (w / 2 ^ lo)

/-- The low three bits of every instruction word (R78). -/
def mods (w : Nat) : Mods := { g := flag w 2, r := flag w 1, s := flag w 0 }

/-- The register fields of format F3 (R78), of kinds G and S. -/
def dG (w : Nat) : BitVec 7 := bv 7 w 17
def aG (w : Nat) : BitVec 7 := bv 7 w 10
def bG (w : Nat) : BitVec 7 := bv 7 w 3
def dS (w : Nat) : BitVec 6 := bv 6 w 17
def aS (w : Nat) : BitVec 6 := bv 6 w 10
def bS (w : Nat) : BitVec 6 := bv 6 w 3

def opDA (w : Nat) : OpDA := { d := dG w, a := aG w, m := mods w }
def opDAB (w : Nat) : OpDAB := { d := dG w, a := aG w, b := bG w, m := mods w }
def opA (w : Nat) : OpA := { a := aG w, m := mods w }
def opSA (w : Nat) : OpSA := { a := aS w, m := mods w }
def opSDAB (w : Nat) : OpSDAB := { d := dS w, a := aS w, b := bS w, m := mods w }
def opShiftI (w : Nat) : OpShiftI := { d := dG w, a := aG w, n := bv 5 w 3, m := mods w }
def opPred (w : Nat) : OpPred :=
  { pd := bv 6 w 18, pa := bv 6 w 12, pb := bv 6 w 6, na := flag w 5, nb := flag w 4, m := mods w }
def opPred1 (w : Nat) : OpPred1 :=
  { pd := bv 6 w 18, pa := bv 6 w 12, na := flag w 5, m := mods w }

/-- Operands of layout EA (R99): C, P and the codes T, RM, T2 of the extension word. -/
def opDABC (w x : Nat) : OpDABC :=
  { d := dG w, a := aG w, b := bG w, c := bv 7 x 25, m := mods w }
def eaP (x : Nat) : BitVec 6 := bv 6 x 19
def eaT (x : Nat) : Nat := fld x 15 4
def eaRm (x : Nat) : Nat := fld x 12 3
def eaT2 (x : Nat) : Nat := fld x 8 4

def opDABT (w x : Nat) : Option OpDABT := do
  let t ← IntTy.ofCode (eaT x)
  some { d := dG w, a := aG w, b := bG w, t := t, m := mods w }
def opFDAB (w x : Nat) : Option OpFDAB := do
  let rm ← Rm.ofCode (eaRm x)
  some { d := dG w, a := aG w, b := bG w, rm := rm, m := mods w }
def opFDA (w x : Nat) : Option OpFDA := do
  let rm ← Rm.ofCode (eaRm x)
  some { d := dG w, a := aG w, rm := rm, m := mods w }
def opPDAB (w x : Nat) : Option OpPDAB := do
  let t ← PTy.ofCode (eaT x)
  let rm ← Rm.ofCode (eaRm x)
  some { d := dG w, a := aG w, b := bG w, t := t, rm := rm, m := mods w }

/-- Address operand of layout EM (R195). -/
def addrEM (w x : Nat) : Option Addr := do
  let sp ← Space.ofCode (fld x 24 2)
  some { a := aG w, base := bv 6 x 26, sp := sp, bx := flag x 17, ix := flag x 16, off := bv 11 x 0 }

/-- ORD and SCOPE of layout EM (R195): without ORD the scope is absent. -/
def ordEM (x : Nat) : Option (Option Scope) :=
  if flag x 15 then (Scope.ofCode (fld x 12 3)).map some else some none

/-- Address operand of layout EX (R200): SPACE 1 is `.tm`, 2 is `.cl`. -/
def addrEX (w x : Nat) : AddrX :=
  { a := aG w, base := bv 6 x 26, cl := flag x 25, bx := flag x 15, ix := flag x 14, off := bv 8 x 0 }

/-- Common fields of layout EC (R206). -/
def copyX (x : Nat) : Option CopyX := do
  let cws ← CwSpace.ofCode (fld x 15 2)
  some { cwb := bv 6 x 26, cnt := bv 6 x 20, cl := flag x 17, cws := cws, ord := flag x 14,
         cwoff := bv 6 x 8 }

/-- Row reference of layout ER (R269). -/
def rowER (w x : Nat) : Row := { a := aS w, ax := flag x 16, roff := bv 15 x 17 }

/-- Completion-word operands (R213). -/
def opCw (w x : Nat) : OpCw :=
  { a := aS w, b := bS w, cl := flag x 31, w64 := flag x 30, off := bv 21 x 0, m := mods w }

/-- Fields of `bar.arrive` and `bar.sync` (R128). -/
def opBar (w : Nat) : OpBar :=
  { br := flag w 21, wr := flag w 20, sx := bv 6 w 14, bn := bv 6 w 8, cnt := bv 5 w 3, m := mods w }

/-! ### Reading the fields of an instruction, by opcode (R82) -/

/-- Opcodes 0x00-0x09 (R104). -/
def readControl (op w : Nat) : Option Instr :=
  match op with
  | 0x00 => some (.nop (mods w))
  | 0x01 => some (.bra (bv 21 w 3) (mods w))
  | 0x02 => some (.brx (opA w))
  | 0x03 => some (.call (bv 21 w 3) (mods w))
  | 0x04 => some (.callx (opA w))
  | 0x05 => some (.ret (mods w))
  | 0x06 => some (.exit (mods w))
  | 0x07 => some (.enrol (bv 3 w 21) (bv 18 w 3) (mods w))
  | 0x08 => some (.rejoin (bv 3 w 21) (mods w))
  | 0x09 => some (.yield (mods w))
  | _ => none

/-- Opcodes 0x10-0x2F (R107-R109). -/
def readInteger (op w x : Nat) : Option Instr :=
  match op with
  | 0x10 => some (.add (opDAB w))
  | 0x11 => some (.sub (opDAB w))
  | 0x12 => some (.mul (opDAB w))
  | 0x13 => (opDABT w x).map .mulhi
  | 0x14 => (IntTy.ofCode (eaT x)).map fun t => .mad (opDABC w x) t (flag x 0)
  | 0x15 => (opDABT w x).map .min
  | 0x16 => (opDABT w x).map .max
  | 0x17 => some (.abs (opDA w))
  | 0x18 => some (.neg (opDA w))
  | 0x19 => some (.and (opDAB w))
  | 0x1A => some (.or (opDAB w))
  | 0x1B => some (.xor (opDAB w))
  | 0x1C => some (.not (opDA w))
  | 0x1D => some (.shl (opDAB w))
  | 0x1E => some (.shr (opDAB w))
  | 0x1F => some (.sar (opDAB w))
  | 0x20 => some (.clz (opDA w))
  | 0x21 => some (.popc (opDA w))
  | 0x22 => some (.brev (opDA w))
  | 0x23 => (opDABT w x).map .bfe
  | 0x24 => some (.bfi (opDABC w x))
  | 0x25 => some (.sel (opDAB w) (eaP x))
  | 0x26 => some (.mov (opDA w))
  | 0x27 => some (.movi (dG w) (bv 32 x 0) (mods w))
  | 0x28 => some (.addi (opDA w) (bv 7 w 3))
  | 0x29 => some (.lea (opDAB w) (bv 24 x 8) (bv 5 x 0))
  | 0x2A => some (.add64 (opDAB w))
  | 0x2B => some (.sub64 (opDAB w))
  | 0x2C => do
    let t ← CmpTy.ofCode (eaT x)
    let cc ← Cmp.ofCode (eaT2 x)
    some (.isetp (eaP x) (aG w) (bG w) cc t (mods w))
  | 0x2D => some (.shli (opShiftI w))
  | 0x2E => some (.shri (opShiftI w))
  | 0x2F => some (.sari (opShiftI w))
  | _ => none

/-- Opcodes 0x30-0x43 (R110-R116). -/
def readFloat (op w x : Nat) : Option Instr :=
  match op with
  | 0x30 => (opFDAB w x).map .fadd
  | 0x31 => (opFDAB w x).map .fsub
  | 0x32 => (opFDAB w x).map .fmul
  | 0x33 => (Rm.ofCode (eaRm x)).map fun rm => .ffma (opDABC w x) rm
  | 0x34 => some (.fmin (opDAB w))
  | 0x35 => some (.fmax (opDAB w))
  | 0x36 => some (.fabs (opDA w))
  | 0x37 => some (.fneg (opDA w))
  | 0x38 => (FCmp.ofCode (eaT2 x)).map fun cc => .fsetp (eaP x) (aG w) (bG w) cc (mods w)
  | 0x39 => (opPDAB w x).map .pfadd
  | 0x3A => (opPDAB w x).map .pfmul
  | 0x3B => do
    let t ← PTy.ofCode (eaT x)
    let rm ← Rm.ofCode (eaRm x)
    some (.pffma (opDABC w x) t rm)
  | 0x3C => (FTy.ofCode (eaT x)).map fun t => .fclass (opDA w) t
  | 0x3D => (opFDA w x).map .rcp
  | 0x3E => (opFDA w x).map .rsq
  | 0x3F => (opFDA w x).map .sqrt
  | 0x40 => (opFDA w x).map .exp2
  | 0x41 => (opFDA w x).map .log2
  | 0x42 => do
    let dt ← CvtTy.ofCode (eaT x)
    let st ← CvtTy.ofCode (eaT2 x)
    let rm ← RmS.ofCode (eaRm x)
    some (.cvt (opDA w) dt st rm (flag x 0) (bG w) (bv 6 x 25))
  | 0x43 => (opFDA w x).map .frnd
  | _ => none

/-- Opcodes 0x48-0x5D (R117-R119). -/
def readPredScalar (op w x : Nat) : Option Instr :=
  match op with
  | 0x48 => some (.pand (opPred w))
  | 0x49 => some (.por (opPred w))
  | 0x4A => some (.pxor (opPred w))
  | 0x4B => some (.pmov (opPred1 w))
  | 0x4C => (VoteMode.ofCode (fld w 6 2)).map fun m => .vote (opPred1 w) m
  | 0x4D => some (.elect (opPred1 w))
  | 0x50 => some (.smov (dS w) (aS w) (mods w))
  | 0x51 => some (.smovi (dS w) (bv 32 x 0) (mods w))
  | 0x52 => some (.sadd (opSDAB w))
  | 0x53 => some (.ssub (opSDAB w))
  | 0x54 => some (.smul (opSDAB w))
  | 0x55 => some (.sand (opSDAB w))
  | 0x56 => some (.sor (opSDAB w))
  | 0x57 => some (.sxor (opSDAB w))
  | 0x58 => some (.sshl (opSDAB w))
  | 0x59 => some (.sshr (opSDAB w))
  | 0x5A => do
    let t ← IntTy.ofCode (eaT x)
    let cc ← Cmp.ofCode (eaT2 x)
    some (.ssetp (eaP x) (aS w) (bS w) cc t (mods w))
  | 0x5B => some (.s2g (dG w) (aS w) (mods w))
  | 0x5C => some (.g2s (dS w) (aG w) (bv 5 w 3) (mods w))
  | 0x5D => some (.slea (opSDAB w) (bv 24 x 8) (bv 5 x 0))
  | _ => none

/-- Opcodes 0x60-0x65 (R120-R123). -/
def readExchange (op w x : Nat) : Option Instr :=
  match op with
  | 0x60 => (ShflMode.ofCode (eaT2 x)).map fun m =>
      .shfl (opDAB w) (eaP x) m (flag x 5) (bv 5 x 0)
  | 0x61 => do
    let o ← RedOp.ofCode (eaT2 x)
    let t ← RedTy.ofCode (eaT x)
    let rm ← Rm.ofCode (eaRm x)
    some (.redux (opDA w) o t rm)
  | 0x62 => do
    let o ← RedOp.ofCode (eaT2 x)
    let t ← RedTy.ofCode (eaT x)
    let rm ← Rm.ofCode (eaRm x)
    some (.prfx (opDA w) o t rm (flag x 0))
  | 0x63 => (RngTy.ofCode (eaT x)).map fun t => .rng (opDAB w) t
  | 0x64 => some (.rngn (opDAB w))
  | 0x65 => some (.rngf (opDAB w))
  | _ => none

/-- Opcodes 0x80-0x8B (R194-R205). -/
def readMemory (op w x : Nat) : Option Instr :=
  match op with
  | 0x80 => do
    let ad ← addrEM w x
    let t ← MTy.ofCode (fld x 20 4)
    let v ← Vec.ofCode (fld x 18 2)
    let acq ← ordEM x
    some (.ld (dG w) ad t v acq (flag x 11) (mods w))
  | 0x81 => do
    let ad ← addrEM w x
    let t ← MTy.ofCode (fld x 20 4)
    let v ← Vec.ofCode (fld x 18 2)
    let rel ← ordEM x
    some (.st (bG w) ad t v rel (mods w))
  | 0x82 => do
    let ad ← addrEM w x
    let t ← MTy.ofCode (fld x 20 4)
    let v ← Vec.ofCode (fld x 18 2)
    some (.ldu (dS w) ad t v (mods w))
  | 0x83 => (addrEM w x).map fun ad => .pwait (bG w) ad (mods w)
  | 0x84 => (addrEM w x).map fun ad => .ptest (dS w) ad (mods w)
  | 0x85 => do
    let t ← ATy.ofCode (fld x 20 4)
    let o ← AOp.ofCode (fld x 16 4)
    let ord ← AOrd.ofCode (fld x 12 2)
    let sc ← Scope.ofCode (fld x 9 3)
    some (.atom { d := dG w, b := bG w, ad := addrEX w x, t := t, op := o, ord := ord, scope := sc,
                  pro := flag x 8, m := mods w })
  | 0x86 => do
    let t ← ATy.ofCode (fld x 20 4)
    let o ← AOp.ofCode (fld x 16 4)
    let sc ← Scope.ofCode (fld x 9 3)
    some (.red { b := bG w, ad := addrEX w x, t := t, op := o, rel := flag x 13, scope := sc,
                 m := mods w })
  | 0x87 => do
    let t ← ATy.ofCode (fld x 20 4)
    let ord ← AOrd.ofCode (fld x 12 2)
    let sc ← Scope.ofCode (fld x 9 3)
    some (.atomcas { d := dG w, b := bG w, ad := addrEX w x, t := t, ord := ord, scope := sc,
                     pro := flag x 8, m := mods w })
  | 0x88 => (Scope.ofCode (fld w 21 3)).map fun sc => .fence sc (mods w)
  | 0x89 => some (.tagget (opDA w) (flag w 3))
  | 0x8A => (addrEM w x).map fun ad => .tagset (bG w) ad (mods w)
  | 0x8B => some (.tagptr (opDAB w))
  | _ => none

/-- Opcodes 0x90-0x98 (R206-R214). -/
def readCopy (op w x : Nat) : Option Instr :=
  match op with
  | 0x90 => do
    let c ← copyX x
    match fld x 18 2 with
    | 0 => some (.copyIn { sp := dS w, mm := aG w, x := c, m := mods w })
    | 1 => some (.copyOut { sp := aS w, mm := dG w, x := c, m := mods w })
    | 2 => some (.copySs (dS w) (aS w) c (flag x 0) (mods w))
    | _ => some (.copyMm (dG w) (aG w) c (mods w))
  | 0x91 => do
    let c ← copyX x
    match fld x 18 2 with
    | 0 => some (.copyt { sp := dS w, mm := aG w, x := c, m := mods w } false (flag x 0))
    | _ => some (.copyt { sp := aS w, mm := dG w, x := c, m := mods w } true (flag x 0))
  | 0x92 => (copyX x).map fun c =>
      .gather { sp := dS w, mm := aG w, idx := bG w, x := c, esz := bv 3 x 5, win := bv 5 x 0,
                m := mods w }
  | 0x93 => (copyX x).map fun c =>
      .scatter { sp := aS w, mm := dG w, idx := bG w, x := c, esz := bv 3 x 5, win := bv 5 x 0,
                 m := mods w }
  | 0x94 => some (.cwinit (opCw w x))
  | 0x95 => some (.cwadd (opCw w x))
  | 0x96 => some (.cwwait (opCw w x))
  | 0x97 => some (.cwtest (dS w) (opCw w x))
  | 0x98 => (copyX x).map fun c => .copytag (dG w) (aG w) (flag x 0) c (mods w)
  | _ => none

/-- Opcodes 0xA0-0xB3 (R267-R296). -/
def readMatrix (op w x : Nat) : Option Instr :=
  match op with
  | 0xA0 => some (.berth (aS w) (bv 5 x 27) (mods w))
  | 0xA1 => some (.unberth (opSA w))
  | 0xA2 => do
    let ta ← MmTy.ofCode (eaT x)
    let tb ← MmTy.ofCode (eaT2 x)
    some (.mmas (opDABC w x) ta tb)
  | 0xA3 => some (.mmax (opA w))
  | 0xA4 => some (.accw (aS w) (bS w) (bv 6 x 25) (mods w))
  | 0xA5 => some (.accz (rowER w x) (bv 16 x 0) (mods w))
  | 0xA6 => some (.accld (dG w) (rowER w x) (mods w))
  | 0xA7 => some (.accst (rowER w x) (bG w) (mods w))
  | 0xA8 => do
    let t ← FTy.ofCode (fld x 12 4)
    let rm ← RmS.ofCode (fld x 9 3)
    some (.accout (dS w) (rowER w x) (bS w) t rm (flag x 8) (bv 8 x 0) (mods w))
  | 0xA9 => some (.cvtb (dS w) (aG w) (bS w) (bv 2 x 30) (flag x 29) (mods w))
  | 0xAA => some (.accflg (dS w) (mods w))
  | 0xB0 => some (.chain (bv 3 w 17) (rowER w x) (bS w) (bv 6 x 10) (mods w))
  | 0xB1 => some (.chapply (bv 3 w 17) (rowER w x) (bS w) (mods w))
  | 0xB2 =>
    if flag x 31 then some (.chldId (bv 3 w 17) (mods w))
    else some (.chld (bv 3 w 17) (aS w) (bv 11 x 0) (mods w))
  | 0xB3 => some (.chst (bv 3 w 17) (aS w) (bv 11 x 0) (mods w))
  | _ => none

/-- Opcodes 0xB8-0xC4 (R224-R226, R128-R134). -/
def readFerrySync (op w x : Nat) : Option Instr :=
  match op with
  | 0xB8 => some (.slip (bv 4 x 28) (bv 6 x 22) (bv 6 x 16) (aS w) (mods w))
  | 0xB9 => some (.slipcl (opSA w))
  | 0xBA => some (.ferry (opA w))
  | 0xBB => some (.take (dS w) (bv 4 x 28) (mods w))
  | 0xBC => some (.land (bv 4 x 28) (aS w) (mods w))
  | 0xBD => some (.ltstat (opDAB w))
  | 0xBE => some (.ltfree (opA w))
  | 0xC0 =>
    match fld w 22 2 with
    | 0 => some (.barArrive (opBar w))
    | 1 => some (.barWait (flag w 21) (bv 6 w 14) (bv 6 w 8) (mods w))
    | 2 => some (.barSync (opBar w))
    | _ => none
  | 0xC1 => some (.barq (bv 2 w 22) (flag w 21) (bv 6 w 14) (bv 6 w 8) (mods w))
  | 0xC2 => some (.reggive (bv 5 w 19) (bv 4 w 15) (mods w))
  | 0xC3 => some (.regtake (bv 5 w 19) (mods w))
  | 0xC4 => some (.launch (opDAB w))
  | _ => none

/-- Register operand of `sread` and `swrite` (R342). -/
def readRegOp (w : Nat) : Option RegOp :=
  match fld w 22 2 with
  | 0 => some (.g (bv 7 w 15))
  | 1 => some (.s (bv 6 w 15))
  | 2 => some (.k (bv 4 w 15))
  | _ => none

/-- Destination of `perfrd` (R353). -/
def readPerfDst (w : Nat) : Option PerfDst :=
  match fld w 22 2 with
  | 1 => some (.s (bv 6 w 15))
  | 2 => some (.k (bv 4 w 15))
  | _ => none

/-- Predicate of `ctxsave` and `ctxload` (R348). -/
def opCtx (w : Nat) : OpCtx := { p := dS w, m := mods w }

/-- Opcodes 0xD0-0xDF (R338-R354) and 0xFF. -/
def readSystem (op w x : Nat) : Option Instr :=
  match op with
  | 0xD0 => some (.trap (bv 16 w 8) (mods w))
  | 0xD1 => some (.eret (mods w))
  | 0xD2 => do
    let r ← readRegOp w
    let s ← SysReg.ofCode (fld w 3 12)
    some (.sread r s (mods w))
  | 0xD3 => do
    let r ← readRegOp w
    let s ← SysReg.ofCode (fld w 3 12)
    some (.swrite r s (mods w))
  | 0xD4 => do
    let sc ← WScope.ofCode (fld x 30 2)
    let k ← WKind.ofCode (fld x 28 2)
    let sp ← WSpace.ofCode (fld x 26 2)
    some (.watch sc k sp (bv 4 x 22) (aG w) (bG w) (mods w))
  | 0xD5 => (WScope.ofCode (fld w 22 2)).map fun sc => .unwatch sc (bv 4 w 18) (mods w)
  | 0xD6 => some (.dbrk (bv 16 w 8) (mods w))
  | 0xD7 =>
    match fld x 29 3 with
    | 0 => some (.ctxsaveAcc (opCtx w))
    | 1 => some (.ctxsavePre (opCtx w))
    | 2 => some (.ctxsaveSlice (opCtx w))
    | 3 => some (.ctxsaveMig (opCtx w))
    | 4 => some (.ctxsaveDump (opCtx w))
    | _ => none
  | 0xD8 =>
    match fld x 29 3 with
    | 0 => some (.ctxloadAcc (opCtx w))
    | 1 => some (.ctxloadImg (opCtx w))
    | _ => none
  | 0xD9 => some (.pilotset (aS w) (flag x 31) (bS w) (bv 14 x 0) (mods w))
  | 0xDA => some (.pilotget (dS w) (aS w) (flag x 31) (bv 14 x 0) (mods w))
  | 0xDB => do
    let d ← readPerfDst w
    let e ← PerfEvent.ofCode (fld w 3 8)
    some (.perfrd d (flag w 11) e (mods w))
  | 0xDC => some (.sample (aS w) (bv 11 x 0) (mods w))
  | 0xDD => some (.haltt (mods w))
  | 0xDE => some (.resumet (mods w))
  | 0xDF =>
    match fld x 30 2 with
    | 0 => some (.tlbinvAll (mods w))
    | 1 => some (.tlbinvPage (aS w) (mods w))
    | _ => none
  | 0xFF => some (.udf (bv 24 w 0))
  | _ => none

/-- The fields of an instruction with word `w` and extension word `x`; none where a code field holds
a value its instruction does not list, or the opcode is reserved (R81, R82). -/
def readInstr (w x : Nat) : Option Instr :=
  if w / 2 ^ 24 < 0x10 then readControl (w / 2 ^ 24) w
  else if w / 2 ^ 24 < 0x30 then readInteger (w / 2 ^ 24) w x
  else if w / 2 ^ 24 < 0x48 then readFloat (w / 2 ^ 24) w x
  else if w / 2 ^ 24 < 0x60 then readPredScalar (w / 2 ^ 24) w x
  else if w / 2 ^ 24 < 0x80 then readExchange (w / 2 ^ 24) w x
  else if w / 2 ^ 24 < 0x90 then readMemory (w / 2 ^ 24) w x
  else if w / 2 ^ 24 < 0xA0 then readCopy (w / 2 ^ 24) w x
  else if w / 2 ^ 24 < 0xB8 then readMatrix (w / 2 ^ 24) w x
  else if w / 2 ^ 24 < 0xD0 then readFerrySync (w / 2 ^ 24) w x
  else readSystem (w / 2 ^ 24) w x

/-! ### Opcodes -/

/-- Engine classes (R65): none for a reserved opcode and 0xFF. -/
def opClass (op : Nat) : Option Nat :=
  if op = 0x00 then some 0
  else if op = 0x07 then some 0
  else if op < 0x0A then some 4
  else if op < 0x10 then none
  else if op < 0x44 then some 0
  else if op < 0x48 then none
  else if op < 0x4E then some 0
  else if op < 0x50 then none
  else if op < 0x5E then some 0
  else if op < 0x60 then none
  else if op < 0x66 then some 0
  else if op < 0x80 then none
  else if op < 0x8C then some 1
  else if op < 0x90 then none
  else if op < 0x99 then some 2
  else if op < 0xA0 then none
  else if op < 0xAB then some 3
  else if op < 0xB0 then none
  else if op < 0xB4 then some 3
  else if op < 0xB8 then none
  else if op < 0xBF then some 2
  else if op < 0xC0 then none
  else if op < 0xC5 then some 4
  else if op < 0xD0 then none
  else if op < 0xE0 then some 5
  else none

/-- Opcodes of format FX (R83). -/
def isFx (op : Nat) : Bool :=
  match op with
  | 0x13 | 0x14 | 0x15 | 0x16 | 0x23 | 0x24 | 0x25 | 0x27 | 0x29 | 0x2C => true
  | 0x30 | 0x31 | 0x32 | 0x33 | 0x34 | 0x35 | 0x38 | 0x39 | 0x3A | 0x3B | 0x3C | 0x3D | 0x3E
  | 0x3F | 0x40 | 0x41 | 0x42 | 0x43 => true
  | 0x51 | 0x5A | 0x5D | 0x60 | 0x61 | 0x62 | 0x63 | 0x64 | 0x65 => true
  | 0x80 | 0x81 | 0x82 | 0x83 | 0x84 | 0x85 | 0x86 | 0x87 | 0x8A => true
  | 0x90 | 0x91 | 0x92 | 0x93 | 0x94 | 0x95 | 0x96 | 0x97 | 0x98 => true
  | 0xA0 | 0xA2 | 0xA4 | 0xA5 | 0xA6 | 0xA7 | 0xA8 | 0xA9 | 0xB0 | 0xB1 | 0xB2 | 0xB3 => true
  | 0xB8 | 0xBB | 0xBC => true
  | 0xD4 | 0xD7 | 0xD8 | 0xD9 | 0xDA | 0xDC | 0xDF => true
  | _ => false

/-- Opcodes of the control-flow instructions (R84). -/
def isControlFlow (op : Nat) : Bool :=
  match op with
  | 0x01 | 0x02 | 0x03 | 0x04 | 0x05 | 0x06 | 0x08 | 0x09 | 0xD1 => true
  | _ => false

/-! ### Writing the fields -/

def encB (b : Bool) (k : Nat) : Nat := if b then 2 ^ k else 0

/-- The low three bits. -/
def encM (m : Mods) : Nat := encB m.g 2 + encB m.r 1 + encB m.s 0

/-- A word of format F3 or FI (R78). -/
def encF3 (op d a b : Nat) (m : Mods) : Nat :=
  op * 2 ^ 24 + d * 2 ^ 17 + a * 2 ^ 10 + b * 2 ^ 3 + encM m

/-- A word of format FB, FJ or FS: the opcode, bits [23:3] and the low three bits. -/
def encFS (op sel : Nat) (m : Mods) : Nat := op * 2 ^ 24 + sel * 2 ^ 3 + encM m

/-- An extension word of layout EA (R99). -/
def encEA (c p t rm t2 aux : Nat) : Nat :=
  c * 2 ^ 25 + p * 2 ^ 19 + t * 2 ^ 15 + rm * 2 ^ 12 + t2 * 2 ^ 8 + aux

def encEM (ad : Addr) (t v : Nat) (ord : Option Scope) (pro : Bool) : Nat :=
  ad.base.toNat * 2 ^ 26 + ad.sp.code * 2 ^ 24 + t * 2 ^ 20 + v * 2 ^ 18 + encB ad.bx 17 +
    encB ad.ix 16 + (match ord with | some s => 2 ^ 15 + s.code * 2 ^ 12 | none => 0) +
    encB pro 11 + ad.off.toNat

def encEX (ad : AddrX) (t op ord sc : Nat) (pro : Bool) : Nat :=
  ad.base.toNat * 2 ^ 26 + (if ad.cl then 2 else 1) * 2 ^ 24 + t * 2 ^ 20 + op * 2 ^ 16 +
    encB ad.bx 15 + encB ad.ix 14 + ord * 2 ^ 12 + sc * 2 ^ 9 + encB pro 8 + ad.off.toNat

def encEC (x : CopyX) (mode aux : Nat) : Nat :=
  x.cwb.toNat * 2 ^ 26 + x.cnt.toNat * 2 ^ 20 + mode * 2 ^ 18 + encB x.cl 17 + x.cws.code * 2 ^ 15 +
    encB x.ord 14 + x.cwoff.toNat * 2 ^ 8 + aux

def encER (r : Row) (low : Nat) : Nat := r.roff.toNat * 2 ^ 17 + encB r.ax 16 + low

def encDA (op : Nat) (o : OpDA) (b : Nat) : Nat := encF3 op o.d.toNat o.a.toNat b o.m
def encDAB (op : Nat) (o : OpDAB) : Nat := encF3 op o.d.toNat o.a.toNat o.b.toNat o.m
def encDABC (op : Nat) (o : OpDABC) : Nat := encF3 op o.d.toNat o.a.toNat o.b.toNat o.m
def encDABT (op : Nat) (o : OpDABT) : Nat × Nat :=
  (encF3 op o.d.toNat o.a.toNat o.b.toNat o.m, encEA 0 0 o.t.code 0 0 0)
def encSDAB (op : Nat) (o : OpSDAB) : Nat := encF3 op o.d.toNat o.a.toNat o.b.toNat o.m
def encShiftI (op : Nat) (o : OpShiftI) : Nat := encF3 op o.d.toNat o.a.toNat o.n.toNat o.m
def encFDAB (op : Nat) (o : OpFDAB) : Nat × Nat :=
  (encF3 op o.d.toNat o.a.toNat o.b.toNat o.m, encEA 0 0 8 o.rm.code 0 0)
def encFDA (op : Nat) (o : OpFDA) : Nat × Nat :=
  (encF3 op o.d.toNat o.a.toNat 0 o.m, encEA 0 0 8 o.rm.code 0 0)
def encPDAB (op : Nat) (o : OpPDAB) : Nat × Nat :=
  (encF3 op o.d.toNat o.a.toNat o.b.toNat o.m, encEA 0 0 o.t.code o.rm.code 0 0)
def encPred (op : Nat) (o : OpPred) : Nat :=
  op * 2 ^ 24 + o.pd.toNat * 2 ^ 18 + o.pa.toNat * 2 ^ 12 + o.pb.toNat * 2 ^ 6 + encB o.na 5 +
    encB o.nb 4 + encM o.m
def encPred1 (op : Nat) (o : OpPred1) (mode : Nat) : Nat :=
  op * 2 ^ 24 + o.pd.toNat * 2 ^ 18 + o.pa.toNat * 2 ^ 12 + mode * 2 ^ 6 + encB o.na 5 + encM o.m
def encCw (op d : Nat) (o : OpCw) : Nat × Nat :=
  (encF3 op d o.a.toNat o.b.toNat o.m, encB o.cl 31 + encB o.w64 30 + o.off.toNat)
def encBar (kind : Nat) (o : OpBar) : Nat :=
  0xC0 * 2 ^ 24 + kind * 2 ^ 22 + encB o.br 21 + encB o.wr 20 + o.sx.toNat * 2 ^ 14 +
    o.bn.toNat * 2 ^ 8 + o.cnt.toNat * 2 ^ 3 + encM o.m
def encRegOp : RegOp → Nat
  | .g n => n.toNat * 2 ^ 15
  | .s n => 2 ^ 22 + n.toNat * 2 ^ 15
  | .k n => 2 * 2 ^ 22 + n.toNat * 2 ^ 15
def encPerfDst : PerfDst → Nat
  | .s n => 2 ^ 22 + n.toNat * 2 ^ 15
  | .k n => 2 * 2 ^ 22 + n.toNat * 2 ^ 15
def encCtx (op mode : Nat) (o : OpCtx) : Nat × Nat := (encF3 op o.p.toNat 0 0 o.m, mode * 2 ^ 29)

/-- The instruction word and the extension word of an instruction; an instruction without an
extension word has 0 there. Events have no words; the encoder gives 0. (DEDUCED, log 77) -/
def encode : Instr → Nat × Nat
  | .nop m => (encF3 0x00 0 0 0 m, 0)
  | .bra off m => (encFS 0x01 off.toNat m, 0)
  | .brx o => (encF3 0x02 0 o.a.toNat 0 o.m, 0)
  | .call off m => (encFS 0x03 off.toNat m, 0)
  | .callx o => (encF3 0x04 0 o.a.toNat 0 o.m, 0)
  | .ret m => (encF3 0x05 0 0 0 m, 0)
  | .exit m => (encF3 0x06 0 0 0 m, 0)
  | .enrol j off m => (encFS 0x07 (j.toNat * 2 ^ 18 + off.toNat) m, 0)
  | .rejoin j m => (encFS 0x08 (j.toNat * 2 ^ 18) m, 0)
  | .yield m => (encF3 0x09 0 0 0 m, 0)
  | .add o => (encDAB 0x10 o, 0)
  | .sub o => (encDAB 0x11 o, 0)
  | .mul o => (encDAB 0x12 o, 0)
  | .mulhi o => encDABT 0x13 o
  | .mad o t sat => (encDABC 0x14 o, encEA o.c.toNat 0 t.code 0 0 (encB sat 0))
  | .min o => encDABT 0x15 o
  | .max o => encDABT 0x16 o
  | .abs o => (encDA 0x17 o 0, 0)
  | .neg o => (encDA 0x18 o 0, 0)
  | .and o => (encDAB 0x19 o, 0)
  | .or o => (encDAB 0x1A o, 0)
  | .xor o => (encDAB 0x1B o, 0)
  | .not o => (encDA 0x1C o 0, 0)
  | .shl o => (encDAB 0x1D o, 0)
  | .shr o => (encDAB 0x1E o, 0)
  | .sar o => (encDAB 0x1F o, 0)
  | .clz o => (encDA 0x20 o 0, 0)
  | .popc o => (encDA 0x21 o 0, 0)
  | .brev o => (encDA 0x22 o 0, 0)
  | .bfe o => encDABT 0x23 o
  | .bfi o => (encDABC 0x24 o, encEA o.c.toNat 0 0 0 0 0)
  | .sel o p => (encDAB 0x25 o, encEA 0 p.toNat 0 0 0 0)
  | .mov o => (encDA 0x26 o 0, 0)
  | .movi d imm m => (encF3 0x27 d.toNat 0 0 m, imm.toNat)
  | .addi o imm => (encDA 0x28 o imm.toNat, 0)
  | .lea o imm sh => (encDAB 0x29 o, imm.toNat * 2 ^ 8 + sh.toNat)
  | .add64 o => (encDAB 0x2A o, 0)
  | .sub64 o => (encDAB 0x2B o, 0)
  | .isetp p a b cc t m =>
    (encF3 0x2C 0 a.toNat b.toNat m, encEA 0 p.toNat t.code 0 cc.code 0)
  | .shli o => (encShiftI 0x2D o, 0)
  | .shri o => (encShiftI 0x2E o, 0)
  | .sari o => (encShiftI 0x2F o, 0)
  | .fadd o => encFDAB 0x30 o
  | .fsub o => encFDAB 0x31 o
  | .fmul o => encFDAB 0x32 o
  | .ffma o rm => (encDABC 0x33 o, encEA o.c.toNat 0 8 rm.code 0 0)
  | .fmin o => (encDAB 0x34 o, encEA 0 0 8 0 0 0)
  | .fmax o => (encDAB 0x35 o, encEA 0 0 8 0 0 0)
  | .fabs o => (encDA 0x36 o 0, 0)
  | .fneg o => (encDA 0x37 o 0, 0)
  | .fsetp p a b cc m => (encF3 0x38 0 a.toNat b.toNat m, encEA 0 p.toNat 8 0 cc.code 0)
  | .pfadd o => encPDAB 0x39 o
  | .pfmul o => encPDAB 0x3A o
  | .pffma o t rm => (encDABC 0x3B o, encEA o.c.toNat 0 t.code rm.code 0 0)
  | .fclass o t => (encDA 0x3C o 0, encEA 0 0 t.code 0 0 0)
  | .rcp o => encFDA 0x3D o
  | .rsq o => encFDA 0x3E o
  | .sqrt o => encFDA 0x3F o
  | .exp2 o => encFDA 0x40 o
  | .log2 o => encFDA 0x41 o
  | .cvt o dt st rm sat b c =>
    (encDA 0x42 o b.toNat, encEA c.toNat 0 dt.code rm.code st.code (encB sat 0))
  | .frnd o => encFDA 0x43 o
  | .pand o => (encPred 0x48 o, 0)
  | .por o => (encPred 0x49 o, 0)
  | .pxor o => (encPred 0x4A o, 0)
  | .pmov o => (encPred1 0x4B o 0, 0)
  | .vote o mode => (encPred1 0x4C o mode.code, 0)
  | .elect o => (encPred1 0x4D o 0, 0)
  | .smov d a m => (encF3 0x50 d.toNat a.toNat 0 m, 0)
  | .smovi d imm m => (encF3 0x51 d.toNat 0 0 m, imm.toNat)
  | .sadd o => (encSDAB 0x52 o, 0)
  | .ssub o => (encSDAB 0x53 o, 0)
  | .smul o => (encSDAB 0x54 o, 0)
  | .sand o => (encSDAB 0x55 o, 0)
  | .sor o => (encSDAB 0x56 o, 0)
  | .sxor o => (encSDAB 0x57 o, 0)
  | .sshl o => (encSDAB 0x58 o, 0)
  | .sshr o => (encSDAB 0x59 o, 0)
  | .ssetp p a b cc t m =>
    (encF3 0x5A 0 a.toNat b.toNat m, encEA 0 p.toNat t.code 0 cc.code 0)
  | .s2g d a m => (encF3 0x5B d.toNat a.toNat 0 m, 0)
  | .g2s d a lane m => (encF3 0x5C d.toNat a.toNat lane.toNat m, 0)
  | .slea o imm sh => (encSDAB 0x5D o, imm.toNat * 2 ^ 8 + sh.toNat)
  | .shfl o p mode imm lane =>
    (encDAB 0x60 o, encEA 0 p.toNat 0 0 mode.code (encB imm 5 + lane.toNat))
  | .redux o op t rm => (encDA 0x61 o 0, encEA 0 0 t.code rm.code op.code 0)
  | .prfx o op t rm excl => (encDA 0x62 o 0, encEA 0 0 t.code rm.code op.code (encB excl 0))
  | .rng o t => (encDAB 0x63 o, encEA 0 0 t.code 0 0 0)
  | .rngn o => (encDAB 0x64 o, encEA 0 0 8 0 0 0)
  | .rngf o => (encDAB 0x65 o, encEA 0 0 8 0 0 0)
  | .ld d ad t v acq pro m =>
    (encF3 0x80 d.toNat ad.a.toNat 0 m, encEM ad t.code v.code acq pro)
  | .st b ad t v rel m => (encF3 0x81 0 ad.a.toNat b.toNat m, encEM ad t.code v.code rel false)
  | .ldu d ad t v m => (encF3 0x82 d.toNat ad.a.toNat 0 m, encEM ad t.code v.code none false)
  | .pwait b ad m => (encF3 0x83 0 ad.a.toNat b.toNat m, encEM ad 0 0 none false)
  | .ptest p ad m => (encF3 0x84 p.toNat ad.a.toNat 0 m, encEM ad 0 0 none false)
  | .atom o =>
    (encF3 0x85 o.d.toNat o.ad.a.toNat o.b.toNat o.m,
      encEX o.ad o.t.code o.op.code o.ord.code o.scope.code o.pro)
  | .red o =>
    (encF3 0x86 0 o.ad.a.toNat o.b.toNat o.m,
      encEX o.ad o.t.code o.op.code (if o.rel then 2 else 0) o.scope.code false)
  | .atomcas o =>
    (encF3 0x87 o.d.toNat o.ad.a.toNat o.b.toNat o.m,
      encEX o.ad o.t.code 0 o.ord.code o.scope.code o.pro)
  | .fence sc m => (encFS 0x88 (sc.code * 2 ^ 18) m, 0)
  | .tagget o cl => (encDA 0x89 o (encB cl 0), 0)
  | .tagset b ad m => (encF3 0x8A 0 ad.a.toNat b.toNat m, encEM ad 0 0 none false)
  | .tagptr o => (encDAB 0x8B o, 0)
  | .copyIn o => (encF3 0x90 o.sp.toNat o.mm.toNat 0 o.m, encEC o.x 0 0)
  | .copyOut o => (encF3 0x90 o.mm.toNat o.sp.toNat 0 o.m, encEC o.x 1 0)
  | .copySs d a x srcCl m => (encF3 0x90 d.toNat a.toNat 0 m, encEC x 2 (encB srcCl 0))
  | .copyMm d a x m => (encF3 0x90 d.toNat a.toNat 0 m, encEC x 3 0)
  | .copyt o out t16 =>
    (if out then encF3 0x91 o.mm.toNat o.sp.toNat 0 o.m else encF3 0x91 o.sp.toNat o.mm.toNat 0 o.m,
      encEC o.x (if out then 1 else 0) (encB t16 0))
  | .gather o =>
    (encF3 0x92 o.sp.toNat o.mm.toNat o.idx.toNat o.m,
      encEC o.x 0 (o.esz.toNat * 2 ^ 5 + o.win.toNat))
  | .scatter o =>
    (encF3 0x93 o.mm.toNat o.sp.toNat o.idx.toNat o.m,
      encEC o.x 0 (o.esz.toNat * 2 ^ 5 + o.win.toNat))
  | .cwinit o => encCw 0x94 0 o
  | .cwadd o => encCw 0x95 0 o
  | .cwwait o => encCw 0x96 0 o
  | .cwtest p o => encCw 0x97 p.toNat o
  | .copytag d a mm x m => (encF3 0x98 d.toNat a.toNat 0 m, encEC x 0 (encB mm 0))
  | .berth a n m => (encF3 0xA0 0 a.toNat 0 m, n.toNat * 2 ^ 27)
  | .unberth o => (encF3 0xA1 0 o.a.toNat 0 o.m, 0)
  | .mmas o ta tb => (encDABC 0xA2 o, encEA o.c.toNat 0 ta.code 0 tb.code 0)
  | .mmax o => (encF3 0xA3 0 o.a.toNat 0 o.m, 0)
  | .accw a b c m => (encF3 0xA4 0 a.toNat b.toNat m, c.toNat * 2 ^ 25)
  | .accz row count m => (encF3 0xA5 0 row.a.toNat 0 m, encER row count.toNat)
  | .accld d row m => (encF3 0xA6 d.toNat row.a.toNat 0 m, encER row 0)
  | .accst row b m => (encF3 0xA7 0 row.a.toNat b.toNat m, encER row 0)
  | .accout d row b t rm sat n1 m =>
    (encF3 0xA8 d.toNat row.a.toNat b.toNat m,
      encER row (t.code * 2 ^ 12 + rm.code * 2 ^ 9 + encB sat 8 + n1.toNat))
  | .cvtb d a b ty bl32 m =>
    (encF3 0xA9 d.toNat a.toNat b.toNat m, ty.toNat * 2 ^ 30 + encB bl32 29)
  | .accflg d m => (encF3 0xAA d.toNat 0 0 m, 0)
  | .chain k row b mask m =>
    (encF3 0xB0 (64 + k.toNat) row.a.toNat b.toNat m, encER row (mask.toNat * 2 ^ 10))
  | .chapply k row b m => (encF3 0xB1 (64 + k.toNat) row.a.toNat b.toNat m, encER row 0)
  | .chld k a off m => (encF3 0xB2 (64 + k.toNat) a.toNat 0 m, off.toNat)
  | .chldId k m => (encF3 0xB2 (64 + k.toNat) 0 0 m, 2 ^ 31)
  | .chst k a off m => (encF3 0xB3 (64 + k.toNat) a.toNat 0 m, off.toNat)
  | .slip sid cap1 rb1 a m =>
    (encF3 0xB8 0 a.toNat 0 m, sid.toNat * 2 ^ 28 + cap1.toNat * 2 ^ 22 + rb1.toNat * 2 ^ 16)
  | .slipcl o => (encF3 0xB9 0 o.a.toNat 0 o.m, 0)
  | .ferry o => (encF3 0xBA 0 o.a.toNat 0 o.m, 0)
  | .take d sid m => (encF3 0xBB d.toNat 0 0 m, sid.toNat * 2 ^ 28)
  | .land sid a m => (encF3 0xBC 0 a.toNat 0 m, sid.toNat * 2 ^ 28)
  | .ltstat o => (encDAB 0xBD o, 0)
  | .ltfree o => (encF3 0xBE 0 o.a.toNat 0 o.m, 0)
  | .barArrive o => (encBar 0 o, 0)
  | .barWait br sx bn m =>
    (0xC0 * 2 ^ 24 + 2 ^ 22 + encB br 21 + sx.toNat * 2 ^ 14 + bn.toNat * 2 ^ 8 + encM m, 0)
  | .barSync o => (encBar 2 o, 0)
  | .barq q br sd bn m =>
    (0xC1 * 2 ^ 24 + q.toNat * 2 ^ 22 + encB br 21 + sd.toNat * 2 ^ 14 + bn.toNat * 2 ^ 8 + encM m, 0)
  | .reggive peer n8 m => (encFS 0xC2 (peer.toNat * 2 ^ 16 + n8.toNat * 2 ^ 12) m, 0)
  | .regtake peer m => (encFS 0xC3 (peer.toNat * 2 ^ 16) m, 0)
  | .launch o => (encDAB 0xC4 o, 0)
  | .trap imm m => (encFS 0xD0 (imm.toNat * 2 ^ 5) m, 0)
  | .eret m => (encF3 0xD1 0 0 0 m, 0)
  | .sread rd sys m => (0xD2 * 2 ^ 24 + encRegOp rd + sys.code * 2 ^ 3 + encM m, 0)
  | .swrite ra sys m => (0xD3 * 2 ^ 24 + encRegOp ra + sys.code * 2 ^ 3 + encM m, 0)
  | .watch sc k sp idx a b m =>
    (encF3 0xD4 0 a.toNat b.toNat m,
      sc.code * 2 ^ 30 + k.code * 2 ^ 28 + sp.code * 2 ^ 26 + idx.toNat * 2 ^ 22)
  | .unwatch sc idx m => (encFS 0xD5 (sc.code * 2 ^ 19 + idx.toNat * 2 ^ 15) m, 0)
  | .dbrk imm m => (encFS 0xD6 (imm.toNat * 2 ^ 5) m, 0)
  | .ctxsaveAcc o => encCtx 0xD7 0 o
  | .ctxsavePre o => encCtx 0xD7 1 o
  | .ctxsaveSlice o => encCtx 0xD7 2 o
  | .ctxsaveMig o => encCtx 0xD7 3 o
  | .ctxsaveDump o => encCtx 0xD7 4 o
  | .ctxloadAcc o => encCtx 0xD8 0 o
  | .ctxloadImg o => encCtx 0xD8 1 o
  | .pilotset a ax b idx m => (encF3 0xD9 0 a.toNat b.toNat m, encB ax 31 + idx.toNat)
  | .pilotget d a ax idx m => (encF3 0xDA d.toNat a.toNat 0 m, encB ax 31 + idx.toNat)
  | .perfrd d hi ev m =>
    (0xDB * 2 ^ 24 + encPerfDst d + encB hi 11 + ev.code * 2 ^ 3 + encM m, 0)
  | .sample a off m => (encF3 0xDC 0 a.toNat 0 m, off.toNat)
  | .haltt m => (encF3 0xDD 0 0 0 m, 0)
  | .resumet m => (encF3 0xDE 0 0 0 m, 0)
  | .tlbinvAll m => (encF3 0xDF 0 0 0 m, 0)
  | .tlbinvPage a m => (encF3 0xDF 0 a.toNat 0 m, 2 ^ 30)
  | .udf u => (0xFF * 2 ^ 24 + u.toNat, 0)
  | .clauseDecode .. | .headerWaitRelease .. | .switchParkRelease .. | .scoreboardRelease ..
  | .cadenceTurn .. | .longLatencyResultLands .. | .homePerform .. | .parkedLdRelease ..
  | .heldEntryPerformed .. | .pwaitRelease .. | .cwwaitRelease .. | .promotedAcquire ..
  | .reorderBufferRelease .. | .trackerEntryFree .. | .copyOperationComplete .. | .svcansRetry ..
  | .svcansFail .. | .faultRecordDelivery .. | .handlerEntry .. | .pageMigrationOut ..
  | .pageMigrationIn .. | .migClearRetry .. | .hostShootdown .. | .ferryRowArrival ..
  | .slipAnswer .. | .landDelivery .. | .landingTimeout .. | .berthReadDone ..
  | .mmaxOperationComplete .. | .chainChunkComplete .. | .carryMoveComplete ..
  | .finePreemptionRequest .. | .preemptEntry .. | .sliceEndEntry .. | .sliceEndFallback ..
  | .launchRecordTaken .. | .dispatcherCycle | .periodBoundary | .pilotDecision ..
  | .controlTick .. | .energyCapReached | .hangReport .. | .pilotAccessArrival ..
  | .pilotEnable .. | .pilotStop .. | .pilotReplayUpdate .. | .functionLevelReset ..
  | .contextCreate .. | .contextDestroy .. | .registerWrite .. | .debugHalt .. | .debugResume ..
  | .extend | .rearm | .getVersion | .getCapabilities | .negotiateAlgorithms | .getDigests
  | .getCertificate | .challenge .. | .getMeasurements .. | .powerOn .. | .stageHandoff ..
  | .ready .. | .stageTimeLimit | .thermalTrip | .powerFault | .contributionArrival ..
  | .waitingContributionLands .. | .stragglers .. | .causewayLinkDown .. | .causewayLinkUp ..
  | .scrubUnitFinished .. => (0, 0)

/-! ### Decoding -/

/-- Why a word or a clause does not decode (R85). -/
inductive DecodeError where
  | illegalOpcode
  | illegalClause
  | illegalOperand
  deriving DecidableEq, Repr

/-- Decoding one instruction word with the word after it (R85 steps 3 and 6): a reserved opcode is
ILLEGAL_OPCODE; a code that is not listed, a check of `wellFormed` that fails, and a field that is
reserved or unused and not 0 are ILLEGAL_OPERAND. 0xFF is `udf` with any field values (R84). A word
that is not FX ignores the word after it. (DEDUCED, log 29, 77) -/
def decodeWords (w x : Nat) : Except DecodeError Instr :=
  if (opClass (w / 2 ^ 24)).isNone && !(w / 2 ^ 24 == 0xFF) then .error .illegalOpcode
  else
    match readInstr w (if isFx (w / 2 ^ 24) then x else 0) with
    | none => .error .illegalOperand
    | some i =>
      if wellFormed i && encode i == (w, if isFx (w / 2 ^ 24) then x else 0) then .ok i
      else .error .illegalOperand

/-- A little-endian 32-bit word from the front of a byte list, with the rest (R4). -/
def takeWord : List Byte → Option (Nat × List Byte)
  | b0 :: b1 :: b2 :: b3 :: rest =>
    some (b0.toNat + b1.toNat * 2 ^ 8 + b2.toNat * 2 ^ 16 + b3.toNat * 2 ^ 24, rest)
  | _ => none

/-- The four little-endian bytes of a word (R4). -/
def wordBytes (w : Nat) : List Byte :=
  [BitVec.ofNat 8 w, BitVec.ofNat 8 (w / 2 ^ 8), BitVec.ofNat 8 (w / 2 ^ 16),
   BitVec.ofNat 8 (w / 2 ^ 24)]

/-- Decoding from bytes: the instruction and the bytes after it. Total on any list; a list that ends
inside an instruction is ILLEGAL_CLAUSE, as an FX word in the last slot is (R81). -/
def decodeBytes (bs : List Byte) : Except DecodeError (Instr × List Byte) :=
  match takeWord bs with
  | none => .error .illegalClause
  | some (w, rest) =>
    if isFx (w / 2 ^ 24) then
      match takeWord rest with
      | none => .error .illegalClause
      | some (x, rest') => (decodeWords w x).map fun i => (i, rest')
    else (decodeWords w 0).map fun i => (i, rest)

/-- The two words of the operation table's numbering: the first word is bits [31:0]. -/
def tableWords (nbits w : Nat) : Nat × Nat :=
  (w % 2 ^ nbits % 2 ^ 32, w % 2 ^ nbits / 2 ^ 32 % 2 ^ 32)

/-- The instruction the decoder reads from an instruction numbered as the operation table numbers
it: its words are laid out as they are stored and decoded from the bytes. -/
def decodeTableWord (nbits w : Nat) : Option Instr :=
  match decodeBytes (wordBytes (tableWords nbits w).1 ++ wordBytes (tableWords nbits w).2) with
  | .ok (i, _) => some i
  | .error _ => none

end Sys2Proof
end

