-- ==== Sys2Proof/Config.lean ====
section
/-! DEFINITION. What the specification leaves open, as constants with no body: nothing can be proved
about their values, so a claim holds whatever they are. Each is applied to a counter of the state or
to the operands it depends on. -/

namespace Sys2Proof.Config

/-- The order of independent steps (R11, R47, R162, R231): which of the enabled steps is next.
(DESIGN CHOICE, log 3) -/
opaque pick : Nat → Nat

/-- The scratchpad bank of a core that is the home of a 4-byte element (R162): by team and element. (DESIGN CHOICE,
log 93) -/
opaque homeBank : Nat → Nat → Nat

/-- Whether a copy of memory held in a cache (a translation, a line of code) is still used, or has
been dropped and is read again (R97, R152). (DESIGN CHOICE, log 14) -/
opaque keepCached : Nat → Bool

/-- Which entry of a full core TLB makes room for a new one (R152), by step. (DESIGN CHOICE, log 14) -/
opaque tlbVictim : Nat → Nat

/-- The hops of a sampled request beyond its own core (R331): how many routers it crosses, which, and
every hop's queueing time. (DESIGN CHOICE, log 60) -/
opaque hopCount : Nat → Nat
opaque hopRouter : Nat → Nat
opaque hopTime : Nat → Nat

/-- Core cycles that pass on a core between two steps (R2, R353), by step and core. (DESIGN CHOICE, log 5) -/
opaque cycleGap : Nat → Nat

/-- The words that hold an uncorrectable error (R301, R395), by step: main-memory granules, team-memory
granules, accumulator words, words of slices, registers; and the granules whose data the network returns
poisoned (R301). (DESIGN CHOICE, log 28) -/
opaque eccHbm : Nat → List Nat
opaque eccTm : Nat → List (Nat × Nat)
opaque eccRows : Nat → List (Nat × Nat)
opaque eccSk : Nat → List (Nat × Nat × Nat)
opaque eccRegs : Nat → List (Nat × Nat × Nat × Nat)
opaque poisonTm : Nat → List (Nat × Nat)
opaque poisonHbm : Nat → List Nat

/-- A byte of poisoned data that an engine read delivers (R301), by step and address. (DESIGN CHOICE, log 28) -/
opaque poisonedByte : Nat → Nat → Byte

/-- An operand of a matrix operation that could not be corrected (R301), by step and element. (DESIGN CHOICE, log 28) -/
opaque lostElement : Nat → Nat → Word

/-- The form in which the hardware stores a g register (R44), by the group's index and slot, the register and
its 32 words. (DESIGN CHOICE, log 59) -/
opaque storedForm : Nat → Nat → Nat → List Word → Nat

/-- The weights fused into the energy counter of a die by kind of activity, 16 being the I/O die; how many
weight units make a millijoule, less one; and the activity of a core by step and kind, where the spec does
not count it (R378). (DESIGN CHOICE, log 59) -/
opaque energyWeight : Nat → Nat → Nat
opaque energyUnit : Nat
opaque activity : Nat → Nat → Nat → Nat

/-- The hottest die temperature in 1/8 degree (R376), by step. (DESIGN CHOICE, log 59) -/
opaque measuredTemperature : Nat → Int

/-- The latency of a read packet at its memory controller (R371), by step and packet. (DEDUCED, log 58) -/
opaque readLatency : Nat → Nat → Nat

/-- The slot size of a function's receive window on the peer of a link, none without one (R393): by
step, link and function. (DEDUCED, log 67) -/
opaque peerSlot : Nat → Nat → Nat → Option Nat

/-- How many rows of a ferry, in send order, have been sent when its timer expires (R227), by step.
(DEDUCED, log 31) -/
opaque rowsSent : Nat → Nat

/-- Usable main memory in MiB (R385): the 1,008 GiB of R1 and R146. -/
def usableMemory : Word := 1032192

/-- The silicon revision that the Identity capability reports (R385). (DESIGN CHOICE, log 61) -/
opaque siliconRevision : Word

/-- Speed and width of a host link by step and link (R385). (DESIGN CHOICE, log 61) -/
opaque linkSpeed : Nat → Nat → Nat
opaque linkWidth : Nat → Nat → Nat

/-- What a context image has no place for (R319, R320) and a restored team still needs: the group of a
lane watchpoint or of a landing entry, by the record's place; the offset of the word that issued a
landing entry or a Chain operation; the address of a tracker entry. (DESIGN CHOICE, log 46) -/
opaque restoredGroup : Nat → Nat
opaque restoredPc : Nat → Word
opaque trackerAddress : Nat → DWord

/-- The clusters that pass self-test and main-memory training at a start, and whether main-memory training
fails fatally (R391, R392), by step. (DESIGN CHOICE, log 62) -/
opaque startClusters : Nat → BitVec 16
opaque trainingFails : Nat → Bool

/-- The fused hash of the boot key (R387). (DESIGN CHOICE, log 62) -/
opaque fusedKeyHash : List Byte

/-- Whether a signature on a boot image is good (R388, R391): image, key, signature. (DESIGN CHOICE, log 62) -/
opaque signatureGood : List Byte → List Byte → List Byte → Bool

/-- The device's signature over bytes (R390). (DESIGN CHOICE, log 62) -/
opaque deviceSign : List Byte → List Byte

/-- The device's certificate chain (R390). (DESIGN CHOICE, log 62) -/
opaque certificate : List Byte

end Sys2Proof.Config
end

