-- ==== Sys2Proof/Machine/State.lean ====
section
/-! DEFINITION. The state of the device as plain data, the reasons a step can stop, and the state
after reset. Sparse storage is a list of key and value pairs, keys strictly rising and no entry
equal to the value an unlisted key reads as. -/

namespace Sys2Proof.Machine

/-- Sparse storage: pairs of key and value in canonical form (Machine/Table.lean). -/
abbrev Table (α : Type) := List (Nat × α)

/-- Byte storage by address. -/
abbrev Memory := List Host.Cell

/-- A precise trap a lane has raised and that waits for delivery (R303): its code, fault address,
the faulting word and the code offset of that word. `decode` marks a decode trap (R85). -/
structure Pend where
  code : Nat
  addr : DWord
  word : Word
  pc : Word
  decode : Bool
  deriving DecidableEq, Repr

/-- Why a lane is PARKED (R25): a pending trap, a service request at a ring position (R310), or a
page in migration, by its address (R155). -/
inductive LanePark where
  | trapped (p : Pend)
  | service (pos : Nat) (p : Pend)
  | mig (va : Nat)
  deriving DecidableEq, Repr

/-- Lane states (R25). -/
inductive LaneState where
  | ready
  | rejoin (j : Nat)
  | barrier (b : Nat) (phase : Word)
  | parked (why : LanePark)
  | exited
  deriving DecidableEq, Repr

/-- A watchpoint that is armed (R159): a byte range, its kind and space. -/
structure Watch where
  kind : WKind
  space : WSpace
  base : DWord
  len : Nat
  deriving DecidableEq, Repr

/-- The last-page register of a lane (R152). -/
structure LastPage where
  vpage : Nat
  ppage : Nat
  rd : Bool
  wr : Bool
  ex : Bool
  tag : Bool
  /-- whether a block entry gave it (R149); R351 removes such a translation with its whole block -/
  block : Bool
  deriving DecidableEq, Repr

/-- State of one lane outside its registers. `mid` is the clause-header offset kept for a lane
stopped in mid-clause together with the offset it stopped at (R96). -/
structure Lane where
  pc : Word
  st : LaneState
  mid : Option (Word × Word)
  lsp : BitVec 13
  age : Nat
  deriving DecidableEq, Repr

/-- A rejoin slot (R28). -/
structure Rejoin where
  members : Mask
  arrived : Mask
  target : Word
  deriving DecidableEq, Repr

/-- A register name; predicates hold one bit per lane, carries one word per lane number. -/
inductive RegName where
  | g (n : Nat)
  | s (n : Nat)
  | k (n : Nat)
  | p (n : Nat)
  | c (n : Nat)
  deriving DecidableEq, Repr

/-- One register element and a value for it. Uniform registers use lane 0. -/
structure RegWrite where
  name : RegName
  lane : Nat
  val : Word
  deriving DecidableEq, Repr

/-- A long-latency result bound for registers (R91). `live` names the elements it may still write,
`need` the lanes whose value has not returned, `vals` the returned values; `seq` is the clause
execution that issued it, `landed` marks a result that has landed while that execution still runs,
where no read may see it (R92). `loads` marks a load or atomic (R202), `atomic` an atomic (R94),
`acquire` an acquire (R171). -/
structure PendRes where
  id : Nat
  seq : Nat
  live : List (RegName × Mask)
  need : Mask
  vals : List RegWrite
  landed : Bool
  loads : Bool
  atomic : Bool
  acquire : Bool
  deriving DecidableEq, Repr

/-- A byte range of team memory: the team by its key and an offset. -/
structure TmLoc where
  team : Nat
  addr : Nat
  deriving DecidableEq, Repr

/-- One lane's bytes of a queued store (R165). -/
structure LaneWrite where
  lane : Nat
  loc : TmLoc
  bytes : List Byte
  deriving DecidableEq, Repr

/-- Items of a commit queue, oldest first: a store, or the place of an arrival among them (R38). -/
inductive QItem where
  | entry (writes : List LaneWrite)
  | arrival (b : Nat) (phase : Word)
  deriving DecidableEq, Repr

/-- The clause a group executes (R75-R77, R89): header offset, words, release word, class, the
issue set, the lanes whose guard is true, the slot to issue next, and whether a cadence turn chose it. -/
structure Clause where
  hdr : Word
  words : List Word
  rel : Word
  hasRel : Bool
  cls : Nat
  issue : Mask
  guard : Mask
  slot : Nat
  cadence : Bool
  deriving DecidableEq, Repr

/-- What a group parked as a whole waits for; `retry` when the wait is over and the word issues again. -/
inductive Park where
  | none
  | retry
  | header (hdr : Word)
  | sMark
  | scoreboard
  | ld
  | pwait
  | cwwait (cl : Bool)
  | tracker
  | engine
  | release
  | rendezvous
  | barMid (mark : Bool)
  deriving DecidableEq, Repr

/-- Rendezvous hold (R133). -/
inductive Hold where
  | none
  | give (peer n8 : Nat)
  | take (peer : Nat)
  deriving DecidableEq, Repr

/-- Trap registers (R305). -/
structure TrapRegs where
  code : Nat
  info : Word
  act : Mask
  flt : Mask
  addr : Table DWord
  instr : Word
  pc : Word
  deriving DecidableEq, Repr

/-- A translated page of a main-memory range: virtual and physical page, tag checking (R151). -/
structure PageMap where
  vpage : Nat
  ppage : Nat
  tag : Bool
  deriving DecidableEq, Repr

/-- One side of a copy-family operation: team memory, or main memory through the translations made
at issue; with the pointer's tag. -/
inductive Side where
  | tm (loc : TmLoc)
  | hbm (va : Nat) (pages : List PageMap) (tag : BitVec 4)
  deriving DecidableEq, Repr

/-- A sampled request (R330, R332): the record's place, and the opcode, lane, PC and address it names. -/
structure SampleInfo where
  loc : TmLoc
  opcode : Nat
  lane : Nat
  pc : Word
  addr : DWord
  deriving DecidableEq, Repr

/-- Kinds of copy-family operations (R211). -/
inductive CopyKind where
  | plain
  | transpose (rows cols esize : Nat)
  | gather (esize window : Nat) (idx : Side)
  | scatter (esize window : Nat) (idx : Side)
  | copytag (tag : BitVec 4)
  | send
  deriving DecidableEq, Repr

/-- A copy-family operation (R209): what the tracker captured, its sides, the units not yet performed, its
completion word; `xlat` is the fresh name at its translation (R154), `noted` the granules that a record of it
names already, by code and address (R212). -/
structure CopyOp where
  id : Nat
  team : Nat
  group : Nat
  lane : Nat
  pc : Word
  slotgen : Word
  ctx : Nat
  core : Nat
  kind : CopyKind
  src : Side
  dst : Side
  count : Nat
  todo : List Nat
  ordered : Bool
  cw : Option TmLoc
  waitingPeer : Bool
  sampled : Option SampleInfo
  xlat : Nat
  noted : List (Nat × Nat)
  deriving DecidableEq, Repr

/-- A handler the group is in (R306): whether it is the supervisor's, whether a trap of the team handler
began it (R307), the lanes as they were recorded at its entry; for an entry with a stop, the count of a
frozen trap entry (R313) and the trap registers of a team handler that it interrupted; and, by rejoin slot,
the lanes that the handler has enrolled itself (R29, R306). -/
structure Frame where
  sup : Bool
  nested : Bool
  lanes : List Lane
  entry : Option Nat
  regs : Option TrapRegs
  enrolled : Table Mask
  deriving DecidableEq, Repr

/-- A Chain operation of a group (R287, R295, R296). -/
inductive ChainKind where
  | chain
  | chapply
  | chld (bytesAt : Nat)
  | chldId
  | chst (bytesAt : Nat)
  deriving DecidableEq, Repr

/-- The recorded Chain operation (R290): the row operand b, the team row it begins at, rows, mask, carry,
chunk to run next; `stopped` while a stop or halt of its team holds it at a chunk boundary, `failed` where
an error of its operands has stopped it (R291), with the group whose handler got the record of that error. `seq` is the
clause execution that issued it, `carryIn` the
carry that it reads where that is not the one the register holds (R92). -/
structure ChainOp where
  id : Nat
  kind : ChainKind
  b : Nat
  row : Nat
  n : Nat
  mask : BitVec 16
  carry : Nat
  chunk : Nat
  pc : Word
  stopped : Bool
  failed : Bool
  handler : Option Nat
  seq : Nat
  carryIn : Option (List Word)
  deriving DecidableEq, Repr

/-- The words of a carry register before a Chain operation of the running clause execution wrote it, and
whether a `chain` did (R92). -/
structure OldCarry where
  k : Nat
  byChain : Bool
  words : List Word
  deriving DecidableEq, Repr

/-- Group performance counters (R353). -/
structure Perf where
  slots : Nat
  clauses : Nat
  cadence : Nat
  drains : Nat
  banks : Nat
  deriving DecidableEq, Repr

/-- A group of 32 lanes (R13) with all it owns; `accepted` names the lanes an instruction that accepts
lane by lane has dealt with (R209, R274), `heldOp` an operation that has passed its checks and waits for a
tracker entry (R209), `since` the fresh name at which a held word has begun its effect (R154, R274, R354), `barStop` the clause and slot of its last `bar` (R315), `saved` the image that its
handler has completed, and whether that image reserves the accumulator rows (R314, R318). `latch` names the
registers that its collector latch holds (R46), `older` the carries that reads of this clause execution still
see (R92), `entering` is set once an entry has begun with its drain (R303). -/
structure Group where
  index : Nat
  role : Nat
  slot : Nat
  gen : Nat
  port : Nat
  budget : Nat
  ended : Bool
  lanes : List Lane
  g : Table Word
  p : Table Mask
  s : Table Word
  k : Table Word
  c : Table Word
  rejoins : Table Rejoin
  exmask : Mask
  limit : BitVec 16
  timer : Nat
  queue : List QItem
  qovf : Bool
  pending : List PendRes
  accepted : Mask
  heldOp : Option CopyOp
  since : Option Nat
  seq : Nat
  clause : Option Clause
  park : Park
  hold : Hold
  fpflags : Word
  rngseed : DWord
  accbase : BitVec 15
  acclim : BitVec 15
  wflags : BitVec 5
  chprog : Option ChainOp
  trapRegs : TrapRegs
  entry : Option Nat
  frames : List Frame
  spill : Memory
  frame : Memory
  watches : Table Watch
  lastPages : Table LastPage
  halted : Bool
  stopped : Bool
  barStop : Option (Word × Nat)
  watchdog : Nat
  sample : Option Nat
  perf : Perf
  capsel : BitVec 14
  stamp : Nat
  saved : Option (Nat × Bool)
  loaded : Bool
  latch : List RegName
  older : List OldCarry
  entering : Bool
  deriving DecidableEq, Repr

/-- Booking of one barrier phase (R125). -/
structure Booking where
  arrived : Mask
  booked : Nat
  expected : Nat
  deriving DecidableEq, Repr

/-- A named barrier (R36, R125); `closing` while the entries of its completed phase are being performed
(R38, R144, R166); `last` is the core cycle and the group of the last arrival that was booked or trapped (R127). -/
structure Barrier where
  count : Word
  cur : Booking
  nxt : Booking
  closing : Bool
  last : Option (Nat × Nat)
  deriving DecidableEq, Repr

/-- A fault record (R312). -/
structure FaultRec where
  code : Nat
  lane : Nat
  flags : BitVec 16
  pc : Word
  addr : DWord
  grpslot : Word
  x : Nat
  y : Nat
  z : Nat
  group : Nat
  deriving DecidableEq, Repr

/-- A stop requested of a team (R313-R315): `left` is what remains of the 65,536 core cycles; `live` tells
a handler that every group stopped at a `bar`; `over` is a member of a peloton whose handler has returned,
until the whole peloton goes on (R20). -/
inductive Stop where
  | none
  | fine (sliceReason : Bool)
  | slice (left : Nat)
  | handler (code : Nat) (live : Bool)
  | over
  deriving DecidableEq, Repr

/-- A resident team (R13) with all it owns. `key` is the model's name for it; `absent` names, by line, the
operations that are still to write it, each with the team and group that issued it (R143); `newSerial` says that this
placement took the serial from the core's counter (R217, R349). -/
structure Team where
  key : Nat
  ctx : Nat
  core : Nat
  serial : Word
  grid : Nat
  ownGrid : Nat
  newSerial : Bool
  linear : Nat
  x : Nat
  y : Nat
  z : Nat
  gx : Nat
  gy : Nat
  gz : Nat
  kernel : Word
  peloton : Bool
  tmSize : Nat
  spill : Nat
  quantum : Nat
  rows : Nat
  firstUnit : Nat
  restoreMark : Option Nat
  clearMark : Bool
  tm : Memory
  tags : Table (BitVec 4)
  absent : Table (List (Nat × Nat × Nat))
  barriers : Table Barrier
  watches : Table Watch
  tmchk : Bool
  tvec : Word
  ferrylate : Word
  mode : BitVec 2
  records : List FaultRec
  stop : Stop
  groups : List Group
  resumeCw : Option DWord
  placed : Nat
  deriving DecidableEq, Repr

/-- What a packet on its way to a home does there. -/
inductive PacketOp where
  | read (res : Nat) (lane : Nat) (regs : List RegName) (t : MTy) (n : Nat) (fwd : List (Option Byte)) (promote : Bool)
  | write (bytes : List Byte)
  | atomic (res : Option Nat) (lane : Nat) (regs : List RegName) (t : ATy) (op : Option AOp) (b c : DWord) (promote : Bool)
  | add64 (v : DWord)
  | put64 (v : DWord)
  | tagSet (tag : BitVec 4)
  | test (res : Nat) (lanes : Mask) (reg : RegName) (v : DWord)
  deriving DecidableEq, Repr

/-- A packet on its way to a home (R162), with its issuer; `rel` marks the own write of a release, by its
scope and the fresh name at its issue (R170); `phase` names the barrier whose completion waits for it, `held` marks one that
waits at its home for an absent line or a held berth range (R144, R257), `released` one that a
group- or team-scope release of its group covers (R172). -/
structure Packet where
  id : Nat
  core : Nat
  team : Nat
  group : Nat
  loc : TmLoc
  op : PacketOp
  rel : Option (Scope × Nat)
  phase : Option Nat
  held : Bool
  released : Bool
  sample : Option SampleInfo
  deriving DecidableEq, Repr

/-- An accepted `mmax` (R258, R259), with the lane, word and execution that issued it. -/
structure MmaxOp where
  id : Nat
  team : Nat
  group : Nat
  core : Nat
  lane : Nat
  pc : Word
  slotgen : Word
  seq : Nat
  a : Nat
  b : Nat
  m : Nat
  k : Nat
  n : Nat
  operator : Nat
  row : Nat
  rows : Nat
  vr : Nat
  vc : Nat
  fa : Nat
  fb : Nat
  bl : Nat
  ranges : List (Nat × Nat)
  aElems : List Word
  bElems : List Word
  readDone : Bool
  cw : TmLoc
  deriving DecidableEq, Repr

/-- A berth record (R254) that is VALID. -/
structure Berth where
  team : Nat
  group : Nat
  base : Word
  length : Nat
  rows : Nat
  cols : Nat
  stride : Nat
  fmt : Nat
  layout : Nat
  bl : Nat
  scale : Nat
  deriving DecidableEq, Repr

/-- A held 32-row unit (R264): the departed team's serial, its context, the image, the unit's place
in the team's allocation, and the kept bit. -/
structure HeldUnit where
  serial : Word
  ctx : Nat
  image : Nat
  place : Nat
  kept : Bool
  deriving DecidableEq, Repr

/-- The ferry parameter block (R136, R219). -/
structure FerryParams where
  src : Word
  out : Word
  routing : Word
  routes : Word
  rows : Nat
  rowLen : Nat
  bf16 : Bool
  k : Nat
  pass : Bool
  timeout : Nat
  cw : Word
  deriving DecidableEq, Repr

/-- A landing entry that is OPEN or COMPLETE (R216). -/
structure Landing where
  id : Nat
  complete : Bool
  team : Nat
  group : Nat
  lane : Nat
  pc : Word
  gen : BitVec 16
  par : FerryParams
  timer : Option Nat
  status : List Nat
  answered : List Bool
  weights : List Word
  landed : List (Nat × List Byte)
  written : List Bool
  deriving DecidableEq, Repr

/-- Where a slip's row returns to (R217). -/
structure RetAddr where
  core : Nat
  entry : Nat
  gen : BitVec 16
  slot : Nat
  serial : Word
  deriving DecidableEq, Repr

/-- A slip slot (R217). -/
inductive SlipSlot where
  | free
  | arrived (r : RetAddr)
  | taken (r : RetAddr)
  deriving DecidableEq, Repr

/-- An owned slip record (R217). -/
structure Slip where
  closed : Bool
  team : Nat
  base : Word
  rowLen : Nat
  slots : List SlipSlot
  queue : List Nat
  deriving DecidableEq, Repr

/-- A ferry row on its way to a slip (R218, R220): the ferry's name, its return address, the sending team with
its peloton's grid if any, the record of R218 step 5, the target, and its bytes: at `src` until it is sent. -/
structure FerryRow where
  ferry : Nat
  ret : RetAddr
  team : Nat
  ctx : Nat
  grid : Option Nat
  record : FaultRec
  core : Nat
  sid : Nat
  src : TmLoc
  len : Nat
  bytes : Option (List Byte)
  deriving DecidableEq, Repr

/-- An admitted row whose bytes are still to be written at its slip slot, with the ferry that sent it, its core,
team and group, and the slip (R176). -/
structure RowWrite where
  id : Nat
  ferry : Nat
  core : Nat
  team : Nat
  group : Nat
  sid : Nat
  loc : TmLoc
  bytes : List Byte
  deriving DecidableEq, Repr

/-- A slip's answer on its way to the landing entry (R218). -/
structure Answer where
  ret : RetAddr
  status : Nat
  deriving DecidableEq, Repr

/-- A landed row on its way to the landing table (R225). -/
structure LandMsg where
  ret : RetAddr
  team : Nat
  group : Nat
  bytes : List Byte
  deriving DecidableEq, Repr

/-- One core's own state (R1). `acc` is keyed by 32 * row + word, `held` by unit. -/
structure Core where
  gens : Table Nat
  nextPort : Nat
  acc : Table Word
  held : Table HeldUnit
  accowner : Word
  berths : Table Berth
  landing : Table Landing
  landGens : Table (BitVec 16)
  slips : Table Slip
  serial : Nat
  cycles : Nat
  msteps : Nat
  chunks : Nat
  /-- the phase counters of the ports (R373) -/
  phases : List Nat
  icache : Table (List Byte)
  deriving DecidableEq, Repr

/-- A launch record (R360). -/
structure LaunchRec where
  seq : DWord
  kernel : Word
  flags : BitVec 16
  core : BitVec 16
  arg : DWord
  gx : Nat
  gy : Nat
  gz : Nat
  groups : Nat
  roles : Nat
  shape : List (Nat × Nat)
  tm : Nat
  rows : Nat
  spill : Nat
  quantum : Nat
  imgSize : Nat
  cw : DWord
  waits : List (DWord × DWord)
  deriving DecidableEq, Repr

/-- A grid in a launch queue, or one that has left its head (R364); `follows` is set for a RESUME record
whose restored team has rejoined its own grid (R360): that grid's serial and the team's linear index. -/
structure Grid where
  serial : Nat
  ctx : Nat
  queue : Nat
  /-- the dispatcher cycle of its entry (R365) -/
  entered : Nat
  record : LaunchRec
  placed : Nat
  unended : Nat
  left : Bool
  waited : Nat
  replay : Option Bool
  follows : Option (Nat × Nat)
  replayRecs : List (Nat × Nat × Nat × TmLoc × AOp × Word)
  deriving DecidableEq, Repr

/-- Administration block and context of a function (R382, R383). -/
structure Func where
  segbase : Word
  segsize : Word
  flags : Word
  clusters : Word
  svtabReg : Word
  fqbase : DWord
  fqsize : Word
  fqhead : Word
  fqtail : Word
  fqlost : Word
  ptbaseReg : DWord
  codebaseReg : DWord
  csendbase : Word
  csendsize : Word
  crecvbase : Word
  crecvsize : Word
  cslot : Word
  exists_ : Bool
  ptbase : DWord
  codebase : DWord
  svtab : Word
  tdeleg : Word
  memmode : Word
  replaybuf : DWord
  replayUsed : Nat
  ctxbuf : DWord
  ctxalt : DWord
  hangwd : Word
  tracectl : Word
  tracebuf : DWord
  tracepos : Word
  watches : Table Watch
  staged : Memory
  overflow : Bool
  refused : Bool
  drops : Nat
  lostSeq : DWord
  refusedSeq : DWord
  requests : List (Nat × Nat × Nat × Nat)
  dbgCtx : Word
  dbgXY : Word
  balance : Nat
  debt : Nat
  charge : Nat
  borrowed : Nat
  tokens : Nat
  refill : Nat
  borrowLimit : Nat
  rate : Nat
  floor : Nat
  target : Nat
  step : Nat
  work : Nat
  hist : List Nat
  stragglers : Nat
  dropped : Nat
  stalled : Bool
  msix : Nat
  deriving DecidableEq, Repr

/-- A knob binding (R384). -/
structure Binding where
  kind : Nat
  tenant : Nat
  lo : Word
  hi : Word
  dflt : Word
  deriving DecidableEq, Repr

/-- A Pilot access on its way to the I/O die (R354). -/
structure PilotMsg where
  team : Nat
  group : Nat
  index : Nat
  set : Option Word
  res : Option Nat
  deriving DecidableEq, Repr

/-- The Pilot (R357, R358): its words, whether it was ever enabled, the interval, the periods left
in it, and the previous state, action and refusal. -/
structure Pilot where
  words : Table Word
  everOn : Bool
  /-- the energy at which the interval began (R376) -/
  energyFrom : Nat
  interval : Nat
  left : Nat
  ps : Nat
  pa : Nat
  prevRefused : Bool
  deriving DecidableEq, Repr

/-- Start-up stages of the management core (R387, R391). -/
inductive BootStage where
  | off
  | stage (n : Nat) (minimal : Bool)
  | ready (minimal : Bool)
  | failed
  | stopped
  deriving DecidableEq, Repr

/-- The algorithms that SPDM offers (R390). -/
inductive SpdmAlgorithm where
  | rsassa3072 | sha256
  deriving DecidableEq, Repr

/-- What a response to an SPDM request says (R390): the versions, and what of sessions, key exchange and mutual
authentication is supported. -/
inductive SpdmResponse where
  | version (versions : List (Nat × Nat))
  | capabilities (sessions keyExchange mutualAuth : Bool)
  | algorithms (offered : List SpdmAlgorithm)
  | digests (d : List (List Byte))
  | certificate (key : List Byte)
  | challenge (nonce : List Byte)
  | measurements (values : List (Nat × List Byte))
  deriving DecidableEq, Repr

/-- A response with its signature by the device's identity key (R390). -/
structure SpdmMessage where
  response : SpdmResponse
  signature : List Byte
  deriving DecidableEq, Repr

/-- The management core (R387-R392): `count` and `reason` are non-volatile, `trip` notes a thermal
trip in service for the next start; `clusters` are the clusters in use, `links` the speed code and width of each
host link (R385), and `selfTest` is the reason code with which training or self-test of this start has failed,
0 for none. -/
structure Boot where
  stage : BootStage
  clusters : BitVec 16
  links : List (Nat × Nat)
  selfTest : Nat
  count : Nat
  reason : BitVec 24
  trip : Bool
  mslots : List (List Byte)
  digest : List Byte
  busy : Bool
  extends_ : Nat
  deriving DecidableEq, Repr

/-- A contribution waiting at its sender or arrived from a peer (R394). -/
structure Contribution where
  fn : Nat
  link : Nat
  sender : Nat
  collective : BitVec 16
  round : Word
  payload : List Byte
  deriving DecidableEq, Repr

/-- An armed sample of a group whose team has left its core (R330), by the core and team serial. -/
structure KeptSample where
  core : Nat
  serial : Word
  group : Nat
  ptr : Nat
  deriving DecidableEq, Repr

/-- A cached translation of a core TLB (R152). -/
structure TlbLine where
  core : Nat
  ctx : Nat
  page : Nat
  map : LastPage
  deriving DecidableEq, Repr

/-- A valid table entry that the walker keeps (R153), by its intermediate address. -/
structure WalkLine where
  ctx : Nat
  ia : Nat
  entry : Nat
  deriving DecidableEq, Repr

/-- A page in the capacity tier with its tags (R155), by context and virtual page. -/
structure CapPage where
  mem : Memory
  tags : Table (BitVec 4)
  deriving DecidableEq, Repr

/-- A sweep whose older operations have not all completed (R154): of a page that moves out, or of a host
shootdown; `since` is the fresh name at which it began. -/
structure Sweep where
  ctx : Nat
  page : Option Nat
  since : Nat
  deriving DecidableEq, Repr

/-- The dispatcher (R364-R375): its cycle, the loop step, whether the energy cap is reached, the
applied cap, and what a boundary still has to do. `ahead` is how many cycles after `cycle` the last event at
a queue came, and `order` the place of that event in the order of its cycle (R362); the energies are those
at which the period and the ending one began (R375, R376). -/
structure Disp where
  cycle : Nat
  ahead : Nat
  order : Nat
  periodFrom : Nat
  periodEnd : Nat
  lambda : Nat
  capReached : Bool
  cap : Option Nat
  boundaryDue : Bool
  tickDue : Bool
  stopping : Option Nat
  deriving DecidableEq, Repr

/-- Why the machine stops with a fault. -/
inductive Fault where
  /-- Raised by the meaning of an event row when the event's enabling condition does not hold in the
  state: the device has no such step there. `step` never raises it. Safe. -/
  | notEnabled
  deriving DecidableEq, Repr

/-- Why the machine gives an instruction no meaning. -/
inductive Refusal where
  /-- Raised by an arm of `exec` whose instruction has no meaning yet. Safe. -/
  | notModelled (mnemonic : String)
  deriving DecidableEq, Repr

/-- The device. -/
structure State where
  /-- group whose word issues: team key and group index (the model's own) -/
  curTeam : Nat
  curGroup : Nat
  /-- how the next step is chosen (the model's own): 0 freely, 1 the current group's word, n + 2 the
  n-th enabled step -/
  choice : Nat
  /-- steps made, the index of free values (the model's own) -/
  tick : Nat
  /-- fresh names for teams, results, packets and operations (the model's own) -/
  fresh : Nat
  /-- environment events not yet taken (the model's own) -/
  inbox : List Instr
  teams : List Team
  cores : Table Core
  funcs : Table Func
  grids : List Grid
  gridSerial : Nat
  hbm : Memory
  hbmTags : Table (BitVec 4)
  hostMem : Memory
  capacity : Table CapPage
  sweeps : List Sweep
  scrub : List Nat
  /-- words that hold an uncorrectable error at this moment (R212, R291, R301, R395): main-memory granules,
  team-memory granules by team, accumulator words by core, words of the lanes' slices by team and group,
  registers by team, group, number (Operands.lean) and lane -/
  eccHbm : List Nat
  eccTm : List (Nat × Nat)
  eccRows : List (Nat × Nat)
  eccSk : List (Nat × Nat × Nat)
  eccRegs : List (Nat × Nat × Nat × Nat)
  /-- granules of team memory and main memory whose data the network now returns poisoned (R301) -/
  poisonTm : List (Nat × Nat)
  poisonHbm : List Nat
  tlb : List TlbLine
  walks : List WalkLine
  keptSamples : List KeptSample
  net : List Packet
  copies : List CopyOp
  mmaxs : List MmaxOp
  rowsInFlight : List FerryRow
  rowWrites : List RowWrite
  answers : List Answer
  lands : List LandMsg
  faults : List (Nat × Nat × FaultRec)
  pilotNet : List PilotMsg
  pilot : Pilot
  bindings : Table Binding
  disp : Disp
  /-- read latencies of the control tick by controller and tenant (R371), and the energy counters by die (R378) -/
  hists : Table (List Nat)
  energy : Table Nat
  boot : Boot
  spdmOut : List SpdmMessage
  linkUp : BitVec 12
  sent : List (Nat × Nat × List Byte)
  waitingIn : List Contribution
  deriving DecidableEq, Repr

/-- A rejoin slot that is free (R28). -/
def Rejoin.reset : Rejoin := { members := 0, arrived := 0, target := 0 }

/-- A phase with no booking (R125). -/
def Booking.empty : Booking := { arrived := 0, booked := 0, expected := 0 }

/-- A barrier at placement (R36). -/
def Barrier.reset : Barrier :=
  { count := 0, cur := Booking.empty, nxt := Booking.empty, closing := false, last := none }

/-- A core at device reset: `%accowner` 0 (R233), the team serial counter at 1 (R217), counters 0
(R353), every record free. Group-slot generations, the port tie-break and the phase counters start at 0 and
rows read +0.0 (DESIGN CHOICE, log 1). -/
def Core.reset : Core :=
  { gens := [], nextPort := 0, acc := [], held := [], accowner := 0, berths := [], landing := [],
    landGens := [], slips := [], serial := 1, cycles := 0, msteps := 0, chunks := 0, phases := [0, 0, 0, 0], icache := [] }

/-- A function before the host has set it up: fields without a stated reset value are 0 (DESIGN
CHOICE, log 1); no context exists (R383). -/
def Func.reset : Func :=
  { segbase := 0, segsize := 0, flags := 0, clusters := 0, svtabReg := 0, fqbase := 0, fqsize := 0,
    fqhead := 0, fqtail := 0, fqlost := 0, ptbaseReg := 0, codebaseReg := 0, csendbase := 0,
    csendsize := 0, crecvbase := 0, crecvsize := 0, cslot := 0, exists_ := false, ptbase := 0,
    codebase := 0, svtab := 0, tdeleg := 0, memmode := 0, replaybuf := 0, replayUsed := 0,
    ctxbuf := 0, ctxalt := 0, hangwd := 0, tracectl := 0, tracebuf := 0, tracepos := 0,
    watches := [], staged := [], overflow := false, refused := false, drops := 0, lostSeq := 0,
    refusedSeq := 0, requests := [], dbgCtx := 0, dbgXY := 0, balance := 0, debt := 0, charge := 0,
    borrowed := 0, tokens := 0, refill := 0, borrowLimit := 0, rate := 0, floor := 0, target := 0,
    step := 0, work := 0, hist := [], stragglers := 0, dropped := 0, stalled := false, msix := 0 }

/-- The device at reset, before power-on: no team, no context, every measurement slot zero (R388),
every Pilot word 0 (R356), the failed-start count 0 (DESIGN CHOICE, log 1). -/
def State.reset : State :=
  { curTeam := 0, curGroup := 0, choice := 0, tick := 0, fresh := 0, inbox := [], teams := [],
    cores := [], funcs := [], grids := [], gridSerial := 1, hbm := [], hbmTags := [], hostMem := [],
    capacity := [], sweeps := [], scrub := [], eccHbm := [], eccTm := [], eccRows := [], eccSk := [],
    eccRegs := [], poisonTm := [], poisonHbm := [], tlb := [], walks := [], keptSamples := [], net := [], copies := [],
    mmaxs := [],
    rowsInFlight := [], rowWrites := [], answers := [], lands := [], faults := [], pilotNet := [],
    pilot := { words := [], everOn := false, energyFrom := 0, interval := 0, left := 0, ps := 0, pa := 0,
               prevRefused := false },
    bindings := [],
    disp := { cycle := 0, ahead := 0, order := 0, periodFrom := 0, periodEnd := 0, lambda := 0, capReached := false, cap := none, boundaryDue := false,
              tickDue := false, stopping := none },
    hists := [], energy := [],
    boot := { stage := .off, clusters := 0, links := [(0, 0), (0, 0)], selfTest := 0, count := 0, reason := 0, trip := false,
              mslots := List.replicate 8 (List.replicate 32 0), digest := List.replicate 32 0,
              busy := false, extends_ := 0 },
    spdmOut := [], linkUp := 0, sent := [], waitingIn := [] }

end Sys2Proof.Machine
end

