-- ==== Sys2Proof/Machine/Fp.lean ====
section
/-! DEFINITION. Number formats, rounding and flags (R102-R103, R110-R116, R236-R242). Finite values
are exact dyadics: a magnitude `m * 2^e`. Flags are numbers: NV 1, OF 2, UF 4, NX 8, GU 16 (R102). -/

namespace Sys2Proof.Machine

/-- Fraction bits of a format (R236). -/
def fracBits : FTy → Nat
  | .f32 => 23 | .f16 => 10 | .bf16 => 7 | .e4m3 => 3 | .e5m2 => 2

/-- Exponent bits of a format (R236). -/
def expBits : FTy → Nat
  | .f32 => 8 | .f16 => 5 | .bf16 => 8 | .e4m3 => 4 | .e5m2 => 5

/-- Exponent bias (R236). -/
def expBias : FTy → Nat
  | .f32 => 127 | .f16 => 15 | .bf16 => 127 | .e4m3 => 7 | .e5m2 => 15

/-- Width of a format in bits (R236). -/
def fmtBits (t : FTy) : Nat := 1 + expBits t + fracBits t

/-- Canonical NaN (R103, R237). -/
def canonNan : FTy → Nat
  | .f32 => 0x7FC00000 | .f16 => 0x7E00 | .bf16 => 0x7FC0 | .e4m3 => 0x7F | .e5m2 => 0x7E

/-- Pattern of the largest finite value (R237). -/
def maxPat : FTy → Nat
  | .f32 => 0x7F7FFFFF | .f16 => 0x7BFF | .bf16 => 0x7F7F | .e4m3 => 0x7E | .e5m2 => 0x7B

/-- Pattern of +infinity; E4M3 has none and an overflow there is a NaN (R237, R241). -/
def infPat : FTy → Nat
  | .f32 => 0x7F800000 | .f16 => 0x7C00 | .bf16 => 0x7F80 | .e4m3 => 0x7F | .e5m2 => 0x7C

/-- The sign bit of a format. -/
def signPat (t : FTy) (neg : Bool) : Nat := if neg then 2 ^ (expBits t + fracBits t) else 0

/-- A value of a floating format. -/
inductive FVal where
  | nan (signalling : Bool)
  | inf (neg : Bool)
  | fin (neg : Bool) (m : Nat) (e : Int)
  deriving DecidableEq, Repr

/-- The value of a pattern (R236). -/
def unpackF (t : FTy) (w : Nat) : FVal :=
  let f := w % 2 ^ fracBits t
  let x := w / 2 ^ fracBits t % 2 ^ expBits t
  let neg := w / 2 ^ (expBits t + fracBits t) % 2 == 1
  let isTop := x == 2 ^ expBits t - 1
  if t == .e4m3 && isTop && f == 7 then .nan false
  else if t != .e4m3 && isTop then
    if f == 0 then .inf neg else .nan (f < 2 ^ (fracBits t - 1))
  else if x == 0 then .fin neg f (1 - (expBias t : Int) - (fracBits t : Int))
  else .fin neg (2 ^ fracBits t + f) ((x : Int) - (expBias t : Int) - (fracBits t : Int))

/-- A NaN operand (R103). -/
def FVal.isNan : FVal → Bool
  | .nan _ => true
  | _ => false

/-- NV of a signalling NaN operand (R103). -/
def FVal.snan : FVal → Nat
  | .nan true => 1
  | _ => 0

/-- Number of bits of a natural number. -/
def bitLen (n : Nat) : Nat := if n = 0 then 0 else Nat.log2 n + 1

/-- Whether a rounding goes up in magnitude, from the parity of the kept part, the comparison of the
dropped part with one half (0 below, 1 equal, 2 above) and whether anything is dropped (R241). -/
def roundUp (rm : Rm) (neg odd : Bool) (half : Nat) (inexact : Bool) : Bool :=
  match rm with
  | .rne => half == 2 || (half == 1 && odd)
  | .rz => false
  | .rd => neg && inexact
  | .ru => !neg && inexact

/-- Rounds `(m + d) * 2^e` to a multiple of `2^q`, where d is 0, or strictly between 0 and 1 when
`sticky`: the multiple, and whether the value changed. -/
def roundQ (rm : Rm) (neg : Bool) (m : Nat) (e q : Int) (sticky : Bool) : Nat × Bool :=
  let sh := q - e
  if sh ≤ 0 then (m * 2 ^ (-sh).toNat, sticky)
  else if (bitLen m : Int) + 1 < sh then
    let ix := m != 0 || sticky
    ((if roundUp rm neg false 0 ix then 1 else 0), ix)
  else
    let d := 2 ^ sh.toNat
    let n := m / d
    let r := m % d
    let ix := r != 0 || sticky
    let half := if 2 * r < d then 0 else if 2 * r == d && !sticky then 1 else 2
    ((if roundUp rm neg (n % 2 == 1) half ix then n + 1 else n), ix)

/-- The pattern of `n * 2^q` for an n of at most one bit more than the format's precision, inside the
finite range. -/
def packF (t : FTy) (neg : Bool) (n : Nat) (q : Int) : Nat :=
  let n' := if n == 2 ^ (fracBits t + 1) then 2 ^ fracBits t else n
  let q' := if n == 2 ^ (fracBits t + 1) then q + 1 else q
  if n' < 2 ^ fracBits t then signPat t neg + n'
  else signPat t neg + ((q' + fracBits t + expBias t).toNat * 2 ^ fracBits t + (n' - 2 ^ fracBits t))

/-- Whether `n * 2^q` exceeds the largest finite magnitude (R103, R241). -/
def exceeds (t : FTy) (n : Nat) (q : Int) : Bool :=
  match unpackF t (maxPat t) with
  | .fin _ m e =>
    if q ≤ e then decide (m * 2 ^ (e - q).toNat < n) else decide (m < n * 2 ^ (min (q - e) 300).toNat)
  | _ => false

/-- The value an overflow gives (R115, R241). -/
def overflowPat (t : FTy) (rm : Rm) (neg sat : Bool) : Nat :=
  if sat then signPat t neg + maxPat t
  else if t == .e4m3 then canonNan t
  else
    match rm, neg with
    | .rz, _ => signPat t neg + maxPat t
    | .rd, false => maxPat t
    | .ru, true => signPat t neg + maxPat t
    | _, _ => signPat t neg + infPat t

/-- Rounds `(m + d) * 2^e` to a format under R103 and R241: pattern and flags. Tininess is detected
after rounding (R242). -/
def roundF (t : FTy) (rm : Rm) (sat neg : Bool) (m : Nat) (e : Int) (sticky : Bool) : Nat × Nat :=
  if m == 0 && !sticky then (signPat t neg, 0)
  else
    let top := e + (bitLen m : Int) - 1
    let emin : Int := 1 - (expBias t : Int)
    let qn := top - fracBits t
    let q := max qn (emin - fracBits t)
    let r := roundQ rm neg m e q sticky
    if exceeds t r.1 q then (overflowPat t rm neg sat, 10)
    else
      let tiny := top < emin &&
        (let u := roundQ rm neg m e qn sticky; !(top + 1 == emin && u.1 == 2 ^ (fracBits t + 1)))
      (packF t neg r.1 q, if r.2 then (if tiny then 12 else 8) else 0)

/-- The pattern of the canonical NaN with flags. -/
def nanF (t : FTy) (fl : Nat) : Nat × Nat := (canonNan t, fl)

/-- The exact sum of two finite values as a signed integer times a power of two. (DEDUCED, log 34) -/
def sumExact (n1 : Bool) (m1 : Nat) (e1 : Int) (n2 : Bool) (m2 : Nat) (e2 : Int) : Int × Int :=
  let e := min e1 e2
  let a : Int := (m1 * 2 ^ (e1 - e).toNat : Nat)
  let b : Int := (m2 * 2 ^ (e2 - e).toNat : Nat)
  ((if n1 then -a else a) + (if n2 then -b else b), e)

/-- Sum of two values rounded to a format (R103, R110). -/
def addV (t : FTy) (rm : Rm) (a b : FVal) : Nat × Nat :=
  match a, b with
  | .nan s, y => nanF t ((FVal.nan s).snan ||| y.snan)
  | x, .nan s => nanF t (x.snan ||| (FVal.nan s).snan)
  | .inf n1, .inf n2 => if n1 == n2 then (signPat t n1 + infPat t, 0) else nanF t 1
  | .inf n1, _ => (signPat t n1 + infPat t, 0)
  | _, .inf n2 => (signPat t n2 + infPat t, 0)
  | .fin n1 m1 e1, .fin n2 m2 e2 =>
    let s := sumExact n1 m1 e1 n2 m2 e2
    if s.1 == 0 then (signPat t (if n1 == n2 && m1 == 0 && m2 == 0 then n1 else rm == .rd), 0)
    else roundF t rm false (s.1 < 0) s.1.natAbs s.2 false

/-- The product of two values, exact: none for infinity times zero. -/
def mulExact (a b : FVal) : Option FVal :=
  match a, b with
  | .nan s, .nan s' => some (.nan (s || s'))
  | .nan s, _ => some (.nan s)
  | _, .nan s => some (.nan s)
  | .inf n1, .inf n2 => some (.inf (n1 != n2))
  | .inf n1, .fin n2 m _ => if m == 0 then none else some (.inf (n1 != n2))
  | .fin n1 m _, .inf n2 => if m == 0 then none else some (.inf (n1 != n2))
  | .fin n1 m1 e1, .fin n2 m2 e2 => some (.fin (n1 != n2) (m1 * m2) (e1 + e2))

/-- A value rounded to a format. -/
def roundV (t : FTy) (rm : Rm) (sat : Bool) (a : FVal) : Nat × Nat :=
  match a with
  | .nan s => nanF t (if s then 1 else 0)
  | .inf n => (signPat t n + infPat t, 0)
  | .fin n m e => roundF t rm sat n m e false

/-- Sign inversion of a value. -/
def negV : FVal → FVal
  | .nan s => .nan s
  | .inf n => .inf (!n)
  | .fin n m e => .fin (!n) m e

/-- a + b, a - b, a * b and a * b + c (R110). -/
def fpAdd (t : FTy) (rm : Rm) (a b : Nat) : Nat × Nat := addV t rm (unpackF t a) (unpackF t b)
def fpSub (t : FTy) (rm : Rm) (a b : Nat) : Nat × Nat := addV t rm (unpackF t a) (negV (unpackF t b))
def fpMul (t : FTy) (rm : Rm) (a b : Nat) : Nat × Nat :=
  match mulExact (unpackF t a) (unpackF t b) with
  | none => nanF t 1
  | some v => roundV t rm false v

/-- Fused multiply-add of values: NV when the product is infinity times zero, whatever c is. -/
def fmaV (t : FTy) (rm : Rm) (a b c : FVal) : Nat × Nat :=
  match mulExact a b with
  | none => nanF t 1
  | some p => addV t rm p c

def fpFma (t : FTy) (rm : Rm) (a b c : Nat) : Nat × Nat :=
  fmaV t rm (unpackF t a) (unpackF t b) (unpackF t c)

/-- Comparison of two finite or infinite values: -1, 0, 1 (R101, R110). -/
def cmpV (a b : FVal) : Int :=
  match a, b with
  | .inf n1, .inf n2 => if n1 == n2 then 0 else if n1 then -1 else 1
  | .inf n1, _ => if n1 then -1 else 1
  | _, .inf n2 => if n2 then 1 else -1
  | .fin n1 m1 e1, .fin n2 m2 e2 => (sumExact n1 m1 e1 (!n2) m2 e2).1.sign
  | _, _ => 0

/-- The sign of a value. -/
def FVal.neg : FVal → Bool
  | .nan _ => false
  | .inf n => n
  | .fin n _ _ => n

/-- `fmin` and `fmax` (R110): -0 is below +0; one NaN gives the other operand. -/
def fpMinMax (isMax : Bool) (a b : Nat) : Nat × Nat :=
  let x := unpackF .f32 a
  let y := unpackF .f32 b
  let fl := x.snan ||| y.snan
  if x.isNan && y.isNan then (canonNan .f32, fl)
  else if x.isNan then (b, fl)
  else if y.isNan then (a, fl)
  else
    let c := cmpV x y
    let aFirst := c < 0 || (c == 0 && x.neg)
    if aFirst == isMax then (if c == 0 && x.neg == y.neg then a else b, fl) else (a, fl)

/-- Ordered comparison of a sign (R101). -/
def cmpHolds (cc : Cmp) (c : Int) : Bool :=
  match cc with
  | .eq => c == 0 | .ne => c != 0 | .lt => c < 0 | .le => c ≤ 0 | .gt => c > 0 | .ge => c ≥ 0

/-- `fsetp` (R101, R110): the predicate and the flags. -/
def fpCompare (cc : FCmp) (a b : Nat) : Bool × Nat :=
  let x := unpackF .f32 a
  let y := unpackF .f32 b
  let u := x.isNan || y.isNan
  let fl := x.snan ||| y.snan
  match cc with
  | .num => (!u, fl)
  | .nan => (u, fl)
  | .ord c => (!u && cmpHolds c (cmpV x y), fl)
  | .unord c => (u || cmpHolds c (cmpV x y), fl)

/-- `fabs` and `fneg` (R111). -/
def fpAbs (a : Nat) : Nat := if (unpackF .f32 a).isNan then canonNan .f32 else a % 2 ^ 31
def fpNeg (a : Nat) : Nat :=
  if (unpackF .f32 a).isNan then canonNan .f32
  else if a / 2 ^ 31 % 2 == 1 then a % 2 ^ 31 else a % 2 ^ 31 + 2 ^ 31

/-- `fclass` (R113): the bit number of the class. -/
def fpClass (t : FTy) (a : Nat) : Nat :=
  match unpackF t a with
  | .nan true => 8
  | .nan false => 9
  | .inf true => 0
  | .inf false => 7
  | .fin n m _ =>
    if m == 0 then (if n then 3 else 4)
    else if m < 2 ^ fracBits t then (if n then 2 else 5)
    else if n then 1 else 6

/-- Integer square root, bit by bit from the top. -/
def isqrtGo (n : Nat) : Nat → Nat → Nat
  | 0, r => r
  | k + 1, r => isqrtGo n k (if (r + 2 ^ k) * (r + 2 ^ k) ≤ n then r + 2 ^ k else r)

def isqrt (n : Nat) : Nat := isqrtGo n (bitLen n / 2 + 1) 0

/-- `rcp` (R114). -/
def fpRcp (rm : Rm) (a : Nat) : Nat × Nat :=
  match unpackF .f32 a with
  | .nan s => nanF .f32 (if s then 1 else 0)
  | .inf n => (signPat .f32 n, 0)
  | .fin n m e =>
    if m == 0 then (signPat .f32 n + infPat .f32, 0)
    else roundF .f32 rm false n (2 ^ 60 / m) (-60 - e) (2 ^ 60 % m != 0)

/-- Magnitude with an even exponent. -/
def evenExp (m : Nat) (e : Int) : Nat × Int := if e % 2 == 0 then (m, e) else (2 * m, e - 1)

/-- `rsq` (R114). -/
def fpRsq (rm : Rm) (a : Nat) : Nat × Nat :=
  match unpackF .f32 a with
  | .nan s => nanF .f32 (if s then 1 else 0)
  | .inf n => if n then nanF .f32 1 else (0, 0)
  | .fin n m e =>
    if m == 0 then (signPat .f32 n + infPat .f32, 0)
    else if n then nanF .f32 1
    else
      let x := evenExp m e
      let r := isqrt (2 ^ 120 / x.1)
      roundF .f32 rm false false r (-60 - x.2 / 2) (r * r * x.1 != 2 ^ 120)

/-- `sqrt` (R114). -/
def fpSqrt (rm : Rm) (a : Nat) : Nat × Nat :=
  match unpackF .f32 a with
  | .nan s => nanF .f32 (if s then 1 else 0)
  | .inf n => if n then nanF .f32 1 else (infPat .f32, 0)
  | .fin n m e =>
    if m == 0 then (signPat .f32 n, 0)
    else if n then nanF .f32 1
    else
      let x := evenExp m e
      let y := x.1 * 2 ^ 60
      let r := isqrt y
      roundF .f32 rm false false r (x.2 / 2 - 30) (r * r != y)

/-- Fixed-point precision of `exp2`: 2^200 is one. -/
def expP : Nat := 200

/-- A lower bound of 2^f in fixed point, for the fraction f whose bits `bits` has below `2^k`, highest
first: the product of the roots 2^(1/2), 2^(1/4), ... that f selects, each rounded down. -/
def exp2Frac (bits : Nat) : Nat → Nat → Nat → Nat
  | 0, _, acc => acc
  | k + 1, root, acc =>
    let r := isqrt (root * 2 ^ expP)
    exp2Frac bits k r (if bits / 2 ^ k % 2 == 1 then acc * r / 2 ^ expP else acc)

/-- The largest number below 2^(expP + fb / 2^k), which lies less than 1000 above `lo`: its 2^k-th power is
compared exactly. -/
def exp2Exact (lo fb k : Nat) : Nat :=
  lo + (List.range 1000).countP fun c => decide ((lo + 1 + c) ^ 2 ^ k ≤ 2 ^ (fb + expP * 2 ^ k))

/-- `exp2` (R114), correctly rounded: two bounds that round alike, or the exact floor. (DEDUCED, log 27) -/
def fpExp2 (rm : Rm) (a : Nat) : Nat × Nat :=
  match unpackF .f32 a with
  | .nan s => nanF .f32 (if s then 1 else 0)
  | .inf n => if n then (0, 0) else (infPat .f32, 0)
  | .fin n m e =>
    if m == 0 then (0x3F800000, 0)
    else if e ≥ 0 then
      roundF .f32 rm false false 1 (if n then -((m * 2 ^ e.toNat : Nat) : Int) else (m * 2 ^ e.toNat : Nat)) false
    else if e < -60 then
      if n then roundF .f32 rm false false (2 ^ 60 - 1) (-60) true
      else roundF .f32 rm false false (2 ^ 60) (-60) true
    else
      let k := (-e).toNat
      let v : Int := if n then -(m : Int) else m
      let ip := v.fdiv (2 ^ k : Nat)
      let fb := (v - ip * (2 ^ k : Nat)).toNat
      if fb == 0 then roundF .f32 rm false false 1 ip false
      else
        let lo := exp2Frac fb k (2 ^ (expP + 1)) (2 ^ expP)
        let r1 := roundF .f32 rm false false lo (ip - expP) true
        let r2 := roundF .f32 rm false false (lo + 1000) (ip - expP) true
        if r1 == r2 then r1
        else roundF .f32 rm false false (exp2Exact lo fb k) (ip - expP) true

/-- Fixed-point precision of `log2`, and the fraction bits it yields. -/
def logP : Nat := 400
def logN : Nat := 100

/-- Bits of log2 of a value in [1, 2) held between two bounds, by repeated squaring; none when the
bounds no longer decide a bit. -/
def log2Bits : Nat → Nat → Nat → Nat → Option Nat
  | 0, _, _, acc => some acc
  | k + 1, lo, hi, acc =>
    let lo2 := lo * lo / 2 ^ logP
    let hi2 := hi * hi / 2 ^ logP + 1
    if 2 ^ (logP + 1) ≤ lo2 then log2Bits k (lo2 / 2) (hi2 / 2 + 1) (2 * acc + 1)
    else if hi2 < 2 ^ (logP + 1) then log2Bits k lo2 hi2 (2 * acc)
    else none

/-- The largest f below 2^n with 2^(f / 2^n) at most y / 2^logP, bit by bit: 2^n-th powers are compared
exactly. -/
def log2Exact (n y : Nat) : Nat → Nat → Nat
  | 0, acc => acc
  | i + 1, acc =>
    log2Exact n y i (if 2 ^ (acc + 2 ^ i + logP * 2 ^ n) ≤ y ^ 2 ^ n then acc + 2 ^ i else acc)

/-- `log2` (R114), correctly rounded: the bits that bounds decide, or the exact ones. (DEDUCED, log 27) -/
def fpLog2 (rm : Rm) (a : Nat) : Nat × Nat :=
  match unpackF .f32 a with
  | .nan s => nanF .f32 (if s then 1 else 0)
  | .inf n => if n then nanF .f32 1 else (infPat .f32, 0)
  | .fin n m e =>
    if m == 0 then (signPat .f32 true + infPat .f32, 0)
    else if n then nanF .f32 1
    else
      let len := bitLen m
      let ip := e + (len : Int) - 1
      if m == 2 ^ (len - 1) then roundF .f32 rm false (ip < 0) ip.natAbs 0 false
      else
        let y := m * 2 ^ (logP + 1 - len)
        let f := (log2Bits logN y y 0).getD (log2Exact logN y logN 0)
        let v : Int := ip * (2 ^ logN : Nat) + (f : Int)
        if v < 0 then roundF .f32 rm false true (v.natAbs - 1) (-(logN : Int)) true
        else roundF .f32 rm false false v.natAbs (-(logN : Int)) true

/-- `frnd` (R114): an integral value, never NX. -/
def fpRound (rm : Rm) (a : Nat) : Nat × Nat :=
  match unpackF .f32 a with
  | .nan s => nanF .f32 (if s then 1 else 0)
  | .inf n => (signPat .f32 n + infPat .f32, 0)
  | .fin n m e =>
    if e ≥ 0 then (a, 0)
    else ((roundF .f32 .rne false n (roundQ rm n m e 0 false).1 0 false).1, 0)

/-! ### Conversions (R115, R116) -/

/-- Width and signedness of an integer type of `cvt`. -/
def cvtInt : CvtTy → Option (Nat × Bool)
  | .i32 => some (32, true) | .w32 => some (32, false) | .i16 => some (16, true)
  | .w16 => some (16, false) | .i8 => some (8, true) | .w8 => some (8, false) | .fp _ => none

/-- The integer in the low bits of a pattern. -/
def readInt (w : Nat) (signed : Bool) (a : Nat) : Int :=
  let v := a % 2 ^ w
  if signed && v ≥ 2 ^ (w - 1) then (v : Int) - (2 ^ w : Nat) else v

/-- The range of an integer type. -/
def intLo (w : Nat) (signed : Bool) : Int := if signed then -((2 ^ (w - 1) : Nat) : Int) else 0
def intHi (w : Nat) (signed : Bool) : Int :=
  if signed then ((2 ^ (w - 1) : Nat) : Int) - 1 else ((2 ^ w : Nat) : Int) - 1

/-- A value clamped to a range. -/
def clampInt (lo hi v : Int) : Int := if v < lo then lo else if hi < v then hi else v

/-- The 32-bit pattern of an integer. -/
def intPat (v : Int) : Nat := (v % (2 ^ 32 : Nat)).toNat

/-- FP to integer: rounded, then clamped; NV for a NaN, an infinity or a value out of range. -/
def fpToInt (w : Nat) (signed : Bool) (rm : Rm) (v : FVal) : Nat × Nat :=
  match v with
  | .nan _ => (0, 1)
  | .inf n => (intPat (if n then intLo w signed else intHi w signed), 1)
  | .fin n m e =>
    if 40 < e then
      if m == 0 then (0, 0) else (intPat (if n then intLo w signed else intHi w signed), 1)
    else
      let r := roundQ rm n m e 0 false
      let x : Int := if n then -(r.1 : Int) else r.1
      if x < intLo w signed || intHi w signed < x then
        (intPat (clampInt (intLo w signed) (intHi w signed) x), 1)
      else (intPat x, if r.2 then 8 else 0)

/-- FP or integer value to FP (R115). An infinity to E4M3 without SAT is a NaN with NV; under SAT an
infinity gives the largest finite value, FP32's too, for which R115 lists none. (DESIGN CHOICE, log 97) -/
def valToFp (t : FTy) (rm : Rm) (sat : Bool) (v : FVal) : Nat × Nat :=
  match v with
  | .nan s => nanF t (if s then 1 else 0)
  | .inf n =>
    if sat then (signPat t n + maxPat t, 0)
    else if t == .e4m3 then nanF t 1
    else (signPat t n + infPat t, 0)
  | .fin n m e => roundF t rm sat n m e false

/-- `cvt` under a fixed rounding (R115). -/
def fpCvt (dt st : CvtTy) (rm : Rm) (sat : Bool) (a : Nat) : Nat × Nat :=
  match dt, st with
  | .fp t, .fp u => valToFp t rm sat (unpackF u a)
  | .fp t, _ =>
    match cvtInt st with
    | some (w, sg) =>
      let v := readInt w sg a
      valToFp t rm sat (.fin (v < 0) v.natAbs 0)
    | none => (0, 0)
  | _, .fp u =>
    match cvtInt dt with
    | some (w, sg) => fpToInt w sg rm (unpackF u a)
    | none => (0, 0)
  | _, _ =>
    match cvtInt dt, cvtInt st with
    | some (w, sg), some (w', sg') =>
      let v := readInt w' sg' a
      if sat then (intPat (clampInt (intLo w sg) (intHi w sg) v), 0)
      else (intPat (readInt w sg (intPat v)), 0)
    | _, _ => (0, 0)

/-- `cvt.rs` of an FP32 pattern with draw r (R116). The result is tiny when the value delivered is. (DESIGN
CHOICE, log 98) -/
def fpCvtRs (t : FTy) (sat : Bool) (a r : Nat) : Nat × Nat :=
  match unpackF .f32 a with
  | .fin n m e =>
    if m == 0 then (signPat t n, 0)
    else
      let emin : Int := 1 - (expBias t : Int)
      let q := max (e + (bitLen m : Int) - 1 - fracBits t) (emin - fracBits t)
      -- m + r * q / 65536, exact, in units of 2^e2
      let e2 := min e (q - 16)
      let x := m * 2 ^ (e - e2).toNat + r * 2 ^ (q - 16 - e2).toNat
      let top := e2 + (bitLen x : Int) - 1
      let q2 := max (top - fracBits t) (emin - fracBits t)
      let y := (roundQ .rz n x e2 q2 false).1
      if exceeds t y q2 then (overflowPat t .rne n sat, 10)
      else
        let exact := (roundQ .rz n m e q false).2 == false
        let isTiny := y * 2 ^ (q2 - (emin - fracBits t)).toNat < 2 ^ fracBits t
        (packF t n y q2, if exact then 0 else if isTiny then 12 else 8)
  | v => valToFp t .rne sat v

/-! ### The counter hash and its draws (R123, R249) -/

/-- One round of the hash. -/
def hashRound (r : Nat) (xy : Nat × Nat) : Nat × Nat :=
  let M := 2 ^ 64
  let x := xy.1 * 0xB4E15C2793AD6F4B % M
  let x := x ^^^ (x / 2 ^ 32)
  let y := (xy.2 + x + (r + 1) * 0x2D4F1A86C37B9E05) % M
  let y := y * 0x8F3D2A61C9570E83 % M
  let y := y ^^^ (y / 2 ^ 29)
  (x ^^^ y, y)

/-- H(seed, stream, k) as a 128-bit number (R249). -/
def hash128 (seed stream k : Nat) : Nat :=
  let x := (seed % 2 ^ 64) ^^^ 0x5A17C3E90B84D62F
  let y := ((stream * 2 ^ 32 + k) % 2 ^ 64) ^^^ 0x3E906B2DF7A1548C
  let p := hashRound 5 (hashRound 4 (hashRound 3 (hashRound 2 (hashRound 1 (hashRound 0 (x, y))))))
  p.1 + p.2 * 2 ^ 64

/-- The draws of R123. -/
def draw32 (seed s e : Nat) : Nat := hash128 seed s (e / 4) / 2 ^ (32 * (e % 4)) % 2 ^ 32
def draw16 (seed s e : Nat) : Nat := hash128 seed s (e / 8) / 2 ^ (16 * (e % 8)) % 2 ^ 16

/-- `rngf` (R123): u[31:8] * 2^-24. -/
def rngfPat (u : Nat) : Nat := (roundF .f32 .rne false false (u / 256) (-24) false).1

end Sys2Proof.Machine
end

