-- ==== Sys2Proof/Machine/Table.lean ====
section
/-! DEFINITION. Sparse storage: lookup and update of lists of key and value pairs whose keys rise
strictly, with no entry equal to what an unlisted key reads as; bytes of memory and little-endian
values on top of them (R4). -/

namespace Sys2Proof.Machine

/-- The value at a key. -/
def tfind {α : Type} (t : Table α) (k : Nat) : Option α :=
  match t with
  | [] => none
  | (k', v) :: r => if k = k' then some v else tfind r k

/-- The value at a key, or what an unlisted key reads as. -/
def tget {α : Type} (d : α) (t : Table α) (k : Nat) : α := (tfind t k).getD d

/-- Keys strictly rise from `lo` on. -/
def risingFrom {α : Type} (lo : Nat) (t : Table α) : Bool :=
  match t with
  | [] => true
  | (k, _) :: r => decide (lo ≤ k) && risingFrom (k + 1) r

/-- Keys strictly rise. -/
def rising {α : Type} (t : Table α) : Bool := risingFrom 0 t

/-- Sets a key. -/
def tins {α : Type} (t : Table α) (k : Nat) (v : α) : Table α :=
  match t with
  | [] => [(k, v)]
  | (k', v') :: r =>
    if k < k' then (k, v) :: (k', v') :: r
    else if k = k' then (k, v) :: r
    else (k', v') :: tins r k v

/-- Removes a key. -/
def tdel {α : Type} (t : Table α) (k : Nat) : Table α :=
  match t with
  | [] => []
  | (k', v') :: r => if k = k' then tdel r k else (k', v') :: tdel r k

/-- Sets a key; the value an unlisted key reads as removes the entry. -/
def tput {α : Type} [DecidableEq α] (d : α) (t : Table α) (k : Nat) (v : α) : Table α :=
  if v = d then tdel t k else tins t k v

/-- The canonical form of sparse storage. -/
def Table.canonical {α : Type} [DecidableEq α] (d : α) (t : Table α) : Bool :=
  rising t && t.all fun kv => !decide (kv.2 = d)

/-- What a byte of memory that nothing has written reads as: 0. The scratchpad is 0 at placement
(R141); for main and host memory the specification gives no contents (DESIGN CHOICE, log 2). -/
def emptyByte : Byte := 0

/-- The canonical form of memory. (DESIGN CHOICE, log 2) -/
def Memory.wf (m : Memory) : Bool := Table.canonical emptyByte m

/-- One byte of memory. (DESIGN CHOICE, log 2) -/
def Memory.read (m : Memory) (a : Nat) : Byte := tget emptyByte m a

/-- Writes one byte. (DESIGN CHOICE, log 2) -/
def Memory.write (m : Memory) (a : Nat) (v : Byte) : Memory := tput emptyByte m a v

/-- `n` bytes from an address. -/
def Memory.readN (m : Memory) (a n : Nat) : List Byte := (List.range n).map fun i => m.read (a + i)

/-- Writes bytes from an address up. -/
def Memory.writeN (m : Memory) (a : Nat) (bs : List Byte) : Memory :=
  match bs with
  | [] => m
  | b :: r => Memory.writeN (m.write a b) (a + 1) r

/-- Removes the bytes of a range (they read as an unlisted address does). -/
def Memory.clear (m : Memory) (a n : Nat) : Memory :=
  m.filter fun c => !(decide (a ≤ c.1) && decide (c.1 < a + n))

/-- Little-endian value of bytes (R4). -/
def leNat (bs : List Byte) : Nat :=
  match bs with
  | [] => 0
  | b :: r => b.toNat + 256 * leNat r

/-- The `n` little-endian bytes of a value (R4). -/
def leBytes (n v : Nat) : List Byte :=
  match n with
  | 0 => []
  | n + 1 => BitVec.ofNat 8 v :: leBytes n (v / 256)

/-- The value of `n` bytes at an address. -/
def Memory.readLe (m : Memory) (a n : Nat) : Nat := leNat (m.readN a n)

/-- Replaces the element of a list at a position. -/
def listSet {α : Type} (l : List α) (i : Nat) (v : α) : List α := l.set i v

/-- Removes the element of a list at a position. -/
def listDel {α : Type} (l : List α) (i : Nat) : List α := l.eraseIdx i

/-- Lane numbers of a mask, ascending. -/
def lanesOf (m : Mask) : List Nat := (List.range 32).filter fun l => m.getLsbD l

/-- The mask of the lanes that satisfy a condition. -/
def maskOf (p : Nat → Bool) : Mask :=
  (List.range 32).foldl (fun m l => if p l then m ||| (1#32 <<< l) else m) 0

/-- All 32 lanes. -/
def fullMask : Mask := 0xFFFFFFFF

end Sys2Proof.Machine
end

