-- ==== Sys2Proof/Machine/Operands.lean ====
section
/-! DEFINITION. The register names an instruction reads and writes, for the scoreboard (R93), the
budget check (R79) and the release of last-read operands (R43, R77); and the address forms (R194). -/

namespace Sys2Proof

open Machine

/-- Consecutive g registers. -/
def gBlock {w : Nat} (r : BitVec w) (k : Nat) : List RegName :=
  (List.range k).map fun i => .g (r.toNat + i)

/-- Consecutive s registers. -/
def sBlock {w : Nat} (r : BitVec w) (k : Nat) : List RegName :=
  (List.range k).map fun i => .s (r.toNat + i)

/-- The number of a register in the lists of errors (R301): g, s, k, p and c registers in turn. (DESIGN
CHOICE, log 28) -/
def Machine.RegName.number : RegName → Nat
  | .g n => n | .s n => 128 + n | .k n => 192 + n | .p n => 208 + n | .c n => 256 + n

/-- A register with one value for the group, or one that no lane owns (R13, R289). -/
def Machine.RegName.uniform : RegName → Bool
  | .s _ | .k _ | .c _ => true | _ => false

/-- One predicate. -/
def pName (p : BitVec 6) : RegName := .p p.toNat

/-- Registers of a 32- or 64-bit comparison operand (R108). -/
def CmpTy.regs : CmpTy → Nat
  | .i64 => 2 | .w64 => 2 | _ => 1

/-- Registers of an atomic operand (R200). -/
def ATy.regs (t : ATy) : Nat := if t.wide then 2 else 1

/-- Operand a of a memory reference: the index (R195). -/
def Addr.idx (ad : Addr) : List RegName := if ad.ix then gBlock ad.a 1 else []
def AddrX.idx (ad : AddrX) : List RegName := if ad.ix then gBlock ad.a 1 else []

/-- The base registers of a memory reference (R194). -/
def Addr.bases (ad : Addr) : List RegName :=
  if ad.bx then sBlock ad.base (if ad.sp == .cl then 2 else 1) else []
def AddrX.bases (ad : AddrX) : List RegName :=
  if ad.bx then sBlock ad.base (if ad.cl then 2 else 1) else []

/-- Scratchpad side of the copy family (R206). -/
def sideRegs {w : Nat} (cl : Bool) (r : BitVec w) : List RegName := sBlock r (if cl then 2 else 1)

/-- Count and completion word of the copy family (R206). -/
def CopyX.regs (x : CopyX) : List RegName :=
  sBlock x.cnt 1 ++
    (match x.cws with | .none => [] | .tm => sBlock x.cwb 1 | .cl => sBlock x.cwb 2)

/-- The row base of a row reference (R269). -/
def Row.regs (r : Row) : List RegName := if r.ax then sBlock r.a 1 else []

/-- Barrier number held in a register (R128). -/
def barReg (br : Bool) (bn : BitVec 6) : List RegName := if br then sBlock bn 1 else []

/-- The register operand of `sread` and `swrite` (R342). -/
def RegOp.names : RegOp → List RegName
  | .g n => [.g n.toNat]
  | .s n => [.s n.toNat]
  | .k n => [.k n.toNat]

def PerfDst.names : PerfDst → List RegName
  | .s n => [.s n.toNat]
  | .k n => [.k n.toNat]

/-- The registers that operand field A occupies (R77): the one register the field names, or the pair
or block. (DEDUCED, log 71) -/
def operandA : Instr → List RegName
  | .brx o => gBlock o.a 1 | .callx o => gBlock o.a 1
  | .add o => gBlock o.a 1 | .sub o => gBlock o.a 1 | .mul o => gBlock o.a 1
  | .mulhi o => gBlock o.a 1 | .mad o _ _ => gBlock o.a 1 | .min o => gBlock o.a 1
  | .max o => gBlock o.a 1 | .abs o => gBlock o.a 1 | .neg o => gBlock o.a 1
  | .and o => gBlock o.a 1 | .or o => gBlock o.a 1 | .xor o => gBlock o.a 1
  | .not o => gBlock o.a 1 | .shl o => gBlock o.a 1 | .shr o => gBlock o.a 1
  | .sar o => gBlock o.a 1 | .clz o => gBlock o.a 1 | .popc o => gBlock o.a 1
  | .brev o => gBlock o.a 1 | .bfe o => gBlock o.a 1 | .bfi o => gBlock o.a 1
  | .sel o _ => gBlock o.a 1 | .mov o => gBlock o.a 1 | .addi o _ => gBlock o.a 1
  | .lea o _ _ => gBlock o.a 1 | .add64 o => gBlock o.a 2 | .sub64 o => gBlock o.a 2
  | .isetp _ a _ _ t _ => gBlock a t.regs
  | .shli o => gBlock o.a 1 | .shri o => gBlock o.a 1 | .sari o => gBlock o.a 1
  | .fadd o => gBlock o.a 1 | .fsub o => gBlock o.a 1 | .fmul o => gBlock o.a 1
  | .ffma o _ => gBlock o.a 1 | .fmin o => gBlock o.a 1 | .fmax o => gBlock o.a 1
  | .fabs o => gBlock o.a 1 | .fneg o => gBlock o.a 1 | .fsetp _ a _ _ _ => gBlock a 1
  | .pfadd o => gBlock o.a 1 | .pfmul o => gBlock o.a 1 | .pffma o _ _ => gBlock o.a 1
  | .fclass o _ => gBlock o.a 1 | .rcp o => gBlock o.a 1 | .rsq o => gBlock o.a 1
  | .sqrt o => gBlock o.a 1 | .exp2 o => gBlock o.a 1 | .log2 o => gBlock o.a 1
  | .cvt o _ _ _ _ _ _ => gBlock o.a 1 | .frnd o => gBlock o.a 1
  | .smov _ a _ => sBlock a 1
  | .sadd o => sBlock o.a 1 | .ssub o => sBlock o.a 1 | .smul o => sBlock o.a 1
  | .sand o => sBlock o.a 1 | .sor o => sBlock o.a 1 | .sxor o => sBlock o.a 1
  | .sshl o => sBlock o.a 1 | .sshr o => sBlock o.a 1 | .ssetp _ a _ _ _ _ => sBlock a 1
  | .s2g _ a _ => sBlock a 1 | .g2s _ a _ _ => gBlock a 1 | .slea o _ _ => sBlock o.a 1
  | .shfl o _ _ _ _ => gBlock o.a 1 | .redux o _ _ _ => gBlock o.a 1
  | .prfx o _ _ _ _ => gBlock o.a 1
  | .rng o _ => gBlock o.a 1 | .rngn o => gBlock o.a 1 | .rngf o => gBlock o.a 1
  | .ld _ ad _ _ _ _ _ => ad.idx | .st _ ad _ _ _ _ => ad.idx
  | .pwait _ ad _ => ad.idx | .ptest _ ad _ => ad.idx
  | .atom o => o.ad.idx | .red o => o.ad.idx | .atomcas o => o.ad.idx
  | .tagget o cl => gBlock o.a (if cl then 2 else 1)
  | .tagset _ ad _ => ad.idx
  | .tagptr o => gBlock o.a 1
  | .copyIn o => gBlock o.mm 2 | .copyOut o => sideRegs o.x.cl o.sp
  | .copySs _ a _ srcCl _ => sideRegs srcCl a | .copyMm _ a _ _ => gBlock a 2
  | .copyt o out _ => if out then sideRegs o.x.cl o.sp else gBlock o.mm 2
  | .gather o => gBlock o.mm 2 | .scatter o => sideRegs o.x.cl o.sp
  | .cwinit o => sideRegs o.cl o.a | .cwadd o => sideRegs o.cl o.a
  | .cwwait o => sideRegs o.cl o.a | .cwtest _ o => sideRegs o.cl o.a
  | .copytag _ a _ _ _ => gBlock a 1
  | .berth a _ _ => sBlock a 1 | .unberth o => sBlock o.a 1
  | .mmas o _ _ => gBlock o.a 4 | .mmax o => gBlock o.a 1
  | .accw a _ _ _ => sBlock a 1
  | .accz row _ _ => row.regs | .accld _ row _ => row.regs | .accst row _ _ => row.regs
  | .accout _ row _ _ _ _ _ _ => row.regs
  | .cvtb _ a _ _ _ _ => gBlock a 1
  | .chain _ row _ _ _ => row.regs | .chapply _ row _ _ => row.regs
  | .chld _ a _ _ => sBlock a 1 | .chst _ a _ _ => sBlock a 1
  | .slip _ _ _ a _ => sBlock a 1 | .slipcl o => sBlock o.a 1 | .ferry o => gBlock o.a 1
  | .land _ a _ => sBlock a 1 | .ltstat o => gBlock o.a 1 | .ltfree o => gBlock o.a 1
  | .launch o => gBlock o.a 1
  | .watch sc _ _ _ a _ _ =>
    (match sc with | .lane => gBlock a 2 | _ => sBlock a 2)
  | .pilotset a ax _ _ _ => if ax then sBlock a 1 else []
  | .pilotget _ a ax _ _ => if ax then sBlock a 1 else []
  | .sample a _ _ => sBlock a 1 | .tlbinvPage a _ => sBlock a 2
  | _ => []

/-- The registers that operand field B occupies (R77). -/
def operandB : Instr → List RegName
  | .add o => gBlock o.b 1 | .sub o => gBlock o.b 1 | .mul o => gBlock o.b 1
  | .mulhi o => gBlock o.b 1 | .mad o _ _ => gBlock o.b 1 | .min o => gBlock o.b 1
  | .max o => gBlock o.b 1 | .and o => gBlock o.b 1 | .or o => gBlock o.b 1
  | .xor o => gBlock o.b 1 | .shl o => gBlock o.b 1 | .shr o => gBlock o.b 1
  | .sar o => gBlock o.b 1 | .bfe o => gBlock o.b 1 | .bfi o => gBlock o.b 1
  | .sel o _ => gBlock o.b 1 | .lea o _ _ => gBlock o.b 1
  | .add64 o => gBlock o.b 2 | .sub64 o => gBlock o.b 2
  | .isetp _ _ b _ t _ => gBlock b t.regs
  | .fadd o => gBlock o.b 1 | .fsub o => gBlock o.b 1 | .fmul o => gBlock o.b 1
  | .ffma o _ => gBlock o.b 1 | .fmin o => gBlock o.b 1 | .fmax o => gBlock o.b 1
  | .fsetp _ _ b _ _ => gBlock b 1
  | .pfadd o => gBlock o.b 1 | .pfmul o => gBlock o.b 1 | .pffma o _ _ => gBlock o.b 1
  | .cvt _ _ _ rm _ b _ => if rm == .rs then gBlock b 1 else []
  | .sadd o => sBlock o.b 1 | .ssub o => sBlock o.b 1 | .smul o => sBlock o.b 1
  | .sand o => sBlock o.b 1 | .sor o => sBlock o.b 1 | .sxor o => sBlock o.b 1
  | .sshl o => sBlock o.b 1 | .sshr o => sBlock o.b 1 | .ssetp _ _ b _ _ _ => sBlock b 1
  | .slea o _ _ => sBlock o.b 1
  | .shfl o _ _ imm _ => if imm then [] else gBlock o.b 1
  | .rng o _ => gBlock o.b 1 | .rngn o => gBlock o.b 1 | .rngf o => gBlock o.b 1
  | .st b _ t v _ _ => gBlock b (t.regs * v.count)
  | .pwait b _ _ => gBlock b 1
  | .atom o => gBlock o.b o.t.regs | .red o => gBlock o.b o.t.regs
  | .atomcas o => gBlock o.b (2 * o.t.regs)
  | .tagset b _ _ => gBlock b 1 | .tagptr o => gBlock o.b 1
  | .gather o => gBlock o.idx 2 | .scatter o => gBlock o.idx 2
  | .cwinit o => sBlock o.b (if o.w64 then 2 else 1)
  | .cwadd o => sBlock o.b (if o.w64 then 2 else 1)
  | .cwwait o => sBlock o.b (if o.w64 then 2 else 1)
  | .cwtest _ o => sBlock o.b (if o.w64 then 2 else 1)
  | .mmas o _ _ => gBlock o.b 4
  | .accw _ b _ _ => sBlock b 1
  | .accst _ b _ => gBlock b 1
  | .accout _ _ b _ rm _ _ _ => if rm == .rs then sBlock b 2 else []
  | .cvtb _ _ b _ _ _ => sBlock b 1
  | .chain _ _ b _ _ => sBlock b 1 | .chapply _ _ b _ => sBlock b 1
  | .ltstat o => gBlock o.b 1 | .launch o => gBlock o.b 1
  | .watch sc _ _ _ _ b _ => (match sc with | .lane => gBlock b 1 | _ => sBlock b 1)
  | .pilotset _ _ b _ _ => sBlock b 1
  | _ => []

/-- The registers read through the other fields. (DEDUCED, log 71) -/
def operandRest : Instr → List RegName
  | .mad o _ _ => gBlock o.c 1 | .bfi o => gBlock o.c 1 | .ffma o _ => gBlock o.c 1
  | .pffma o _ _ => gBlock o.c 1
  | .sel _ p => [pName p]
  | .cvt _ _ _ rm _ _ c => if rm == .rs then sBlock c 1 else []
  | .pand o => [pName o.pa, pName o.pb] | .por o => [pName o.pa, pName o.pb]
  | .pxor o => [pName o.pa, pName o.pb]
  | .pmov o => [pName o.pa] | .vote o _ => [pName o.pa] | .elect o => [pName o.pa]
  | .ld _ ad _ _ _ _ _ => ad.bases | .st _ ad _ _ _ _ => ad.bases | .ldu _ ad _ _ _ => ad.bases
  | .pwait _ ad _ => ad.bases | .ptest _ ad _ => ad.bases | .tagset _ ad _ => ad.bases
  | .atom o => o.ad.bases | .red o => o.ad.bases | .atomcas o => o.ad.bases
  | .copyIn o => sideRegs o.x.cl o.sp ++ o.x.regs | .copyOut o => gBlock o.mm 2 ++ o.x.regs
  | .copySs d _ x _ _ => sideRegs x.cl d ++ x.regs | .copyMm d _ x _ => gBlock d 2 ++ x.regs
  | .copyt o out _ => (if out then gBlock o.mm 2 else sideRegs o.x.cl o.sp) ++ o.x.regs
  | .gather o => sideRegs o.x.cl o.sp ++ o.x.regs
  | .scatter o => gBlock o.mm 2 ++ o.x.regs
  | .copytag d _ mm x _ => (if mm then gBlock d 2 else sideRegs x.cl d) ++ x.regs
  | .mmas o _ _ => gBlock o.c 8
  | .accw _ _ c _ => sBlock c 1
  | .accout d _ _ _ _ _ _ _ => sBlock d 1
  | .cvtb d _ _ _ _ _ => sBlock d 1
  | .chain k _ _ mask _ => sBlock mask 1 ++ [.c k.toNat]
  | .chapply k _ _ _ => [.c k.toNat] | .chst k _ _ _ => [.c k.toNat]
  | .barArrive o => barReg o.br o.bn | .barSync o => barReg o.br o.bn
  | .barWait br sx bn _ => barReg br bn ++ sBlock sx 1
  | .barq _ br _ bn _ => barReg br bn
  | .swrite ra _ _ => ra.names
  | _ => []

/-- Every name an instruction reads (R93). (DEDUCED, log 30) -/
def readNames (i : Instr) : List RegName := operandA i ++ operandB i ++ operandRest i

/-- The predicate a long-latency result is bound for: none when it is p0, which discards it (R13). -/
def pBound (p : BitVec 6) : List RegName := if p = 0 then [] else [pName p]

/-- Every name an instruction writes. -/
def writeNames : Instr → List RegName
  | .add o => gBlock o.d 1 | .sub o => gBlock o.d 1 | .mul o => gBlock o.d 1
  | .mulhi o => gBlock o.d 1 | .mad o _ _ => gBlock o.d 1 | .min o => gBlock o.d 1
  | .max o => gBlock o.d 1 | .abs o => gBlock o.d 1 | .neg o => gBlock o.d 1
  | .and o => gBlock o.d 1 | .or o => gBlock o.d 1 | .xor o => gBlock o.d 1
  | .not o => gBlock o.d 1 | .shl o => gBlock o.d 1 | .shr o => gBlock o.d 1
  | .sar o => gBlock o.d 1 | .clz o => gBlock o.d 1 | .popc o => gBlock o.d 1
  | .brev o => gBlock o.d 1 | .bfe o => gBlock o.d 1 | .bfi o => gBlock o.d 1
  | .sel o _ => gBlock o.d 1 | .mov o => gBlock o.d 1 | .movi d _ _ => gBlock d 1
  | .addi o _ => gBlock o.d 1 | .lea o _ _ => gBlock o.d 1
  | .add64 o => gBlock o.d 2 | .sub64 o => gBlock o.d 2
  | .isetp p _ _ _ _ _ => [pName p]
  | .shli o => gBlock o.d 1 | .shri o => gBlock o.d 1 | .sari o => gBlock o.d 1
  | .fadd o => gBlock o.d 1 | .fsub o => gBlock o.d 1 | .fmul o => gBlock o.d 1
  | .ffma o _ => gBlock o.d 1 | .fmin o => gBlock o.d 1 | .fmax o => gBlock o.d 1
  | .fabs o => gBlock o.d 1 | .fneg o => gBlock o.d 1 | .fsetp p _ _ _ _ => [pName p]
  | .pfadd o => gBlock o.d 1 | .pfmul o => gBlock o.d 1 | .pffma o _ _ => gBlock o.d 1
  | .fclass o _ => gBlock o.d 1 | .rcp o => gBlock o.d 1 | .rsq o => gBlock o.d 1
  | .sqrt o => gBlock o.d 1 | .exp2 o => gBlock o.d 1 | .log2 o => gBlock o.d 1
  | .cvt o _ _ _ _ _ _ => gBlock o.d 1 | .frnd o => gBlock o.d 1
  | .pand o => [pName o.pd] | .por o => [pName o.pd] | .pxor o => [pName o.pd]
  | .pmov o => [pName o.pd] | .vote o _ => [pName o.pd] | .elect o => [pName o.pd]
  | .smov d _ _ => sBlock d 1 | .smovi d _ _ => sBlock d 1
  | .sadd o => sBlock o.d 1 | .ssub o => sBlock o.d 1 | .smul o => sBlock o.d 1
  | .sand o => sBlock o.d 1 | .sor o => sBlock o.d 1 | .sxor o => sBlock o.d 1
  | .sshl o => sBlock o.d 1 | .sshr o => sBlock o.d 1 | .ssetp p _ _ _ _ _ => [pName p]
  | .s2g d _ _ => gBlock d 1 | .g2s d _ _ _ => sBlock d 1 | .slea o _ _ => sBlock o.d 1
  | .shfl o p _ _ _ => gBlock o.d 1 ++ pBound p
  | .redux o _ _ _ => gBlock o.d 1 | .prfx o _ _ _ _ => gBlock o.d 1
  | .rng o _ => gBlock o.d 1 | .rngn o => gBlock o.d 1 | .rngf o => gBlock o.d 1
  | .ld d _ t v _ _ _ => gBlock d (t.regs * v.count)
  | .ldu d _ t v _ => sBlock d (t.regs * v.count)
  | .ptest p _ _ => pBound p
  | .atom o => gBlock o.d o.t.regs | .atomcas o => gBlock o.d o.t.regs
  | .tagget o _ => gBlock o.d 1 | .tagptr o => gBlock o.d 1
  | .cwtest p _ => pBound p
  | .mmas o _ _ => gBlock o.d 8
  | .accld d _ _ => gBlock d 1 | .accflg d _ => sBlock d 1
  | .chain k _ _ _ _ => [.c k.toNat] | .chld k _ _ _ => [.c k.toNat] | .chldId k _ => [.c k.toNat]
  | .take d _ _ => sBlock d 1 | .ltstat o => gBlock o.d 1
  | .barArrive o => if o.wr then sBlock o.sx 1 else []
  | .barSync o => if o.wr then sBlock o.sx 1 else []
  | .barq _ _ sd _ _ => sBlock sd 1
  | .launch o => gBlock o.d 1
  | .sread rd _ _ => rd.names
  | .ctxsaveAcc o => [pName o.p] | .ctxsavePre o => [pName o.p] | .ctxsaveSlice o => [pName o.p]
  | .ctxsaveMig o => [pName o.p] | .ctxsaveDump o => [pName o.p]
  | .ctxloadAcc o => [pName o.p] | .ctxloadImg o => [pName o.p]
  | .pilotget d _ _ _ _ => sBlock d 1
  | .perfrd d _ _ _ => d.names
  | _ => []

/-- The G bit of an instruction's low three bits decides its active lanes (R90). -/
def instrMods : Instr → Mods
  | .nop m => m | .bra _ m => m | .brx o => o.m | .call _ m => m | .callx o => o.m | .ret m => m
  | .exit m => m | .enrol _ _ m => m | .rejoin _ m => m | .yield m => m
  | .add o => o.m | .sub o => o.m | .mul o => o.m | .mulhi o => o.m | .mad o _ _ => o.m
  | .min o => o.m | .max o => o.m | .abs o => o.m | .neg o => o.m | .and o => o.m | .or o => o.m
  | .xor o => o.m | .not o => o.m | .shl o => o.m | .shr o => o.m | .sar o => o.m | .clz o => o.m
  | .popc o => o.m | .brev o => o.m | .bfe o => o.m | .bfi o => o.m | .sel o _ => o.m
  | .mov o => o.m | .movi _ _ m => m | .addi o _ => o.m | .lea o _ _ => o.m | .add64 o => o.m
  | .sub64 o => o.m | .isetp _ _ _ _ _ m => m | .shli o => o.m | .shri o => o.m | .sari o => o.m
  | .fadd o => o.m | .fsub o => o.m | .fmul o => o.m | .ffma o _ => o.m | .fmin o => o.m
  | .fmax o => o.m | .fabs o => o.m | .fneg o => o.m | .fsetp _ _ _ _ m => m | .pfadd o => o.m
  | .pfmul o => o.m | .pffma o _ _ => o.m | .fclass o _ => o.m | .rcp o => o.m | .rsq o => o.m
  | .sqrt o => o.m | .exp2 o => o.m | .log2 o => o.m | .cvt o _ _ _ _ _ _ => o.m | .frnd o => o.m
  | .pand o => o.m | .por o => o.m | .pxor o => o.m | .pmov o => o.m | .vote o _ => o.m
  | .elect o => o.m | .smov _ _ m => m | .smovi _ _ m => m | .sadd o => o.m | .ssub o => o.m
  | .smul o => o.m | .sand o => o.m | .sor o => o.m | .sxor o => o.m | .sshl o => o.m
  | .sshr o => o.m | .ssetp _ _ _ _ _ m => m | .s2g _ _ m => m | .g2s _ _ _ m => m
  | .slea o _ _ => o.m | .shfl o _ _ _ _ => o.m | .redux o _ _ _ => o.m | .prfx o _ _ _ _ => o.m
  | .rng o _ => o.m | .rngn o => o.m | .rngf o => o.m | .ld _ _ _ _ _ _ m => m
  | .st _ _ _ _ _ m => m | .ldu _ _ _ _ m => m | .pwait _ _ m => m | .ptest _ _ m => m
  | .atom o => o.m | .red o => o.m | .atomcas o => o.m | .fence _ m => m | .tagget o _ => o.m
  | .tagset _ _ m => m | .tagptr o => o.m | .copyIn o => o.m | .copyOut o => o.m
  | .copySs _ _ _ _ m => m | .copyMm _ _ _ m => m | .copyt o _ _ => o.m | .gather o => o.m
  | .scatter o => o.m | .cwinit o => o.m | .cwadd o => o.m | .cwwait o => o.m | .cwtest _ o => o.m
  | .copytag _ _ _ _ m => m | .berth _ _ m => m | .unberth o => o.m | .mmas o _ _ => o.m
  | .mmax o => o.m | .accw _ _ _ m => m | .accz _ _ m => m | .accld _ _ m => m | .accst _ _ m => m
  | .accout _ _ _ _ _ _ _ m => m | .cvtb _ _ _ _ _ m => m | .accflg _ m => m
  | .chain _ _ _ _ m => m | .chapply _ _ _ m => m | .chld _ _ _ m => m | .chldId _ m => m
  | .chst _ _ _ m => m | .slip _ _ _ _ m => m | .slipcl o => o.m | .ferry o => o.m
  | .take _ _ m => m | .land _ _ m => m | .ltstat o => o.m | .ltfree o => o.m
  | .barArrive o => o.m | .barWait _ _ _ m => m | .barSync o => o.m | .barq _ _ _ _ m => m
  | .reggive _ _ m => m | .regtake _ m => m | .launch o => o.m | .trap _ m => m | .eret m => m
  | .sread _ _ m => m | .swrite _ _ m => m | .watch _ _ _ _ _ _ m => m | .unwatch _ _ m => m
  | .dbrk _ m => m | .ctxsaveAcc o => o.m | .ctxsavePre o => o.m | .ctxsaveSlice o => o.m
  | .ctxsaveMig o => o.m | .ctxsaveDump o => o.m | .ctxloadAcc o => o.m | .ctxloadImg o => o.m
  | .pilotset _ _ _ _ m => m | .pilotget _ _ _ _ m => m | .perfrd _ _ _ m => m | .sample _ _ m => m
  | .haltt m => m | .resumet m => m | .tlbinvAll m => m | .tlbinvPage _ m => m
  | _ => { g := false, r := false, s := false }

end Sys2Proof
end

