-- ==== Sys2Proof/Machine/Access.lean ====
section
/-! DEFINITION. Reading and writing the parts of the state: teams, groups, cores, functions, and the
registers of a group with the pending long-latency results (R41-R43, R91-R92). -/

namespace Sys2Proof.Machine

/-! ### Fresh teams, groups and lanes (R9, R41, R141) -/

/-- A lane at placement: READY at the kernel entry, an empty call stack (R25, R27, R105). -/
def Lane.placed (entry : Word) (spill : Nat) : Lane :=
  { pc := entry, st := .ready, mid := none, lsp := BitVec.ofNat 13 (spill / 4), age := 0 }

/-- Trap registers at placement (R305). -/
def TrapRegs.zero : TrapRegs :=
  { code := 0, info := 0, act := 0, flt := 0, addr := [], instr := 0, pc := 0 }

/-- Group performance counters at placement (R353). -/
def Perf.zero : Perf := { slots := 0, clauses := 0, cadence := 0, drains := 0, banks := 0 }

/-- A group at placement: registers 0, rejoin slots free, `%cadence` 0x0800, `%capsel` byte 0x0100
(R33, R41, R102, R122, R165, R252, R305, R341). (DESIGN CHOICE, log 1) -/
def Group.placed (index role slot gen port budget : Nat) (entry : Word) (spill : Nat) : Group :=
  { index := index, role := role, slot := slot, gen := gen, port := port, budget := budget,
    ended := false, lanes := List.replicate 32 (Lane.placed entry spill), g := [], p := [], s := [],
    k := [], c := [], rejoins := [], exmask := 0, limit := 0x0800, timer := 0,
    queue := [], qovf := false, pending := [], accepted := 0, heldOp := none, since := none, seq := 0, clause := none, park := .none,
    hold := .none, fpflags := 0, rngseed := 0, accbase := 0, acclim := 0, wflags := 0, chprog := none,
    trapRegs := TrapRegs.zero, entry := none, frames := [], spill := [], frame := [], watches := [],
    lastPages := [], halted := false, stopped := false, barStop := none, watchdog := 0,
    sample := none, perf := Perf.zero, capsel := 0x0040, stamp := 0, saved := none, loaded := false,
    latch := [], older := [], entering := false }

/-- The group an absent name reads as. -/
def Group.blank : Group := Group.placed 0 0 0 0 0 0 0 0

/-- The team an absent name reads as. (DESIGN CHOICE, log 81) -/
def Team.blank : Team :=
  { key := 0, ctx := 0, core := 0, serial := 0, grid := 0, ownGrid := 0, newSerial := false, linear := 0, x := 0, y := 0,
    z := 0, gx := 0, gy := 0, gz := 0, kernel := 0, peloton := false, tmSize := 0, spill := 0,
    quantum := 0, rows := 0, firstUnit := 0, restoreMark := none, clearMark := false, tm := [],
    tags := [], absent := [], barriers := [], watches := [], tmchk := false, tvec := 0, ferrylate := 0,
    mode := 0, records := [], stop := .none, groups := [], resumeCw := none, placed := 0 }

/-! ### Teams, groups, cores and functions -/

/-- The resident team of a key. -/
def State.team? (s : State) (k : Nat) : Option Team := s.teams.find? fun t => t.key == k
def State.team (s : State) (k : Nat) : Team := (s.team? k).getD Team.blank

/-- Changes the resident team of a key. -/
def State.modTeam (s : State) (k : Nat) (f : Team → Team) : State :=
  { s with teams := s.teams.map fun t => if t.key = k then f t else t }

/-- A group of a team. -/
def Team.group? (t : Team) (g : Nat) : Option Group := t.groups.find? fun x => x.index == g
def Team.group (t : Team) (g : Nat) : Group := (t.group? g).getD Group.blank

/-- Changes a group of a team. -/
def Team.modGroup (t : Team) (g : Nat) (f : Group → Group) : Team :=
  { t with groups := t.groups.map fun x => if x.index = g then f x else x }

def State.group (s : State) (k g : Nat) : Group := (s.team k).group g
def State.modGroup (s : State) (k g : Nat) (f : Group → Group) : State :=
  s.modTeam k fun t => t.modGroup g f

/-- The group whose word issues, and its team. -/
def State.cg (s : State) : Group := s.group s.curTeam s.curGroup
def State.ct (s : State) : Team := s.team s.curTeam
def State.modCg (s : State) (f : Group → Group) : State := s.modGroup s.curTeam s.curGroup f
def State.modCt (s : State) (f : Team → Team) : State := s.modTeam s.curTeam f

/-- A core by its `%coreid`. -/
def State.core (s : State) (c : Nat) : Core := (tfind s.cores c).getD Core.reset
def State.modCore (s : State) (c : Nat) (f : Core → Core) : State :=
  { s with cores := tins s.cores c (f (s.core c)) }

/-- Start-up is complete (R387); the device runs in minimal mode (R391). -/
def Boot.isReady (b : Boot) : Bool := match b.stage with | .ready _ => true | _ => false
def Boot.minimal (b : Boot) : Bool := match b.stage with | .ready m => m | _ => false

/-- Activity adds to the energy counter of a die (R378): kinds 0 to 5 are issue slots, matrix steps, Chain
chunks, bank accesses, beats and flits; 0 and 1 of the I/O die 16 are links and routers. (DESIGN CHOICE, log 59) -/
def State.spendDie (s : State) (die kind n : Nat) : State :=
  { s with energy := tins s.energy die ((tfind s.energy die).getD 0 + Config.energyWeight die kind * n) }
def State.spend (s : State) (core kind n : Nat) : State := s.spendDie (core / 128) kind n

/-- The sum of the energy counters, and millijoules between two sums (R378). -/
def State.energySum (s : State) : Nat := (s.energy.map (·.2)).sum
def milliJoules (from_ to_ : Nat) : Nat := (to_ - from_) / (Config.energyUnit + 1)

/-- A function; context number n belongs to function n - 1 (R383). -/
def State.func (s : State) (fn : Nat) : Func := (tfind s.funcs fn).getD Func.reset
def State.modFunc (s : State) (fn : Nat) (f : Func → Func) : State :=
  { s with funcs := tins s.funcs fn (f (s.func fn)) }
def State.ctxFunc (s : State) (ctx : Nat) : Func := s.func (ctx - 1)
def State.modCtx (s : State) (ctx : Nat) (f : Func → Func) : State := s.modFunc (ctx - 1) f

/-- A grid by its serial, and a change of it. -/
def State.grid? (s : State) (n : Nat) : Option Grid := s.grids.find? fun g => g.serial == n
def State.modGrid (s : State) (n : Nat) (f : Grid → Grid) : State :=
  { s with grids := s.grids.map fun g => if g.serial = n then f g else g }

/-! ### Lanes -/

def Group.lane (g : Group) (l : Nat) : Lane := g.lanes.getD l (Lane.placed 0 0)

/-- Changes one lane. -/
def Group.modLane (g : Group) (l : Nat) (f : Lane → Lane) : Group :=
  { g with lanes := g.lanes.modify l f }

/-- Changes the lanes of a mask. -/
def Group.modLanes (g : Group) (m : Mask) (f : Nat → Lane → Lane) : Group :=
  { g with lanes := g.lanes.mapIdx fun l x => if m.getLsbD l then f l x else x }

/-- The lanes whose state satisfies a condition. -/
def Group.lanesIn (g : Group) (p : LaneState → Bool) : Mask := maskOf fun l => p (g.lane l).st

/-- A lane that is READY (R25). -/
def LaneState.isReady : LaneState → Bool
  | .ready => true | _ => false
def LaneState.isExited : LaneState → Bool
  | .exited => true | _ => false
def LaneState.isBarrier : LaneState → Bool
  | .barrier _ _ => true | _ => false
def LaneState.isParked : LaneState → Bool
  | .parked _ => true | _ => false
def LaneState.isTrapped : LaneState → Bool
  | .parked (.trapped _) => true | _ => false

def Group.readyLanes (g : Group) : Mask := g.lanesIn LaneState.isReady

/-! ### Registers -/

/-- The key of a g or c element. -/
def elem (n lane : Nat) : Nat := n * 32 + lane

/-- The register file's element (R13, R41): an unwritten one is 0, p0 is true. -/
def Group.peek (g : Group) (r : RegName) (l : Nat) : Word :=
  match r with
  | .g n => tget 0 g.g (elem n l)
  | .s n => tget 0 g.s n
  | .k n => tget 0 g.k n
  | .p n => if n = 0 then 1 else if (tget 0 g.p n).getLsbD l then 1 else 0
  | .c n => tget 0 g.c (elem n l)

/-- Sets or clears one bit of a mask. -/
def setBit (m : Mask) (l : Nat) (b : Bool) : Mask :=
  if b then m ||| (1#32 <<< l) else m &&& ~~~(1#32 <<< l)

/-- What the collector latch holds after a write to a register: a write to one that it holds invalidates it (R46). -/
def Group.latchPast (g : Group) (n : RegName) : List RegName := if g.latch.contains n then [] else g.latch

/-- Writes the register file; writes to p0 are discarded (R13). -/
def Group.poke (g : Group) (w : RegWrite) : Group :=
  match w.name with
  | .g n => { g with g := tput 0 g.g (elem n w.lane) w.val, latch := g.latchPast w.name }
  | .s n => { g with s := tput 0 g.s n w.val, latch := g.latchPast w.name }
  | .k n => { g with k := tput 0 g.k n w.val, latch := g.latchPast w.name }
  | .p n =>
    if n = 0 then g
    else { g with p := tput 0 g.p n (setBit (tget 0 g.p n) w.lane (w.val != 0)), latch := g.latchPast w.name }
  | .c n => { g with c := tput 0 g.c (elem n w.lane) w.val, latch := g.latchPast w.name }

/-- Whether a pending result may still write an element. -/
def PendRes.has (r : PendRes) (n : RegName) (l : Nat) : Bool :=
  r.live.any fun x => decide (x.1 = n) && x.2.getLsbD l

/-- The value a pending result holds for an element, once it has returned. -/
def PendRes.value? (r : PendRes) (n : RegName) (l : Nat) : Option Word :=
  (r.vals.find? fun w => decide (w.name = n) && w.lane == l).map (·.val)

/-- A pending result that may no longer write an element (R42). -/
def PendRes.kill (r : PendRes) (n : RegName) (l : Nat) : PendRes :=
  { r with live := r.live.map fun x => if x.1 = n then (x.1, setBit x.2 l false) else x }

/-- A read of an element: the value of the latest write; where that is a long-latency result of the
same clause execution, the value of the write before it (R42, R92). p0 is true (R13). -/
def Group.read (g : Group) (n : RegName) (l : Nat) : Word :=
  if n = .p 0 then 1
  else match (g.pending.filter fun r => r.seq == g.seq && r.has n l).reverse with
  | _ :: r :: _ => (r.value? n l).getD (g.peek n l)
  | _ => g.peek n l

/-- A short-latency write: earlier results bound for the element are discarded there (R42). -/
def Group.write (g : Group) (w : RegWrite) : Group :=
  ({ g with pending := g.pending.map fun (r : PendRes) => r.kill w.name w.lane }).poke w

/-- Short-latency writes in turn. -/
def Group.writes (g : Group) (ws : List RegWrite) : Group := ws.foldl Group.write g

/-- Release of a name for the whole group (R43): it reads 0, and earlier results bound for it are
discarded. -/
def Group.release (g : Group) (n : RegName) : Group :=
  { (List.range 32).foldl (fun g l => g.poke { name := n, lane := l, val := 0 }) g with
    pending := g.pending.map fun r =>
      { r with live := r.live.map fun x => if x.1 = n then (x.1, 0) else x } }

/-- A pending result that has landed, or has nothing left to write (R94 wait bit 0). (DEDUCED, log 11) -/
def PendRes.done (r : PendRes) : Bool := r.landed || r.live.all fun x => x.2 == 0

/-- Wait bit 0 (R94): every long-latency result has landed or been discarded. -/
def Group.regsDone (g : Group) : Bool := g.pending.all PendRes.done

/-- A name that the scoreboard holds (R93): a result of an earlier clause execution is pending. (DEDUCED, log 11) -/
def Group.busy (g : Group) (n : RegName) : Bool :=
  g.pending.any fun r => r.seq != g.seq && !r.landed && r.live.any fun x => decide (x.1 = n) && x.2 != 0

/-- A name that a result of this clause execution is still to return a value for: a later write of it
waits, so that a read of the name finds that value (R42, R92). (DEDUCED, log 85) -/
def Group.unreturned (g : Group) (n : RegName) : Bool :=
  g.pending.any fun r => r.seq == g.seq && r.need != 0 && r.live.any fun x => decide (x.1 = n) && x.2 != 0

/-- The scoreboard holds an instruction: a name it reads is pending (R93), or one it writes has not
returned (R42). -/
def Group.holds (g : Group) (i : Instr) : Bool :=
  (readNames i).any g.busy || (writeNames i).any g.unreturned

/-- The values of a landed result enter the registers where it is still live; older results are
discarded there (R42). -/
def Group.applyAt (g : Group) (i : Nat) : Group :=
  match g.pending[i]? with
  | none => g
  | some r =>
    let ws := r.vals.filter fun w => r.has w.name w.lane
    let older := (g.pending.take i).map fun o => ws.foldl (fun (o : PendRes) w => o.kill w.name w.lane) o
    ws.foldl Group.poke { g with pending := older ++ g.pending.drop (i + 1) }

/-- Results that landed within the clause execution that issued them enter the registers (R92). (DEDUCED, log 11) -/
def Group.applyLanded (g : Group) : Nat → Group
  | 0 => g
  | k + 1 =>
    match g.pending.findIdx? (·.landed) with
    | none => g
    | some i => Group.applyLanded (g.applyAt i) k

/-- A clause execution begins (R92). (DEDUCED, log 11) -/
def Group.newExecution (g : Group) : Group :=
  let g := g.applyLanded g.pending.length
  { g with seq := g.seq + 1, older := [] }

/-- Reads of one element by kind. -/
def Group.rg (g : Group) {w : Nat} (n : BitVec w) (l : Nat) : Word := g.read (.g n.toNat) l
def Group.rs (g : Group) {w : Nat} (n : BitVec w) : Word := g.read (.s n.toNat) 0
def Group.rp (g : Group) (n : BitVec 6) (l : Nat) : Bool := g.read (.p n.toNat) l != 0

/-- The 64-bit value of a register pair, low word first (R108). -/
def Group.rg64 (g : Group) {w : Nat} (n : BitVec w) (l : Nat) : Nat :=
  (g.read (.g n.toNat) l).toNat + (g.read (.g (n.toNat + 1)) l).toNat * 2 ^ 32
def Group.rs64 (g : Group) {w : Nat} (n : BitVec w) : Nat :=
  (g.read (.s n.toNat) 0).toNat + (g.read (.s (n.toNat + 1)) 0).toNat * 2 ^ 32

/-! ### Handlers and privilege -/

/-- Whether the group runs in a handler, and in the supervisor's (R306, R338). -/
def Group.inHandler (g : Group) : Bool := !g.frames.isEmpty
def Group.inSup (g : Group) : Bool :=
  match g.frames with
  | f :: _ => f.sup
  | [] => false

/-- PRIVILEGED of the function flags (R382): the context is marked privileged. -/
def Func.priv (f : Func) : Bool := f.flags.getLsbD 1

/-- Privileged code (R338). -/
def State.privileged (s : State) : Bool := s.cg.inSup || (s.ctxFunc s.ct.ctx).priv

/-- A held word has begun its effect: a stop lets it finish (R313, R324). -/
def Group.midWord (g : Group) : Bool := g.accepted != 0 || g.heldOp.isSome || g.since.isSome

/-- Some group of a team is halted (R326). -/
def Team.isHalted (t : Team) : Bool := t.groups.any fun g => !g.ended && g.halted

/-- A group that neither a halt nor the stop of its team keeps from issuing (R313-R315, R324): a request
for a halted team is held (R326), and a fine stop waits for a supervisor handler. -/
def Team.running (t : Team) (g : Group) : Bool :=
  !g.ended && !g.stopped && (!g.halted || g.midWord) &&
    (match t.stop with
     | .none => true
     | .slice _ => true
     | .fine _ => t.isHalted || g.inSup || g.midWord
     | .handler _ _ => g.inSup
     | .over => false)

/-- Groups of a team that have not ended. -/
def Team.live (t : Team) : Nat := (t.groups.filter fun g => !g.ended).length

/-- A team of a peloton that has ended, and whose memory stays for the other members (R47; DESIGN CHOICE,
log 91). -/
def Team.departed (t : Team) : Bool := t.groups.isEmpty

/-- Two teams of one peloton (R20). -/
def Team.sibling (t u : Team) : Bool := u.peloton && u.grid == t.grid && u.ctx == t.ctx

/-- The team and, for a peloton, its other resident members (R20). (DEDUCED, log 50) -/
def State.members (s : State) (t : Team) : List Team :=
  if t.peloton then s.teams.filter fun u => t.sibling u && !u.departed else [t]

/-- Accumulates the state over a list. -/
def foldS {α : Type} (f : State → α → State) (s : State) (l : List α) : State := l.foldl f s

end Sys2Proof.Machine
end

