-- ==== Sys2Proof/Machine/Trans.lean ====
section
/-! DEFINITION. Main memory and its translation (R146-R155, R323), host memory, trace records (R335)
and the fault queue (R312, R382). -/

namespace Sys2Proof.Machine

/-! ### Physical main memory -/

/-- Size of a page, a scrub unit and a segment unit. -/
def pageSize : Nat := 65536

/-- A unit whose scrub has not finished (R323). (DEDUCED, log 69) -/
def State.scrubbing (s : State) (pa : Nat) : Bool := s.scrub.contains (pa / pageSize)

/-- One byte of main memory: a scrub-pending unit reads 0 (R323). -/
def State.hbmByte (s : State) (pa : Nat) : Byte := if s.scrubbing pa then 0 else s.hbm.read pa

/-- Bytes of main memory. -/
def State.hbmBytes (s : State) (pa n : Nat) : List Byte := (List.range n).map fun i => s.hbmByte (pa + i)

/-- The tag of a granule of main memory (R156, R323). -/
def State.hbmTag (s : State) (gr : Nat) : BitVec 4 :=
  if s.scrub.contains (gr / 2048) then 0 else tget 0 s.hbmTags gr

/-- The first write to a scrub-pending unit fills it with zeros and zero tags (R323). (DEDUCED, log 69) -/
def State.scrubUnit (s : State) (u : Nat) : State :=
  if s.scrub.contains u then
    { s with hbm := s.hbm.clear (u * pageSize) pageSize,
             hbmTags := s.hbmTags.filter fun x => x.1 / 2048 != u,
             scrub := s.scrub.filter fun v => v != u }
  else s

/-- Writes one byte of main memory. (DEDUCED, log 69) -/
def State.hbmPut (s : State) (pa : Nat) (v : Byte) : State :=
  let s := s.scrubUnit (pa / pageSize)
  { s with hbm := s.hbm.write pa v }

/-- Writes bytes of main memory. -/
def State.hbmPuts (s : State) (pa : Nat) (bs : List Byte) : State :=
  match bs with
  | [] => s
  | b :: r => State.hbmPuts (s.hbmPut pa b) (pa + 1) r

/-- Sets the tag of a granule of main memory. -/
def State.hbmPutTag (s : State) (gr : Nat) (t : BitVec 4) : State :=
  let s := s.scrubUnit (gr / 2048)
  { s with hbmTags := tput 0 s.hbmTags gr t }

/-! ### Read latencies (R371) -/

/-- Sum of two histograms of 64 buckets. (DEDUCED, log 58) -/
def addHist (a b : List Nat) : List Nat := (List.range 64).map fun i => a.getD i 0 + b.getD i 0

/-- A read packet of a context reaches the controller of its stack: it counts for the tick and for the
tenant's interval (R371, R376). (DEDUCED, log 58) -/
def State.noteRead (s : State) (ctx : Nat) (x : Nat × Nat) : State :=
  let key := x.2 / (63 * 2 ^ 30) * 64 + (ctx - 1)
  let one := (List.range 64).map fun b => if b = Config.readLatency s.tick x.1 % 64 then 1 else 0
  ({ s with hists := tins s.hists key (addHist ((tfind s.hists key).getD []) one) }).modCtx ctx fun f =>
    { f with hist := addHist f.hist one }

/-- Read packets at physical addresses. -/
def State.noteReads (s : State) (ctx : Nat) (pas : List Nat) : State :=
  foldS (fun s x => s.noteRead ctx (x.2, x.1)) s pas.zipIdx

/-! ### Translation -/

/-- Kinds of access to a page (R149). -/
inductive PageUse where
  | rd | wr | ex
  deriving DecidableEq, Repr

/-- What a translation gives: a page, a trap code, or a page in migration (R155). -/
inductive Xlat where
  | page (p : LastPage)
  | trap (code : Nat)
  | mig
  deriving DecidableEq, Repr

/-- Trap codes of R301 used by translation. -/
def codeNotPresent : Nat := 0x08
def codePermission : Nat := 0x09
def codeSegment : Nat := 0x0A

/-- Stage two (R150): the physical address of an intermediate address, unless it lies beyond the
segment. -/
def stageTwo (f : Func) (ia : Nat) : Option Nat :=
  if f.segsize.toNat * pageSize ≤ ia then none else some (f.segbase.toNat * pageSize + ia)

/-- A table entry (R149), read from main memory under stage two. -/
def State.tableEntry (s : State) (f : Func) (ia : Nat) : Option Nat :=
  (stageTwo f ia).map fun pa => leNat (s.hbmBytes pa 8)

/-- Fields of a table entry. -/
def entV (e : Nat) : Bool := e % 2 == 1
def entT (e : Nat) : Bool := e / 2 % 2 == 1
def entMig (e : Nat) : Bool := e / 2 ^ 7 % 2 == 1
def entRes0 (e : Nat) : Bool := e / 4 % 2 == 0 && e / 2 ^ 8 % 2 ^ 8 == 0 && e / 2 ^ 52 == 0
def entAddr (e : Nat) : Nat := e / 2 ^ 16 % 2 ^ 36 * 2 ^ 16

/-- The end of a walk at a block or page entry. -/
def walkEnd (f : Func) (va e base : Nat) (block : Bool) (use : PageUse) : Xlat :=
  let rd := e / 2 ^ 3 % 2 == 1
  let wr := e / 2 ^ 4 % 2 == 1
  let ex := e / 2 ^ 5 % 2 == 1
  let ok := match use with | .rd => rd | .wr => wr | .ex => ex
  if !ok then .trap codePermission
  else
    match stageTwo f base with
    | none => .trap codeSegment
    | some pa =>
      .page { vpage := va / pageSize, ppage := pa / pageSize, rd := rd, wr := wr, ex := ex,
              tag := e / 2 ^ 6 % 2 == 1, block := block }

/-- Where the walk reads its level 1 entry, and the entry below another one (R149). -/
def walkRoot (f : Func) (va : Nat) : Nat := f.ptbase.toNat / 2 ^ 16 % 2 ^ 36 * 2 ^ 16 + 8 * (va / 2 ^ 40 % 4096)
def walkNext (e shift va : Nat) : Nat := entAddr e + 8 * (va / 2 ^ shift % 4096)

/-- A table walk (R149, R150) on entries that `get` reads: an entry in migration, at any level, is reported
before anything else it says (R155). (DEDUCED, log 25) -/
def walkBy (get : Nat → Option Nat) (f : Func) (va : Nat) (use : PageUse) : Xlat :=
  match get (walkRoot f va) with
  | none => .trap codeSegment
  | some e1 =>
    if entMig e1 then .mig
    else if !(entV e1 && entT e1 && entRes0 e1) then .trap codeNotPresent
    else
      match get (walkNext e1 28 va) with
      | none => .trap codeSegment
      | some e2 =>
        if entMig e2 then .mig
        else if !(entV e2 && entRes0 e2) then .trap codeNotPresent
        else if !entT e2 then
          if entAddr e2 % 2 ^ 28 != 0 then .trap codeNotPresent
          else walkEnd f va e2 (entAddr e2 + va % 2 ^ 28 / pageSize * pageSize) true use
        else
          match get (walkNext e2 16 va) with
          | none => .trap codeSegment
          | some e3 =>
            if entMig e3 then .mig
            else if !(entV e3 && entT e3 && entRes0 e3) then .trap codeNotPresent
            else walkEnd f va e3 (entAddr e3) false use

/-- A walk of the tables as they stand in main memory. -/
def State.walk (s : State) (f : Func) (va : Nat) (use : PageUse) : Xlat := walkBy (s.tableEntry f) f va use

/-- The intermediate addresses of the entries that a walk reads (R149). -/
def walkReads (get : Nat → Option Nat) (f : Func) (va : Nat) : List Nat :=
  walkRoot f va ::
    match get (walkRoot f va) with
    | none => []
    | some e1 =>
      if entMig e1 || !(entV e1 && entT e1 && entRes0 e1) then []
      else walkNext e1 28 va ::
        match get (walkNext e1 28 va) with
        | none => []
        | some e2 =>
          if !entMig e2 && entV e2 && entT e2 && entRes0 e2 then [walkNext e2 16 va] else []

/-- Whether a page permits an access. -/
def LastPage.permits (p : LastPage) (use : PageUse) : Bool :=
  match use with | .rd => p.rd | .wr => p.wr | .ex => p.ex

/-- The lane whose last-page register a translation uses (R152). -/
structure LaneName where
  team : Nat
  group : Nat
  lane : Nat
  deriving DecidableEq, Repr

/-- Whether one of the copies of translations is still there, by kind and key. (DESIGN CHOICE, log 14) -/
def State.keeps (s : State) (kind key : Nat) : Bool := Config.keepCached (4 * (s.tick * 2 ^ 52 + key) + kind)

/-- The translation in a lane's last-page register (R152). -/
def State.lastPage (s : State) (page : Nat) (ln : Option LaneName) : Option LastPage :=
  ln.bind fun x => (tfind (s.group x.team x.group).lastPages x.lane).filter fun p => p.vpage == page

/-- The translation in a core's TLB (R152). -/
def State.tlbPage (s : State) (core ctx page : Nat) : Option LastPage :=
  (s.tlb.find? fun t => t.core == core && t.ctx == ctx && t.page == page).map (·.map)

/-- Sets a lane's last-page register (R152). -/
def State.setLastPage (s : State) (ln : Option LaneName) (p : LastPage) : State :=
  match ln with
  | none => s
  | some x => s.modGroup x.team x.group fun g => { g with lastPages := tins g.lastPages x.lane p }

/-- Room in the TLB of a core, which holds 256 entries (R152). (DESIGN CHOICE, log 14) -/
def makeRoom (core victim : Nat) (l : List TlbLine) : List TlbLine :=
  let mine := l.filter fun t => t.core == core
  if mine.length < 256 then l
  else match mine[victim % mine.length]? with
    | some v => l.erase v
    | none => l

/-- Records a translation in the core TLB and the lane's last-page register (R152). (DESIGN CHOICE, log 14) -/
def State.cachePage (s : State) (core ctx : Nat) (ln : Option LaneName) (p : LastPage) : State :=
  let others := s.tlb.filter fun t => !(t.core == core && t.ctx == ctx && t.page == p.vpage)
  ({ s with tlb := { core := core, ctx := ctx, page := p.vpage, map := p } ::
      makeRoom core (Config.tlbVictim s.tick) others }).setLastPage ln p

/-- The entry that the walker keeps of an address and uses (R153). (DESIGN CHOICE, log 14) -/
def State.keptEntry (s : State) (ctx ia : Nat) : Option Nat :=
  ((s.walks.find? fun x => x.ctx == ctx && x.ia == ia).filter fun _ => s.keeps 1 ia).map (·.entry)

/-- An entry as the walker reads it for a translation: a copy that it keeps, or the table (R153). -/
def State.walkEntry (s : State) (ctx ia : Nat) : Option Nat :=
  (s.keptEntry ctx ia).orElse fun _ => s.tableEntry (s.ctxFunc ctx) ia

/-- The walker keeps the valid entries that it reads (R153). (DESIGN CHOICE, log 14) -/
def State.keepEntries (s : State) (ctx : Nat) (ias : List Nat) : State :=
  let read := ias.filterMap fun ia =>
    ((s.walkEntry ctx ia).filter fun e => entV e && !entMig e).map fun e =>
      ({ ctx := ctx, ia := ia, entry := e } : WalkLine)
  { s with walks := read ++ s.walks.filter fun x => !(x.ctx == ctx && ias.contains x.ia) }

/-- The physical addresses of the table entries that a walk reads from main memory (R149, R371). -/
def State.tableReads (s : State) (ctx va : Nat) : List Nat :=
  ((walkReads (s.walkEntry ctx) (s.ctxFunc ctx) va).filter fun ia => (s.keptEntry ctx ia).isNone).filterMap
    (stageTwo (s.ctxFunc ctx))

/-- A walk for a translation, and what it leaves cached. -/
def State.walkCached (s : State) (core ctx va : Nat) (use : PageUse) (ln : Option LaneName) : Xlat × State :=
  let f := s.ctxFunc ctx
  let get := s.walkEntry ctx
  let r := walkBy get f va use
  let s := (s.keepEntries ctx (walkReads get f va)).noteReads ctx (s.tableReads ctx va)
  match r with
  | .page p => (r, s.cachePage core ctx ln p)
  | _ => (r, s)

/-- Translation of one page (R149-R153): the last-page register, the core TLB, then a walk. A copy that is
cached is used, old permissions included, or has been dropped; which is open (log 14). -/
def State.translate (s : State) (core ctx va : Nat) (use : PageUse) (ln : Option LaneName) : Xlat × State :=
  let page := va / pageSize
  match (s.lastPage page ln).filter fun p => p.permits use && s.keeps 2 page with
  | some p => (.page p, s)
  | none =>
    match (s.tlbPage core ctx page).filter fun _ => s.keeps 3 page with
    | some p => if p.permits use then (.page p, s.setLastPage ln p) else (.trap codePermission, s)
    | none => s.walkCached core ctx va use ln

/-- The sweep of a context's TLB entries that `gone` names, of the walker's entries and of the last-page
registers (R153, R351). (DEDUCED, log 42) -/
def State.sweepBy (s : State) (ctx : Nat) (gone : TlbLine → Bool) : State :=
  { s with
    tlb := s.tlb.filter fun t => !(t.ctx == ctx && gone t)
    walks := s.walks.filter fun x => x.ctx != ctx
    teams := s.teams.map fun t =>
      if t.ctx == ctx then { t with groups := t.groups.map fun g => { g with lastPages := [] } } else t }

/-- Sweep of every translation of a context (R153). -/
def State.sweep (s : State) (ctx : Nat) : State := s.sweepBy ctx fun _ => true

/-- Sweep of the page or block that holds an address (R351). (DEDUCED, log 42) -/
def State.sweepPage (s : State) (ctx va : Nat) : State :=
  s.sweepBy ctx fun t =>
    t.page == va % 2 ^ 52 / pageSize || (t.map.block && t.page / 4096 == va % 2 ^ 52 / 2 ^ 28)

/-- Writes bytes at a virtual address at system scope, page by page under the tables alone (R265,
R299, R335); none when a byte fails translation. (DEDUCED, log 25) -/
def State.vWrite (s : State) (ctx va : Nat) (bs : List Byte) : Option State :=
  match bs with
  | [] => some s
  | b :: r =>
    match s.walk (s.ctxFunc ctx) va .wr with
    | .page p => State.vWrite (s.hbmPut (p.ppage * pageSize + va % pageSize) b) ctx (va + 1) r
    | _ => none

/-- Reads a byte at a virtual address under the tables. -/
def State.vByte (s : State) (ctx va : Nat) : Option Byte :=
  match s.walk (s.ctxFunc ctx) va .rd with
  | .page p => some (s.hbmByte (p.ppage * pageSize + va % pageSize))
  | _ => none

/-- Reads bytes at a virtual address; none when one fails translation. -/
def State.vRead (s : State) (ctx va n : Nat) : Option (List Byte) :=
  (List.range n).mapM fun i => s.vByte ctx (va + i)

/-! ### Trace records (R334, R335) -/

/-- A trace event: type and the `%tracectl` bit that enables it. -/
structure TraceRec where
  type : Nat
  bit : Nat
  group : Nat
  barrier : Nat
  code : Nat
  phase : Nat
  pc : Nat
  grpslot : Nat
  deriving DecidableEq, Repr

/-- Writes a trace record of a team when its kind is enabled: a record whose page fails translation is
dropped and COUNT still advances (R335). (DESIGN CHOICE, log 26) -/
def State.trace (s : State) (t : Team) (r : TraceRec) : State :=
  let f := s.ctxFunc t.ctx
  let size := f.tracebuf.toNat / 2 ^ 52
  if f.tracectl.getLsbD 0 && f.tracectl.getLsbD r.bit && size != 0 then
    let bytes := leBytes 1 r.type ++ leBytes 1 r.group ++ leBytes 1 r.barrier ++ leBytes 1 r.code ++
      leBytes 4 (s.core t.core).cycles ++ leBytes 2 t.x ++ leBytes 2 t.y ++ leBytes 2 t.z ++
      leBytes 2 t.core ++ leBytes 4 r.phase ++ leBytes 4 r.pc ++ leBytes 4 r.grpslot ++
      leBytes 2 t.ctx ++ leBytes 2 0
    let va := f.tracebuf.toNat / 2 ^ 16 % 2 ^ 36 * 2 ^ 16 + f.tracepos.toNat % (size * 2048) * 32
    let s := (s.vWrite t.ctx va bytes).getD s
    s.modCtx t.ctx fun f => { f with tracepos := f.tracepos + 1 }
  else s

/-- `%grpslot` of a group (R14). -/
def Group.grpslot (g : Group) : Word := BitVec.ofNat 32 (g.gen * 64 + g.slot)

/-! ### The fault queue (R310, R312, R382) -/

/-- Bytes of a fault record (R312). -/
def FaultRec.bytes (r : FaultRec) : List Byte :=
  leBytes 1 r.code ++ leBytes 1 r.lane ++ leBytes 2 r.flags.toNat ++ leBytes 4 r.pc.toNat ++
    leBytes 8 r.addr.toNat ++ leBytes 4 r.grpslot.toNat ++ leBytes 2 r.x ++ leBytes 2 r.y ++
    leBytes 2 r.z ++ leBytes 1 r.group ++ leBytes 5 0

/-- FQSIZE is a power of two from 64 to 65,536 (R310, R382). -/
def Func.queueOk (f : Func) : Bool :=
  (List.range 11).any fun k => f.fqsize.toNat == 64 * 2 ^ k

/-- Writes a fault record to a function's ring (R382): written at FQTAIL, or dropped with FQLOST when
the ring is full; none when it is not set up. The answer says whether the record was written. (DEDUCED, log 55) -/
def State.faultQueue (s : State) (fn : Nat) (r : FaultRec) : State × Bool :=
  let f := s.func fn
  if !f.queueOk then (s, false)
  else if f.fqtail - f.fqhead == f.fqsize then
    (s.modFunc fn fun f => { f with fqlost := if f.fqlost == 0xFFFFFFFF then f.fqlost else f.fqlost + 1 },
      false)
  else
    let a := f.fqbase.toNat + 32 * (f.fqtail.toNat % f.fqsize.toNat)
    let s := { s with hostMem := s.hostMem.writeN a r.bytes }
    (s.modFunc fn fun f => { f with fqtail := f.fqtail + 1, msix := f.msix + 1 }, true)

/-- A fault record with a notification of the host (R307): MSI-X vector 0 is signalled for it besides the
record (R382). (DEDUCED, log 55) -/
def State.faultNotify (s : State) (fn : Nat) (r : FaultRec) : State :=
  (s.faultQueue fn r).1.modFunc fn fun f => { f with msix := f.msix + 1 }

/-- Flags of a fault record (R312). -/
def flagPrecise : BitVec 16 := 1
def flagExited : BitVec 16 := 2
def flagNested : BitVec 16 := 4
def flagDiverted : BitVec 16 := 8
def flagService : BitVec 16 := 16

/-- A fault record of a lane of a group. -/
def mkFault (t : Team) (g : Group) (code lane : Nat) (flags : BitVec 16) (pc : Word) (addr : DWord) :
    FaultRec :=
  { code := code, lane := lane, flags := flags, pc := pc, addr := addr, grpslot := g.grpslot, x := t.x,
    y := t.y, z := t.z, group := g.index }

end Sys2Proof.Machine
end

