-- ==== Sys2Proof/Machine/Mem.lean ====
section
/-! DEFINITION. Scratchpad: pointers and their checks (R139-R142, R157-R160), presence (R143-R144),
commit queues (R163-R168), and the packets that homes perform (R162, R169-R172, R201). -/

namespace Sys2Proof.Machine

/-! ### Trap codes (R301) -/

def codeOpcode : Nat := 0x01
def codeClause : Nat := 0x02
def codeOperand : Nat := 0x03
def codePrivilege : Nat := 0x04
def codeRange : Nat := 0x0B
def codeMisaligned : Nat := 0x0C
def codeTag : Nat := 0x0D
def codeTagAsync : Nat := 0x0E
def codeAccWindow : Nat := 0x10
def codeFirstUse : Nat := 0x11
def codeShape : Nat := 0x12
def codeBerth : Nat := 0x13
def codeBarMismatch : Nat := 0x18
def codeBarOver : Nat := 0x19
def codeWatch : Nat := 0x20
def codeDbrk : Nat := 0x21
def codeSoft : Nat := 0x22
def codeFp : Nat := 0x28
def codeFerry : Nat := 0x30
def codeChain : Nat := 0x38
def codePreempt : Nat := 0x40
def codeSliceEnd : Nat := 0x41
def codeEcc : Nat := 0x48
def codePoison : Nat := 0x49

/-- What a check of a lane answers: a value, or a trap code with its fault address. -/
abbrev Chk (α : Type) := Except (Nat × Nat) α

/-! ### Places (R139, R140) -/

/-- A place in scratchpad: an offset in the lane's spill slice or trap frame, or team memory. -/
inductive Place where
  | sk (off : Nat)
  | tm (loc : TmLoc)
  deriving DecidableEq, Repr

/-- Inserts a team by its linear index. -/
def insertTeam (t : Team) (l : List Team) : List Team :=
  match l with
  | [] => [t]
  | u :: r => if t.linear ≤ u.linear then t :: u :: r else u :: insertTeam t r

/-- The teams whose memories form a core's window for a team's peloton (R21, R140). (DEDUCED, log 83) -/
def State.window (s : State) (t : Team) (core : Nat) : List Team :=
  if t.peloton then
    (s.teams.filter fun u => t.sibling u && u.core == core).foldr
      insertTeam []
  else if core = t.core then [t] else []

/-- Rounds up to 4 KiB. -/
def round4k (n : Nat) : Nat := (n + 4095) / 4096 * 4096

/-- The size of a window: the parts, each rounded up to 4 KiB but the last. -/
def windowSize (ws : List Team) : Nat :=
  match ws with
  | [] => 0
  | [t] => t.tmSize
  | t :: r => round4k t.tmSize + windowSize r

/-- The team and offset of a window offset. (DEDUCED, log 83) -/
def windowLoc (ws : List Team) (off : Nat) : Option TmLoc :=
  match ws with
  | [] => none
  | t :: r =>
    if off < round4k t.tmSize then some { team := t.key, addr := off }
    else windowLoc r (off - round4k t.tmSize)

/-- The position of a byte that many bytes above a place; a range of a window goes on in the next
team's part (R140). -/
def State.byteLoc (s : State) (l : TmLoc) (i : Nat) : TmLoc :=
  let t := s.team l.team
  if l.addr + i < round4k t.tmSize then { l with addr := l.addr + i }
  else
    match windowLoc ((s.window t t.core).dropWhile fun u => u.key != t.key) (l.addr + i) with
    | some x => x
    | none => { l with addr := l.addr + i }

/-- The core field of a scratchpad pointer. -/
def ptrCore (p : Nat) : Nat := p / 2 ^ 21 % 128

/-- The tag of a scratchpad pointer (R139). -/
def ptrTag (p : Nat) : BitVec 4 := BitVec.ofNat 4 (p / 2 ^ 28)

/-- Fields and range of a scratchpad pointer for `len` bytes (R139, R140, R17). (DEDUCED, log 83) -/
def State.place (s : State) (t : Team) (g : Group) (sp : Space) (p len : Nat) : Option Place :=
  let off := p % 2 ^ 21
  match sp with
  | .sk =>
    let size := if g.inHandler then 256 else t.spill
    if p / 2 ^ 21 = 0 ∧ off + len ≤ size ∧ off < size then some (.sk off) else none
  | .tm =>
    if (ptrCore p = 0 ∨ ptrCore p = t.core % 128) ∧ off + len ≤ t.tmSize ∧ off < t.tmSize then
      some (.tm { team := t.key, addr := off })
    else none
  | .cl =>
    let ws := s.window t (p / 2 ^ 32 % 16 * 128 + ptrCore p)
    if p / 2 ^ 36 = 0 ∧ ptrCore p ≤ 95 ∧ off + len ≤ windowSize ws ∧ off < windowSize ws then
      (windowLoc ws off).map .tm
    else none

/-! ### Bytes, lines, granules -/

/-- The byte that many bytes above a place in team memory. -/
def State.tmByte (s : State) (l : TmLoc) (i : Nat) : Byte :=
  let x := s.byteLoc l i
  (s.team x.team).tm.read x.addr

/-- Bytes of team memory. -/
def State.tmBytes (s : State) (l : TmLoc) (n : Nat) : List Byte :=
  (List.range n).map fun i => s.tmByte l i

/-- Writes a byte of team memory. -/
def State.tmPut (s : State) (l : TmLoc) (i : Nat) (v : Byte) : State :=
  let x := s.byteLoc l i
  s.modTeam x.team fun t => { t with tm := t.tm.write x.addr v }

/-- Writes bytes of team memory, from the `i`-th byte above a place up. -/
def State.tmPuts (s : State) (l : TmLoc) (i : Nat) (bs : List Byte) : State :=
  match bs with
  | [] => s
  | b :: r => State.tmPuts (s.tmPut l i b) l (i + 1) r

/-- Where the parts of a range begin that lie in one block of `b` bytes: offsets from its start. -/
def blockStarts (b a n : Nat) : List Nat :=
  if n = 0 then [] else (List.range ((a % b + n + b - 1) / b)).map fun k => k * b - a % b

/-- The 64-byte lines of a range (R143). -/
def State.lines (s : State) (l : TmLoc) (n : Nat) : List TmLoc :=
  (blockStarts 64 l.addr n).map (s.byteLoc l)

/-- Whether the line of a place is absent (R143). (DEDUCED, log 84) -/
def State.lineAbsent (s : State) (x : TmLoc) : Bool :=
  !(tget [] (s.team x.team).absent (x.addr / 64)).isEmpty

/-- Whether every line of a range is present. -/
def State.present (s : State) (l : TmLoc) (n : Nat) : Bool :=
  (s.lines l n).all fun x => !s.lineAbsent x

/-- One more operation, by its id and the group that issued it, will write the line of a place. (DEDUCED, log 84) -/
def State.holdLine (op : Nat × Nat × Nat) (s : State) (x : TmLoc) : State :=
  s.modTeam x.team fun t =>
    { t with absent := tput [] t.absent (x.addr / 64) (op :: tget [] t.absent (x.addr / 64)) }

/-- An operation has written its bytes of the line of a place (R143). (DEDUCED, log 84) -/
def State.freeLine (op : Nat × Nat × Nat) (s : State) (x : TmLoc) : State :=
  s.modTeam x.team fun t =>
    { t with absent := tput [] t.absent (x.addr / 64) ((tget [] t.absent (x.addr / 64)).erase op) }

def State.holdLines (op : Nat × Nat × Nat) (s : State) (l : TmLoc) (n : Nat) : State :=
  foldS (State.holdLine op) s (s.lines l n)
def State.freeLines (op : Nat × Nat × Nat) (s : State) (l : TmLoc) (n : Nat) : State :=
  foldS (State.freeLine op) s (s.lines l n)

/-- The parts of a range of a window in its teams' memories (R140). (DEDUCED, log 83) -/
def partsOf (ws : List Team) (off n : Nat) : List (TmLoc × Nat) :=
  match ws with
  | [] => []
  | t :: r =>
    let room := round4k t.tmSize
    if n = 0 then []
    else if off < room then
      ({ team := t.key, addr := off }, min n (room - off)) :: partsOf r 0 (n - (room - off))
    else partsOf r (off - room) n

/-- The parts of a range from a place on. -/
def State.parts (s : State) (l : TmLoc) (n : Nat) : List (TmLoc × Nat) :=
  let t := s.team l.team
  if l.addr + n ≤ round4k t.tmSize then [(l, n)]
  else partsOf ((s.window t t.core).dropWhile fun u => u.key != t.key) l.addr n

/-- Some byte of a range from a place lies in a range of one team's memory. -/
def State.meetsAt (s : State) (l : TmLoc) (n : Nat) (team a m : Nat) : Bool :=
  (s.parts l n).any fun x => x.1.team == team && decide (x.1.addr < a + m) && decide (a < x.1.addr + x.2)

/-- The 32-byte granules of a range (R156). -/
def State.granules (s : State) (l : TmLoc) (n : Nat) : List TmLoc :=
  (blockStarts 32 l.addr n).map (s.byteLoc l)

/-- The tag of the granule of a place. -/
def State.tmTag (s : State) (x : TmLoc) : BitVec 4 := tget 0 (s.team x.team).tags (x.addr / 32)

/-- Sets the tag of the granule of a place. -/
def State.tmPutTag (s : State) (x : TmLoc) (tag : BitVec 4) : State :=
  s.modTeam x.team fun t => { t with tags := tput 0 t.tags (x.addr / 32) tag }

/-- A checked access matches the tag of every granule it touches (R157). (DEDUCED, log 18) -/
def State.tagsMatch (s : State) (tag : BitVec 4) (l : TmLoc) (n : Nat) : Bool :=
  (s.granules l n).all fun x => !(s.team x.team).tmchk || s.tmTag x == tag

/-- A matrix operation is still to read a byte of a range (R257). -/
def State.unread (s : State) (o : MmaxOp) (l : TmLoc) (n : Nat) : Bool :=
  !o.readDone && o.ranges.any fun r => s.meetsAt l n o.team r.1 r.2

/-- A range is held for a write with this name (R257): a matrix operation that was issued before it
still reads it. -/
def State.berthHeld (s : State) (id : Nat) (l : TmLoc) (n : Nat) : Bool :=
  s.mmaxs.any fun o => decide (o.id < id) && s.unread o l n

/-- An uncorrectable word in a range of team memory (R301). (DESIGN CHOICE, log 28) -/
def State.tmEcc (s : State) (l : TmLoc) (n : Nat) : Bool :=
  (s.granules l n).any fun x => s.eccTm.contains (x.team, x.addr / 32)

/-- Data of a range of team memory that the network returns poisoned (R301). (DESIGN CHOICE, log 28) -/
def State.tmPoison (s : State) (l : TmLoc) (n : Nat) : Bool :=
  (s.granules l n).any fun x => s.poisonTm.contains (x.team, x.addr / 32)

/-- An uncorrectable word in a range of a lane's slice (R301). (DESIGN CHOICE, log 28) -/
def State.skEcc (s : State) (t : Team) (g : Group) (lane off n : Nat) : Bool :=
  s.eccSk.any fun x => x.1 == t.key && x.2.1 == g.index &&
    decide (4 * x.2.2 < lane * 65536 + off + n) && decide (lane * 65536 + off < 4 * x.2.2 + 4)

/-! ### Watchpoints (R159, R160) -/

/-- A pointer or watch base as it is compared: offsets for the slice and team memory, the pointer with
its tag cleared otherwise. (DEDUCED, log 17) -/
def watchAddr (sp : WSpace) (p : Nat) : Nat :=
  match sp with
  | .sk | .tm => p % 2 ^ 21
  | .cl => p / 2 ^ 32 * 2 ^ 32 + p % 2 ^ 28
  | .hbm => p % 2 ^ 60

/-- How far above its start an access is first hit. (DEDUCED, log 17) -/
def Watch.hit (w : Watch) (sp : WSpace) (rd wr : Bool) (p n : Nat) : Option Nat :=
  let a := watchAddr sp p
  let b := watchAddr sp w.base.toNat
  let kind := match w.kind with | .r => rd | .w => wr | .rw => rd || wr
  if w.space = sp ∧ kind = true ∧ a < b + w.len ∧ b < a + n then some (b - a) else none

/-- The least offset at which some watchpoint of the lane, the team or the context hits. (DEDUCED, log 17) -/
def State.watchHit (s : State) (t : Team) (g : Group) (lane : Nat) (sp : WSpace) (rd wr : Bool)
    (p n : Nat) : Option Nat :=
  let own := g.watches.filter fun w => w.1 / 2 == lane
  ((own ++ t.watches ++ (s.ctxFunc t.ctx).watches).filterMap fun w => w.2.hit sp rd wr p n).min?

/-- The watchpoint space of a scratchpad space. (DEDUCED, log 17) -/
def watchSpace : Space → WSpace
  | .sk => .sk | .tm => .tm | .cl => .cl

/-! ### The checks of one lane (R142) -/

/-- Steps 3 and 4 of R142 for a place that a pointer names; `tag` says whether tags are compared. -/
def State.checkPlace (s : State) (t : Team) (g : Group) (lane : Nat) (sp : Space) (pl : Place) (p n : Nat)
    (tag rd wr : Bool) : Chk Place :=
  let tagOk := match pl with
    | .sk _ => true
    | .tm l => !tag || s.tagsMatch (ptrTag p) l n
  if !tagOk then .error (codeTag, p)
  else
    match s.watchHit t g lane (watchSpace sp) rd wr p n with
    | some k => .error (codeWatch, p + k)
    | none => .ok pl

/-- Steps 2 to 4 of R142 for a range of scratchpad. (DEDUCED, log 83) -/
def State.checkSteps (s : State) (t : Team) (g : Group) (lane : Nat) (sp : Space) (p n : Nat)
    (tag rd wr : Bool) : Chk Place :=
  match s.place t g sp p n with
  | none => .error (codeRange, p)
  | some pl => s.checkPlace t g lane sp pl p n tag rd wr

/-- An uncorrectable word at a place (R301). (DESIGN CHOICE, log 28) -/
def State.placeEcc (s : State) (t : Team) (g : Group) (lane : Nat) (pl : Place) (n : Nat) : Bool :=
  match pl with
  | .sk off => s.skEcc t g lane off n
  | .tm l => s.tmEcc l n

/-- Steps 2 to 4 of R142 for a range that the instruction itself reads or writes, and the errors of what it
reads (R301). (DEDUCED, log 83; DESIGN CHOICE, log 28) -/
def State.checkRange (s : State) (t : Team) (g : Group) (lane : Nat) (sp : Space) (p n : Nat)
    (tag rd wr : Bool) : Chk Place :=
  match s.checkSteps t g lane sp p n tag rd wr with
  | .error e => .error e
  | .ok pl => if rd && s.placeEcc t g lane pl n then .error (codeEcc, p) else .ok pl

/-- Poisoned data among what a load or atomic is to return (R301). (DESIGN CHOICE, log 28) -/
def State.placePoison (s : State) (pl : Place) (n : Nat) : Bool :=
  match pl with
  | .sk _ => false
  | .tm l => s.tmPoison l n

/-- The checks of an element access of width `n` that returns no data (R142). (DEDUCED, log 83) -/
def State.checkUpdate (s : State) (t : Team) (g : Group) (lane : Nat) (sp : Space) (p n : Nat)
    (rd wr : Bool) : Chk Place :=
  if p % n ≠ 0 then .error (codeMisaligned, p) else s.checkRange t g lane sp p n true rd wr

/-- The checks of an element access of width `n` (R142), and of the data it returns (R301). (DEDUCED, log 83;
DESIGN CHOICE, log 28) -/
def State.checkElem (s : State) (t : Team) (g : Group) (lane : Nat) (sp : Space) (p n : Nat)
    (rd wr : Bool) : Chk Place :=
  match s.checkUpdate t g lane sp p n rd wr with
  | .error e => .error e
  | .ok pl => if rd && s.placePoison pl n then .error (codePoison, p) else .ok pl

/-! ### Effective addresses (R194) -/

/-- Sign-extended value of a field, modulo 2^32. -/
def sext32 {w : Nat} (x : BitVec w) : Nat := (x.signExtend 32).toNat

/-- The effective address of layouts EM and EX. -/
def effAddr (g : Group) (cl bx ix : Bool) (base : BitVec 6) (a : BitVec 7) (off lane : Nat) : Nat :=
  let b := if bx then (if cl then g.rs64 base else (g.rs base).toNat) else 0
  let i := if ix then (g.rg a lane).toNat else 0
  let low := (b % 2 ^ 32 + i + off) % 2 ^ 32
  if cl then b / 2 ^ 32 * 2 ^ 32 + low else low

def eaOf (ad : Addr) (g : Group) (lane : Nat) : Nat :=
  effAddr g (ad.sp == .cl) ad.bx ad.ix ad.base ad.a (sext32 ad.off) lane
def eaOfX (ad : AddrX) (g : Group) (lane : Nat) : Nat :=
  effAddr g ad.cl ad.bx ad.ix ad.base ad.a (sext32 ad.off) lane

/-- Space of an atomic (R200). -/
def spOfX (ad : AddrX) : Space := if ad.cl then .cl else .tm

/-! ### Spill slices and trap frames (R17, R306) -/

/-- Keys of the slice and frame stores. -/
def spillKey (lane off : Nat) : Nat := lane * 65536 + off
def frameKey (lane off : Nat) : Nat := lane * 256 + off

/-- Bytes of the lane's slice, or of its trap frame in a handler. -/
def Group.skBytes (g : Group) (lane off n : Nat) : List Byte :=
  if g.inHandler then g.frame.readN (frameKey lane off) n else g.spill.readN (spillKey lane off) n

def Group.skPuts (g : Group) (lane off : Nat) (bs : List Byte) : Group :=
  if g.inHandler then { g with frame := g.frame.writeN (frameKey lane off) bs }
  else { g with spill := g.spill.writeN (spillKey lane off) bs }

/-! ### Elements and registers (R197) -/

/-- The words of one element, low word first. -/
def elemWords (t : MTy) (bs : List Byte) : List Word :=
  let v := leNat bs
  match t with
  | .i32 | .w32 | .w16 | .w8 => [BitVec.ofNat 32 v]
  | .i16 => [(BitVec.ofNat 16 v).signExtend 32]
  | .i8 => [(BitVec.ofNat 8 v).signExtend 32]
  | .i64 | .w64 => [BitVec.ofNat 32 v, BitVec.ofNat 32 (v / 2 ^ 32)]

/-- The words of consecutive elements. -/
def loadWords (t : MTy) (n : Nat) (bs : List Byte) : List Word :=
  (List.range n).flatMap fun m => elemWords t ((bs.drop (m * t.size)).take t.size)

/-- The bytes that consecutive elements store. -/
def storeBytes (t : MTy) (n : Nat) (g : Group) (b : BitVec 7) (lane : Nat) : List Byte :=
  (List.range n).flatMap fun m =>
    leBytes t.size ((g.read (.g (b.toNat + t.regs * m)) lane).toNat +
      (if t.regs = 2 then (g.read (.g (b.toNat + 2 * m + 1)) lane).toNat * 2 ^ 32 else 0))

/-- Pairs register names with words for one lane. -/
def regWrites (names : List RegName) (lane : Nat) (ws : List Word) : List RegWrite :=
  (names.zip ws).map fun x => { name := x.1, lane := lane, val := x.2 }

/-! ### Long-latency results (R91) -/

/-- Adds a pending result of the issuing group: the elements it may write (p0 discards, R13), lanes
still to return, and the values known at issue. -/
def Group.await (g : Group) (id : Nat) (names : List RegName) (lanes need : Mask) (vals : List RegWrite)
    (loads atomic acquire : Bool) : Group :=
  { g with pending := g.pending ++
      [{ id := id, seq := g.seq, need := need, vals := vals,
         live := (names.filter fun n => !decide (n = .p 0)).map fun n => (n, lanes),
         landed := false, loads := loads, atomic := atomic, acquire := acquire }] }

/-- Values return for a lane of a pending result; the lane is done once every element has its value. -/
def Group.returns (g : Group) (id lane : Nat) (ws : List RegWrite) : Group :=
  { g with pending := g.pending.map fun r =>
      if r.id = id then
        let vals := r.vals ++ ws
        let have_ := (vals.filter fun w => w.lane == lane).length
        { r with vals := vals,
                 need := if r.live.length ≤ have_ then setBit r.need lane false else r.need }
      else r }

/-- Later accesses of these lanes wait for an acquire of the group (R171). -/
def Group.acquiring (g : Group) (lanes : Mask) : Bool :=
  g.pending.any fun r => r.acquire && r.need &&& lanes != 0

/-! ### Commit queues (R163-R168) -/

/-- The youngest byte the lane has queued for a place (R164). -/
def Group.queued (g : Group) (lane : Nat) (l : TmLoc) : Option Byte :=
  g.queue.foldl (fun acc it =>
    match it with
    | .arrival _ _ => acc
    | .entry ws =>
      ws.foldl (fun acc w =>
        if w.lane = lane ∧ w.loc.team = l.team ∧ w.loc.addr ≤ l.addr ∧
            l.addr < w.loc.addr + w.bytes.length then
          (w.bytes[l.addr - w.loc.addr]?).orElse fun _ => acc
        else acc) acc) none

/-- Forwarded bytes of a load of a lane. -/
def Group.forwards (g : Group) (lane : Nat) (l : TmLoc) (n : Nat) : List (Option Byte) :=
  (List.range n).map fun i => g.queued lane { l with addr := l.addr + i }

/-- Entries in a queue (R165). -/
def Group.entries (g : Group) : Nat :=
  (g.queue.filter fun it => match it with | .entry _ => true | .arrival _ _ => false).length

/-- A fresh name. (DESIGN CHOICE, log 81) -/
def State.next (s : State) : State := { s with fresh := s.fresh + 1 }

/-- Sends a packet of a group towards its home; `before` is the fresh name at the issue of its word. -/
def State.send (s : State) (before : Nat) (t : Team) (g : Nat) (loc : TmLoc) (op : PacketOp) (rel : Option Scope)
    (phase : Option Nat) (sample : Option SampleInfo) : State :=
  let rel := rel.map fun sc => (sc, before)
  { s.next with net := s.net ++
      [{ id := s.fresh, core := t.core, team := t.key, group := g, loc := loc, op := op, rel := rel,
         phase := phase, held := false, released := false, sample := sample }] }

/-- The lane writes of a queue in program order, lanes ascending within an entry. -/
def queueWrites (q : List QItem) : List LaneWrite :=
  q.flatMap fun it => match it with | .entry ws => ws | .arrival _ _ => []

/-- Sends lane writes of a group. -/
def State.sendWrites (s : State) (t : Team) (g : Nat) (ws : List LaneWrite) (rel : Option Scope)
    (phase : Option Nat) : State :=
  foldS (fun s' (w : LaneWrite) => s'.send s.fresh t g w.loc (.write w.bytes) rel phase none) s ws

/-- Drains a group's queue in program order (R167, R168). -/
def State.drain (s : State) (k g : Nat) : State :=
  let t := s.team k
  let s' := s.sendWrites t g (queueWrites (t.group g).queue) none none
  s'.modGroup k g fun x => { x with queue := [], perf := { x.perf with drains := x.perf.drains + 1 } }

/-! ### Packets -/

/-- Bytes a packet touches. -/
def Packet.len (p : Packet) : Nat :=
  match p.op with
  | .read _ _ _ t n _ _ => t.size * n
  | .write bs => bs.length
  | .atomic _ _ _ t _ _ _ _ => if t.wide then 8 else 4
  | .add64 _ => 8
  | .put64 _ => 8
  | .tagSet _ => 32
  | .test _ _ _ _ => 8

/-- A packet that sets a tag: a granule's tag is an element of its own (R204). -/
def Packet.isTag (p : Packet) : Bool :=
  match p.op with | .tagSet _ => true | _ => false

/-- Two packets of which some element is the same (R162). -/
def Packet.meets (p q : Packet) : Bool :=
  p.isTag == q.isTag && p.loc.team == q.loc.team &&
    decide (p.loc.addr / 4 ≤ (q.loc.addr + q.len - 1) / 4) &&
    decide (q.loc.addr / 4 ≤ (p.loc.addr + p.len - 1) / 4)

/-- A packet touches a 4-byte element of a range. -/
def State.touches (s : State) (l : TmLoc) (n : Nat) (p : Packet) : Bool :=
  (s.parts l n).any fun x => p.loc.team == x.1.team &&
    decide (p.loc.addr / 4 ≤ (x.1.addr + x.2 - 1) / 4) && decide (x.1.addr / 4 ≤ (p.loc.addr + p.len - 1) / 4)

/-- The core of a packet's home. -/
def State.homeCore (s : State) (p : Packet) : Nat := (s.team p.loc.team).core

/-- The banks of the 4-byte elements that a range touches (R162). (DESIGN CHOICE, log 93) -/
def banks (l : TmLoc) (n : Nat) : List Nat :=
  (List.range ((l.addr + n - 1) / 4 + 1 - l.addr / 4)).map fun i => Config.homeBank l.team (l.addr / 4 + i)

/-- Two ranges of one core's scratchpad have an element in one bank (R162). (DESIGN CHOICE, log 93) -/
def State.sameBank (s : State) (a : TmLoc) (n : Nat) (b : TmLoc) (m : Nat) : Bool :=
  (s.team a.team).core == (s.team b.team).core && (banks a n).any fun x => (banks b m).contains x

/-- The acquire waits at its home core for earlier releases (R172). -/
def State.promoted (s : State) (p : Packet) : Bool :=
  s.homeCore p != p.core &&
    (match p.op with
     | .read _ _ _ _ _ _ pr => pr
     | .atomic _ _ _ _ _ _ _ pr => pr
     | _ => false)

/-- A release at this scope waits for this earlier packet of its group (R169). (DEDUCED, log 19) -/
def State.coveredBy (s : State) (sc : Scope) (p : Packet) : Bool :=
  match sc with
  | .grp | .team => s.homeCore p == p.core
  | .clus | .dev | .sys => true

/-- A release by a group waits for a packet on its way: an earlier one of the group, or one that a narrower
release of the team has covered, at a scope that reaches other cores (R169, R179). (DEDUCED, log 19; DESIGN CHOICE, log 94) -/
def State.releaseAwaits (s : State) (k g : Nat) (sc : Scope) (q : Packet) : Bool :=
  q.team == k && ((q.group == g && s.coveredBy sc q) ||
    (q.released && match sc with | .grp => false | .team => false | _ => true))

/-- The point of R169 for a group: no packet from before `id` that its release awaits is on its way. (DEDUCED, log 19) -/
def State.releasePoint (s : State) (k g : Nat) (sc : Scope) (id : Nat) : Bool :=
  s.net.all fun q => !(decide (q.id < id) && s.releaseAwaits k g sc q)

/-- The line that a packet waits for at its home is absent (R144). -/
def State.lineGone (s : State) (p : Packet) : Bool := !s.present p.loc p.len

/-- A packet comes after an earlier one of its core to the same element (R162); a test of a completion word does not
wait behind what an absent line holds (R214). (DEDUCED, log 19) -/
def State.elementOrder (s : State) (q p : Packet) : Bool :=
  q.core == p.core && q.meets p && (match p.op with | .test _ _ _ _ => !(q.held && s.lineGone q) | _ => true)

/-- The packets that something else than the route keeps from being performed: their home has set them aside, their
release keeps them on the core (R170, R172), or they come after such a packet to its element. (DEDUCED, log 93) -/
def State.keptPackets (s : State) : List Packet :=
  s.net.foldl (fun acc p =>
    if p.held || s.promoted p || p.rel.isSome || acc.any (fun q => s.elementOrder q p) then acc ++ [p] else acc) []

/-- A packet that reaches its home in the order in which it left its core (R162). -/
def State.enRoute (s : State) (q : Packet) : Bool := !s.keptPackets.contains q

/-- A packet waits for an earlier one: to one element in the order in which they left their core, and likewise
to one bank (R162); and a release's own write leaves once R169's point is reached (R170). (DEDUCED, log 19, 93) -/
def State.behind (s : State) (p q : Packet) : Bool :=
  s.elementOrder q p ||
    (q.core == p.core && !q.meets p && s.enRoute q && s.sameBank q.loc q.len p.loc p.len) ||
    (match p.rel with
     | some (sc, id) => decide (q.id < id) && s.releaseAwaits p.team p.group sc q
     | none => false)

/-- Whether the packet at a position may be performed: nothing before it keeps it waiting. -/
def State.mayPerform (s : State) (i : Nat) : Bool :=
  match s.net[i]? with
  | none => false
  | some p => (s.net.take i).all fun q => !s.behind p q

/-- An operation that its group has issued after a packet of the same group: the packet comes first (R174). -/
def Packet.forked (p : Packet) (op : Nat × Nat × Nat) : Bool := decide (p.id < op.1) && op.2 == (p.team, p.group)

/-! ### What engine operations are still to write (R143, R144, R257) -/

/-- Bytes of the destination range of a copy-family operation, and of its source range. -/
def CopyOp.dstLen (o : CopyOp) : Nat :=
  match o.kind with
  | .gather e _ _ => o.count * e
  | _ => o.count
def CopyOp.srcLen (o : CopyOp) : Nat :=
  match o.kind with
  | .scatter e _ _ => o.count * e
  | .gather _ w _ => w
  | .copytag _ => 0
  | _ => o.count

/-- An operation as the lines that it has made absent name it (R143): what its group had sent before its issue comes
before its bytes (R174); a slip row has the name of its ferry. (DEDUCED, log 84) -/
def CopyOp.op (o : CopyOp) : Nat × Nat × Nat := (o.id, o.team, o.group)
def Landing.op (x : Landing) : Nat × Nat × Nat := (x.id, x.team, x.group)
def RowWrite.op (w : RowWrite) : Nat × Nat × Nat := (w.ferry, w.team, w.group)

/-- The place of row i of a tile of a landing entry. -/
def Landing.rowLoc (x : Landing) (p : Word) (i : Nat) : TmLoc :=
  { team := x.team, addr := p.toNat % 2 ^ 21 + i * x.par.rowLen }

/-- An operation that is still to write lines: the fresh name at which it began to hold them, its name there, its
core, and what it reads and writes. -/
structure Filler where
  id : Nat
  op : Nat × Nat × Nat
  core : Nat
  reads : List (TmLoc × Nat)
  writes : List (TmLoc × Nat)

/-- A range of team memory of a side. -/
def Side.tmRange (x : Side) (n : Nat) : List (TmLoc × Nat) := match x with | .tm l => [(l, n)] | .hbm _ _ _ => []

/-- The operations that are still to write lines: copies, landing entries, rows at their slips. (DEDUCED, log 84) -/
def State.fillers (s : State) : List Filler :=
  (s.copies.map fun o =>
    let idx := match o.kind with
      | .gather _ _ x => x.tmRange (4 * o.count)
      | .scatter _ _ x => x.tmRange (4 * o.count)
      | _ => []
    { id := o.id, op := o.op, core := o.core, reads := o.src.tmRange o.srcLen ++ idx,
      writes := match o.kind with | .copytag _ => [] | _ => o.dst.tmRange o.dstLen }) ++
  (s.cores.flatMap fun c => c.2.landing.map fun e =>
    { id := e.2.id, op := e.2.op, core := c.1,
      reads := [(e.2.rowLoc e.2.par.src 0, e.2.par.rows * e.2.par.rowLen)],
      writes := ((List.range e.2.par.rows).filter fun i => !e.2.written.getD i true).map fun i =>
        (e.2.rowLoc e.2.par.out i, e.2.par.rowLen) }) ++
  s.rowWrites.map fun w =>
    { id := w.id, op := w.op, core := w.core, reads := [], writes := [(w.loc, w.bytes.length)] }

/-- An operation is still to write a line of a range. -/
def State.fills (s : State) (f : Filler) (l : TmLoc) (n : Nat) : Bool :=
  (s.lines l n).any fun x => (tget [] (s.team x.team).absent (x.addr / 64)).contains f.op &&
    f.writes.any fun w => s.meetsAt w.1 w.2 x.team (x.addr / 64 * 64) 64

/-- The operations from before a matrix operation that still fill a line of its ranges: it waits for them (R257). -/
def State.olderFillers (s : State) (o : MmaxOp) : List Filler :=
  s.fillers.filter fun f => decide (f.id < o.id) &&
    o.ranges.any fun r => s.fills f { team := o.team, addr := r.1 } r.2

/-- The packet writes bytes. -/
def Packet.writes (p : Packet) : Bool :=
  match p.op with
  | .write _ => true | .atomic _ _ _ _ _ _ _ _ => true | .add64 _ => true | .put64 _ => true | _ => false

/-- The packets that must be performed before a matrix operation reads its ranges (R257): the drain of its group, what
an operation that still fills the ranges waits for, and the earlier packets of their core to their elements (R162,
R174). (DEDUCED, log 36) -/
def State.drainOf (s : State) (o : MmaxOp) : List Packet :=
  let first (p : Packet) : Bool :=
    (p.team == o.team && p.group == o.group && p.writes && s.unread o p.loc p.len) ||
      (s.olderFillers o).any fun f => p.core == f.core && decide (p.id < f.id) &&
        (f.reads.any (fun r => s.touches r.1 r.2 p) || (p.forked f.op && f.writes.any fun w => s.touches w.1 w.2 p))
  s.net.foldr (fun p acc =>
    if decide (p.id < o.id) && !p.isTag && (first p || acc.any fun q => s.elementOrder p q) then p :: acc else acc) []

/-- A packet comes before the read of a matrix operation. -/
def State.drained (s : State) (o : MmaxOp) (p : Packet) : Bool := !o.readDone && (s.drainOf o).contains p

/-- A matrix operation holds a write to a range (R257): every one but those that must come before its read, or before
that of an older operation. (DEDUCED, log 36, 84) -/
def State.packetHeld (s : State) (p : Packet) : Bool :=
  s.mmaxs.any fun o => s.unread o p.loc p.len && !s.mmaxs.any fun x => decide (x.id ≤ o.id) && s.drained x p

/-- A line of a packet's range is absent for it (R144): an operation is still to write it, but one that the
packet's own group has issued after it, whose bytes come after the packet (R174), and one that a matrix operation
holds which the packet must come before (R257). (DEDUCED, log 84) -/
def State.lineHeld (s : State) (p : Packet) : Bool :=
  let first := s.mmaxs.filter fun o => s.drained o p
  (s.lines p.loc p.len).any fun x =>
    (tget [] (s.team x.team).absent (x.addr / 64)).any fun op => !p.forked op &&
      first.all fun o => s.fillers.any fun f => f.op == op && decide (f.id < o.id)

/-- The record area of a sampled access is a range that a matrix operation reads (R257, R333). (DEDUCED, log 84) -/
def State.sampleHeld (s : State) (p : Packet) : Bool :=
  match p.sample with
  | none => false
  | some x => s.mmaxs.any fun o => s.unread o x.loc 80 && !s.drained o p

/-- A packet that its home holds: an absent line, or a range that a matrix operation reads (R144,
R257). (DEDUCED, log 84) -/
def State.mustHold (s : State) (p : Packet) : Bool :=
  match p.op with
  | .tagSet _ => false
  | .test _ _ _ _ => false
  | .read _ _ _ _ _ _ _ => s.lineHeld p || s.sampleHeld p
  | _ => s.lineHeld p || s.packetHeld p || s.sampleHeld p

/-- New value of an atomic (R200, R201): the operation, or the compare and swap. -/
def atomicNew (t : ATy) (op : Option AOp) (old b c : Nat) : Nat :=
  let w := if t.wide then 64 else 32
  let signed := t == .i32 || t == .i64
  let lt (x y : Nat) : Bool :=
    if signed then decide ((BitVec.ofNat w x).toInt < (BitVec.ofNat w y).toInt) else decide (x < y)
  let fnan (x : Nat) : Nat := if (unpackF .f32 x).isNan then canonNan .f32 else x
  match op with
  | none => if old = b then c else old
  | some .add => if t = .f32 then fnan (fpAdd .f32 .rne old b).1 else (old + b) % 2 ^ w
  | some .min => if t = .f32 then fnan (fpMinMax false old b).1 else if lt b old then b else old
  | some .max => if t = .f32 then fnan (fpMinMax true old b).1 else if lt old b then b else old
  | some .and => old &&& b
  | some .or => old ||| b
  | some .xor => old ^^^ b
  | some .exch => b
  | some .incw => if b ≤ old then 0 else old + 1

/-- The record of a sampled request (R331, R332): the response crosses the routers of the way out in the other
order; `hbm` is the channel of one to main memory, which a core
reaches in its own stack without a router (R146). (DESIGN CHOICE, log 60) -/
def State.sampleBytes (s : State) (x : SampleInfo) (fwd : Bool) (core home : Nat) (hbm : Option Nat) :
    List Byte :=
  let hop (i kind clock block : Nat) : List Byte :=
    leBytes 1 kind ++ leBytes 1 clock ++ leBytes 2 block ++
      leBytes 4 (Config.hopTime (s.tick * 16 + i) % 2 ^ 32)
  let n := Config.hopCount s.tick % 3 + 1
  let router (j : Nat) : Nat := Config.hopRouter (s.tick * 16 + j) % 50
  let out : List (List Byte) := (List.range n).map fun j => hop (1 + j) 1 1 (router j)
  let back : List (List Byte) := ((List.range n).map fun j => hop (8 - j) 1 1 (router j)).reverse
  let hops :=
    if fwd then []
    else match hbm with
      | some ch =>
        if ch / 32 = core / 128 then [hop 0 0 0 core, hop 5 3 2 ch]
        else [hop 0 0 0 core] ++ out ++ [hop 5 3 2 ch] ++ back
      | none =>
        if core = home then [hop 0 2 0 home]
        else [hop 0 0 0 core] ++ out ++ [hop 5 2 0 home] ++ back
  let bs := leBytes 1 (if fwd then 2 else 1) ++ leBytes 1 hops.length ++ leBytes 1 x.opcode ++
    leBytes 1 x.lane ++ leBytes 4 x.pc.toNat ++ leBytes 8 x.addr.toNat ++ hops.flatten
  bs ++ List.replicate (80 - bs.length) 0

/-- Writes the sample record of a performed packet. (DESIGN CHOICE, log 60) -/
def State.writeSample (s : State) (p : Packet) (fwd : Bool) : State :=
  match p.sample with
  | none => s
  | some x => s.tmPuts x.loc 0 (s.sampleBytes x fwd p.core (s.homeCore p) none)

/-- Performs a packet at its home. -/
def State.applyPacket (s : State) (p : Packet) : State :=
  match p.op with
  | .read res lane regs t n fwd _ =>
    let bs := (s.tmBytes p.loc (t.size * n)).mapIdx fun i b => (fwd.getD i none).getD b
    let s := s.writeSample p (fwd.all Option.isSome)
    s.modGroup p.team p.group fun g => g.returns res lane (regWrites regs lane (loadWords t n bs))
  | .write bs => s.tmPuts p.loc 0 bs
  | .atomic res lane regs t op b c _ =>
    let n := if t.wide then 8 else 4
    let old := leNat (s.tmBytes p.loc n)
    let s := (s.tmPuts p.loc 0 (leBytes n (atomicNew t op old b.toNat c.toNat))).writeSample p false
    match res with
    | none => s
    | some r =>
      s.modGroup p.team p.group fun g =>
        g.returns r lane (regWrites regs lane [BitVec.ofNat 32 old, BitVec.ofNat 32 (old / 2 ^ 32)])
  | .add64 v => s.tmPuts p.loc 0 (leBytes 8 (leNat (s.tmBytes p.loc 8) + v.toNat))
  | .put64 v => s.tmPuts p.loc 0 (leBytes 8 v.toNat)
  | .tagSet tag => s.tmPutTag p.loc tag
  | .test res lanes reg v =>
    let ok := s.present p.loc 8 && decide (v.toNat ≤ leNat (s.tmBytes p.loc 8))
    s.modGroup p.team p.group fun g => (lanesOf lanes).foldl
      (fun g l => g.returns res l [{ name := reg, lane := l, val := if ok then 1 else 0 }]) g

/-- Packets of a group on their way to other cores are covered by a group- or team-scope release (R172), or by
an arrival (R173). -/
def State.markReleased (s : State) (k g : Nat) (before : Nat) : State :=
  { s with net := s.net.mapIdx fun i q =>
      if i < before ∧ q.team = k ∧ q.group = g ∧ s.homeCore q ≠ q.core then { q with released := true } else q }

/-- Performs the packet at a position and takes it off the net. -/
def State.performAt (s : State) (i : Nat) : State :=
  match s.net[i]? with
  | none => s
  | some p =>
    let s := match p.rel with
      | some (.grp, _) | some (.team, _) => s.markReleased p.team p.group i
      | _ => s
    ({ s with net := s.net.eraseIdx i }).applyPacket p

/-- Packets of a core from before `id` on their way to some element of a range: a read at the home waits for
them (R162, R174). -/
def State.inFlight (s : State) (core : Nat) (l : TmLoc) (n id : Nat) : Bool :=
  n != 0 && s.net.any fun p => decide (p.id < id) && p.core == core && !p.isTag && s.touches l n p

/-- A packet that its home holds for an operation of another group which was issued after it left (R144): it
does not keep the engines of its own core from filling the line. (DEDUCED, log 84) -/
def State.overtaken (s : State) (p : Packet) : Bool :=
  p.held && (s.lines p.loc p.len).any fun x =>
    (tget [] (s.team x.team).absent (x.addr / 64)).any fun op => decide (p.id < op.1) && !p.forked op

/-- An engine's write to a range waits for packets of its core from before `id` (R174). (DEDUCED, log 84) -/
def State.writeAwaits (s : State) (core : Nat) (l : TmLoc) (n id : Nat) : Bool :=
  n != 0 && s.net.any fun p => decide (p.id < id) && p.core == core && !p.isTag && s.touches l n p && !s.overtaken p

/-- A packet of a core from before `id` that has not reached the bank of some element of a range (R162).
(DEDUCED, log 24) -/
def State.ahead (s : State) (core : Nat) (l : TmLoc) (n id : Nat) : Bool :=
  n != 0 && s.net.any fun p => decide (p.id < id) && p.core == core && s.enRoute p &&
    (s.parts l n).any fun x => s.sameBank p.loc p.len x.1 x.2

/-- An engine's access to a range comes after what had left its core before `id` for the banks of the range
(R162, R174): those packets have reached their homes, and those for its elements have been performed, but for
a write what its home holds for a later operation. (DEDUCED, log 24, 84) -/
def State.routeClear (s : State) (core : Nat) (l : TmLoc) (n id : Nat) (write : Bool) : Bool :=
  !s.ahead core l n id && !(if write then s.writeAwaits core l n id else s.inFlight core l n id)

/-- An engine may read a range: its lines are present, in the issuing core's own route order (R174). -/
def State.engineReads (s : State) (core : Nat) (l : TmLoc) (n id : Nat) : Bool :=
  n == 0 || (s.present l n && s.routeClear core l n id false)

/-- A byte of team memory as an engine reads it, and the code of an error: one that cannot be corrected
delivers 0 (R212), a poisoned one some value (R301). (DESIGN CHOICE, log 28) -/
def State.engineByte (s : State) (l : TmLoc) (i : Nat) : Byte × Option Nat :=
  let y := s.byteLoc l i
  if s.eccTm.contains (y.team, y.addr / 32) then (0, some codeEcc)
  else if s.poisonTm.contains (y.team, y.addr / 32) then (Config.poisonedByte s.tick y.addr, some codePoison)
  else (s.tmByte l i, none)

/-- A range as an engine reads it. -/
def State.engineBytes (s : State) (l : TmLoc) (n : Nat) : List Byte := (List.range n).map fun i => (s.engineByte l i).1

/-- The codes and addresses of the granules of a range that an engine cannot read well (R301). -/
def State.engineErrors (s : State) (l : TmLoc) (n : Nat) : List (Nat × Nat) :=
  (blockStarts 32 l.addr n).filterMap fun o => (s.engineByte l o).2.map fun c => (c, l.addr + o)

/-- Records for errors of an engine's reads, each as captured at the operation's issue (R212, R301). -/
def State.raiseErrors (s : State) (k ctx : Nat) (r : FaultRec) (errs : List (Nat × Nat)) : State :=
  { s with faults := s.faults ++ errs.map fun e =>
      (k, ctx, { r with code := e.1, addr := BitVec.ofNat 64 e.2 }) }

/-- Later accesses of these lanes of a group wait: an acquire has not returned (R171), or a tag the
group set has not been written (R204). -/
def State.accessHeld (s : State) (k g : Nat) (lanes : Mask) : Bool :=
  (s.group k g).acquiring lanes || s.net.any fun p => p.isTag && p.team == k && p.group == g

end Sys2Proof.Machine
end

