-- ==== Sys2Proof/Machine/Barriers.lean ====
section
/-! DEFINITION. Named barriers: bookings, the commit of a phase and its completion (R36-R39,
R125-R126). -/

namespace Sys2Proof.Machine

/-- A barrier of a team. -/
def Team.barrier (t : Team) (b : Nat) : Barrier := (tfind t.barriers b).getD Barrier.reset

/-- Changes a barrier of a team. -/
def Team.modBarrier (t : Team) (b : Nat) (f : Barrier → Barrier) : Team :=
  { t with barriers := tput Barrier.reset t.barriers b (f (t.barrier b)) }

/-- Phase `w` counts as completed (R125). -/
def Barrier.completed (x : Barrier) (w : Word) : Bool := decide ((x.count - 1 - w).toNat < 2 ^ 31)

/-- Phase C(b) has the arrivals it needs (R126). -/
def Team.phaseFull (t : Team) (b : Nat) : Bool :=
  let c := (t.barrier b).cur
  decide (1 ≤ c.booked) && (if b = 0 then decide (t.live ≤ c.booked) else c.booked == c.expected)

/-- The part of a queue before the arrival booked to a phase, and the rest (R38). -/
def splitQueue (q : List QItem) (b : Nat) (ph : Word) : List QItem × List QItem :=
  match q.findIdx? (fun it => decide (it = .arrival b ph)) with
  | none => ([], q)
  | some i => (q.take i, q.drop (i + 1))

/-- The lane writes of queue items in thread order: lanes ascending, each in program order. -/
def threadOrder (q : List QItem) : List LaneWrite :=
  let ws := queueWrites q
  (List.range 32).flatMap fun l => ws.filter fun w => w.lane == l

/-- Group indices of a team that hold, ascending. -/
def Team.groupsWhere (t : Team) (p : Group → Bool) : List Nat :=
  (List.range 32).filter fun i => match t.group? i with | some g => p g | none => false

/-- Sends the committed part of each group's queue as packets of a phase, in the order of R38; the homes
perform them one after another (R166). -/
def State.sendCommit (s : State) (k : Nat) (groups : List Nat) (phase : Nat)
    (split : List QItem → List QItem × List QItem) : State :=
  foldS (fun s i =>
    let t := s.team k
    let parts := split (t.group i).queue
    let s := s.sendWrites t i (threadOrder parts.1) none (some phase)
    s.modGroup k i fun g => { g with queue := parts.2 }) s groups

/-- No packet of the phase is on its way. -/
def State.phaseClear (s : State) (k phase : Nat) : Bool :=
  s.net.all fun p => !(p.team == k && p.phase == some phase)

/-- A packet of the phase waits at its home for an absent line or a held range (R144, R257). -/
def State.phaseHeld (s : State) (k phase : Nat) : Bool :=
  s.net.any fun p => p.team == k && p.phase == some phase && p.held

/-- The phase that queue entries committed at the end of a team belong to; barriers are 0 to 15. (DEDUCED, log 72) -/
def endPhase : Nat := 16

/-- A lane that waits on a completed phase becomes READY (R126). -/
def Lane.wake (l : Lane) (b : Nat) (x : Barrier) : Lane :=
  match l.st with
  | .barrier b' w => if b' = b ∧ x.completed w = true then { l with st := .ready } else l
  | _ => l

/-- A group parked at a `bar` in mid-clause goes on once no lane of its issue set is in BARRIER (R96); the
wait of a switch marker follows (R95). -/
def Group.leaveBar (g : Group) : Group :=
  match g.park with
  | .barMid mark =>
    if g.lanesIn LaneState.isBarrier &&& (g.clause.map (·.issue)).getD 0 = 0 then
      { g with park := if mark && !g.regsDone then .sMark else .none }
    else g
  | _ => g

/-- Wakes the lanes of a group, those recorded while it is in a handler included; the watchdog counter
returns to 0 when a lane leaves BARRIER (R327). -/
def Group.wake (g : Group) (b : Nat) (x : Barrier) : Group :=
  let lanes := g.lanes.map fun l => l.wake b x
  Group.leaveBar
    { g with lanes := lanes
             frames := g.frames.map fun f => { f with lanes := f.lanes.map fun l => l.wake b x }
             watchdog := if lanes = g.lanes then g.watchdog else 0 }

/-- A group has stopped at a `bar` (R315): right after one, or with every lane that has not exited in
BARRIER. -/
def Group.atBar (g : Group) : Bool :=
  g.stopped || (g.barStop.isSome && !g.inSup &&
    g.lanes.all fun x => x.st.isBarrier || x.st.isExited)

/-- Groups that wait at their last `bar` when a slice end is asked of their team stay stopped as their lanes
become READY (R315), unless the request is held (R326). -/
def Team.markBars (t : Team) : Team :=
  match t.stop with
  | .slice _ =>
    if t.isHalted then t else { t with groups := t.groups.map fun g => { g with stopped := g.atBar } }
  | _ => t

/-- Completion of phase C(b) after its commit (R126): count, bookings, lanes, trace record. (DEDUCED, log 72) -/
def State.finishPhase (s : State) (k b : Nat) : State :=
  let s := s.modTeam k fun t =>
    let t := t.modBarrier b fun x =>
      { x with count := x.count + 1, cur := x.nxt, nxt := Booking.empty, closing := false }
    let t := t.markBars
    { t with groups := t.groups.map fun g => g.wake b (t.barrier b) }
  let t := s.team k
  s.trace t { type := 1, bit := 1, group := 0xFF, barrier := b, code := 0,
              phase := (t.barrier b).count.toNat, pc := 0, grpslot := 0 }

/-- Tests phase C(b) and completes it, then the next (R126): its entries are sent, and it completes when
all of them have been performed (R38, R144). -/
def State.testBarrier (s : State) (k b fuel : Nat) : State :=
  match fuel with
  | 0 => s
  | fuel + 1 =>
    let t := s.team k
    if (t.barrier b).closing || !t.phaseFull b then s
    else
      let ph := (t.barrier b).count
      let groups := t.groupsWhere fun g => (t.barrier b).cur.arrived.getLsbD g.index
      let s := s.sendCommit k groups b fun q => splitQueue q b ph
      if s.phaseClear k b then State.testBarrier (s.finishPhase k b) k b fuel
      else s.modTeam k fun t => t.modBarrier b fun x => { x with closing := true }

/-- Phases whose last entry has been performed complete (R38, R144). (DEDUCED, log 72) -/
def State.closePhases (s : State) (k : Nat) : State :=
  foldS (fun s b =>
    if ((s.team k).barrier b).closing && s.phaseClear k b then (s.finishPhase k b).testBarrier k b 3
    else s) s (List.range 16)

/-- An arrival of a group has been made at this core cycle, booked or not (R127). (DEDUCED, log 72) -/
def Team.noteArrival (t : Team) (b g now : Nat) : Team := t.modBarrier b fun x => { x with last := some (now, g) }

/-- Books a group's arrival to a phase (R129): the current one, or the next; `now` is the core cycle. (DEDUCED, log 72) -/
def Team.book (t : Team) (b g cnt now : Nat) (next : Bool) : Team :=
  let add (k : Booking) : Booking :=
    { arrived := setBit k.arrived g true, booked := k.booked + 1,
      expected := if k.booked = 0 then cnt else k.expected }
  t.modBarrier b fun x =>
    let x := { x with last := some (now, g) }
    if next then { x with nxt := add x.nxt } else { x with cur := add x.cur }

end Sys2Proof.Machine
end

