-- ==== Sys2Proof/Machine/Ops.lean ====
section
/-! DEFINITION. The operations every meaning is built from: issuing a word and what follows it (R26-R32,
R43, R88-R96), taking an exception and returning from one (R303-R309). -/

namespace Sys2Proof.Machine

/-! ### The clause in issue -/

/-- The clause a group without one reads as. -/
def Clause.blank : Clause :=
  { hdr := 0, words := [], rel := 0, hasRel := false, cls := 0, issue := 0, guard := 0, slot := 0,
    cadence := false }

def Group.cl (g : Group) : Clause := g.clause.getD Clause.blank

/-- The word at the issuing slot, and its code offset (R77). A lane that resumes at a slot which its clause
no longer has finds a word of 0, a `nop` (DESIGN CHOICE, log 88). -/
def Clause.word (c : Clause) : Word := c.words.getD c.slot 0
def Clause.here (c : Clause) : Word := c.hdr + BitVec.ofNat 32 (4 * (c.slot + 1))

/-- Opcode of the issuing word. -/
def Clause.op (c : Clause) : Nat := c.word.toNat / 2 ^ 24

/-- The slot after the issuing instruction. -/
def Clause.nextSlot (c : Clause) : Nat := c.slot + (if isFx c.op then 2 else 1)

/-- The fall-through offset (R75). -/
def Clause.fall (c : Clause) : Word :=
  c.hdr + BitVec.ofNat 32 (4 * (1 + c.words.length + (if c.hasRel then 1 else 0)))

/-- The active lanes of a word (R90, R98). -/
def Clause.active (c : Clause) (m : Mods) : Mask := if m.g then c.issue &&& c.guard else c.issue

def State.cl (s : State) : Clause := s.cg.cl

/-- The active lanes of the issuing instruction. -/
def State.active (s : State) (i : Instr) : Mask := s.cl.active (instrMods i)

/-! ### What a meaning answers -/

/-- Why a lane stops at the word: a trap with its code and fault address, a service request at a ring
position with its address (R310), or a page in migration (R155). -/
inductive Why where
  | trap (code addr : Nat)
  | service (pos addr : Nat)
  | mig (addr : Nat)
  deriving DecidableEq, Repr

def Why.isTrap : Why → Bool
  | .trap _ _ => true | _ => false

/-- A lane that stops at the word. -/
structure LaneStop where
  lane : Nat
  why : Why
  deriving DecidableEq, Repr

/-- What a word does: it retires, with the lanes that stop at it, or it holds its group. -/
inductive Eff where
  | done (s : State) (stops : List LaneStop)
  | wait (s : State) (p : Park)

/-- The same trap in every lane of a mask (R124). -/
def trapLanes (m : Mask) (code addr : Nat) : List LaneStop :=
  (lanesOf m).map fun l => { lane := l, why := .trap code addr }

/-- The lanes of a list of stops. -/
def stopMask (l : List LaneStop) : Mask := maskOf fun n => l.any fun x => x.lane == n

/-! ### Halting a team (R299, R324) -/

/-- A group that stops inside a clause (R96): its lanes keep the header with the word they stand at, the
first one too; a group that waits at a header stands there. -/
def Group.stopHere (g : Group) : Group :=
  match g.clause, g.park with
  | none, _ => { g with park := .none }
  | some _, .header _ => { g with clause := none, park := .none }
  | some c, _ =>
    let g := g.modLanes c.issue fun _ x => { x with mid := some (c.hdr, x.pc) }
    { g with clause := none, park := .none }

/-- A lane waits at a `bar` in mid-clause: its group issues nothing until the phase completes, also after a stop,
a halt or a handler (R96). -/
def Group.midBar (g : Group) : Bool := g.lanes.any fun x => x.st.isBarrier && x.mid.isSome

/-- The `chain` of a group stops at its chunk boundary, or goes on (R291). (DEDUCED, log 41) -/
def Group.holdChain (stop : Bool) (g : Group) : Group :=
  { g with chprog := g.chprog.map fun o => match o.kind with
      | .chain => { o with stopped := stop }
      | _ => o }

/-- A halted group stops at an instruction boundary (R96, R324): a word that has begun its effect finishes
first; the wait of a switch marker stays (R95). -/
def Group.haltHere (g : Group) : Group :=
  if g.halted && !g.midWord then
    { g.stopHere with park := if g.park = .sMark then .sMark else .none }
  else g

/-- A group that has halted: it stands at an instruction boundary, and its `chain` at a chunk boundary (R274, R291). -/
def Group.hasHalted (g : Group) : Bool := g.halted && !g.midWord

/-- Every `chain` of a team stops at its chunk boundary, or goes on (R291); one whose group has begun a word that is
not over stops after it (R274). (DEDUCED, log 41) -/
def Team.holdChains (t : Team) (stop : Bool) : Team :=
  { t with groups := t.groups.map fun g => if stop && g.midWord then g else g.holdChain stop }

/-- Halts every group of a team that has not ended, but one; their queues drain. -/
def State.haltGroups (s : State) (k : Nat) (except : Option Nat) : State :=
  let which := (s.team k).groupsWhere fun g => !g.ended && !g.halted && except != some g.index
  foldS (fun s i =>
    let s := s.drain k i
    let s := s.modGroup k i fun g => ({ g with halted := true } : Group).haltHere
    let t := s.team k
    s.trace t { type := 6, bit := 5, group := i, barrier := 0xFF, code := 0, phase := 0, pc := 0,
                grpslot := (t.group i).grpslot.toNat }) s which

/-- Halts every group of a team as `haltt` does, with its chains (R299, R307, R324). -/
def State.haltTeam (s : State) (k : Nat) : State :=
  (s.haltGroups k none).modTeam k fun t => t.holdChains true

/-- A trap in a supervisor handler, or an entry that cannot be made (R307): the team halts, a record with
flag NESTED goes to the fault queue, and the host is notified. (DEDUCED, log 55) -/
def State.haltNested (s : State) (k g code lane : Nat) (pc : Word) (addr : DWord) : State :=
  let t := s.team k
  (s.faultNotify (t.ctx - 1) (mkFault t (t.group g) code lane (flagPrecise ||| flagNested) pc addr)).haltTeam k

/-! ### After a word -/

/-- Bank reads of one register operand (R44): 1 to 4 of a g register, by the form in which the hardware has
stored it, which is not the uniform one where two lanes differ; 1 of an s or k register, which is uniform.
(DESIGN CHOICE, log 59) -/
def Group.bankReads (g : Group) (n : RegName) : Nat :=
  match n with
  | .g k =>
    let ws := (List.range 32).map fun l => g.peek n l
    let form := Config.storedForm g.index g.slot k ws
    if ws.all fun w => w == ws.headD 0 then 1 + form % 4 else 2 + form % 3
  | .s _ => 1
  | .k _ => 1
  | _ => 0

/-- A word reads its operand a in the collector latch (R46). -/
def Group.latched (g : Group) (i : Instr) : Bool := (instrMods i).r && !g.latch.isEmpty && g.latch == operandA i

/-- Bank reads of a word's register operands: none of an operand a that the latch holds (R44, R46). -/
def Group.operandReads (g : Group) (i : Instr) : Nat :=
  (((if g.latched i then [] else operandA i) ++ operandB i ++ operandRest i).map g.bankReads).sum

/-- The collector latch after a word (R46): a marked word leaves its operand a there; a write invalidates it.
(DESIGN CHOICE, log 30) -/
def Group.latchAfter (pre g : Group) (i : Instr) : List RegName :=
  let held := if (instrMods i).r then operandA i else g.latch
  if pre.cl.active (instrMods i) != 0 && (writeNames i).any held.contains then [] else held

/-- Wait ages, the cadence timer, the entry count and the counters of the slot the word used (R32,
R303, R327, R353); `pre` is the group before the word. (DEDUCED, log 10) -/
def Group.account (pre g : Group) (i : Instr) (now : Nat) : Group :=
  let waiting := pre.readyLanes &&& ~~~pre.cl.issue
  { g with
    lanes := if pre.frames.length = g.frames.length ∨ g.clause.isSome then
        g.lanes.mapIdx fun l x =>
          if pre.cl.issue.getLsbD l then { x with age := 0 }
          else if waiting.getLsbD l then { x with age := x.age + 1 } else x
      else g.lanes
    timer := if waiting != 0 then g.timer + 1 else g.timer
    entry := if pre.entry.isSome then g.entry.map (· + 1) else g.entry
    watchdog := 0
    perf := { g.perf with slots := g.perf.slots + 1, banks := g.perf.banks + pre.operandReads i }
    latch := Group.latchAfter pre g i
    stamp := now + 1 }

/-- Stops a lane at the issuing word (R303, R310, R155). -/
def Lane.stop (x : Lane) (c : Clause) (w : Why) : Lane :=
  let p (code addr : Nat) : Pend :=
    { code := code, addr := BitVec.ofNat 64 addr, word := c.word, pc := c.here, decode := false }
  { x with
    pc := c.here, mid := some (c.hdr, c.here)
    st := match w with
      | .trap code addr => .parked (.trapped (p code addr))
      | .service pos addr => .parked (.service pos (p codeNotPresent addr))
      | .mig addr => .parked (.mig addr) }

/-- Parks the lanes that stop; a trap begins an entry (R303). -/
def Group.stopLanes (g : Group) (c : Clause) (stops : List LaneStop) : Group :=
  let g := stops.foldl (fun g x => g.modLane x.lane fun l => l.stop c x.why) g
  { g with entry := if stops.any fun x => x.why.isTrap then some (g.entry.getD 0) else g.entry }

/-- Releases the operands that the release word marks for the slot (R43, R77). -/
def Group.releaseOperands (g : Group) (c : Clause) (i : Instr) : Group :=
  let rel (bit : Nat) (l : List RegName) (g : Group) : Group :=
    if c.hasRel && c.rel.getLsbD bit then
      (l.filter fun n => !(writeNames i).contains n).foldl Group.release g
    else g
  rel (2 * c.slot + 1) (operandB i) (rel (2 * c.slot) (operandA i) g)

/-- The lanes that go on: to the next word, or past the clause (R27, R75). (DEDUCED, log 10) -/
def Group.advance (g : Group) (c : Clause) (rest : Mask) : Group :=
  if c.nextSlot < c.words.length then
    let at_ := c.hdr + BitVec.ofNat 32 (4 * (c.nextSlot + 1))
    let g := g.modLanes rest fun _ x => { x with pc := at_ }
    { g with clause := if rest = 0 then none else some { c with issue := rest, slot := c.nextSlot } }
  else
    let g := if isControlFlow c.op then g else g.modLanes rest fun _ x => { x with pc := c.fall }
    { g with clause := none }

/-- The park after a word: a `bar` in mid-clause (R96), or a switch marker (R95). -/
def Group.parkAfter (g : Group) (m : Mods) (rest : Mask) : Group :=
  let held := g.lanesIn LaneState.isBarrier &&& rest != 0 && g.clause.isSome
  if held then { g with park := .barMid m.s }
  else if m.s && rest != 0 && !g.regsDone then { g with park := .sMark }
  else { g with park := .none }

/-- Everything after the effects of a word (R27, R32, R43, R95, R303): `g0` is the group before it. A word
that enters or leaves a handler leaves no clause; one that restores an image leaves its own. -/
def Group.retire (g0 g : Group) (i : Instr) (stops : List LaneStop) (now : Nat) : Group :=
  let c := g0.cl
  let rest := c.issue &&& ~~~stopMask stops
  let g := Group.account g0 { g with accepted := 0, heldOp := none, since := none } i now
  let g := g.stopLanes c stops
  let g := if stops.isEmpty then g.releaseOperands c i else g
  if (g0.frames.length = g.frames.length ∨ g.clause.isSome) ∧ !g.ended then
    ((g.advance c rest).parkAfter (instrMods i) rest).haltHere
  else { g with clause := none, park := .none }

/-- A trap in a supervisor handler (R307): the lanes stay at the word and the team halts. (DEDUCED, log 55) -/
def State.nestedFault (s : State) (k g : Nat) (c : Clause) (stops : List LaneStop) : State :=
  let s := s.modGroup k g fun x =>
    stops.foldl (fun x st => x.modLane st.lane fun l =>
      { l with st := .ready, pc := c.here, mid := some (c.hdr, c.here) }) { x with entry := none }
  match stops.find? fun x => x.why.isTrap with
  | some { lane := l, why := .trap code addr } => s.haltNested k g code l c.here (BitVec.ofNat 64 addr)
  | _ => s.haltTeam k

/-- A word retires: `s0` is the state before it, `s` the state with its effects. (DEDUCED, log 10) -/
def State.retire (s0 s : State) (i : Instr) (stops : List LaneStop) : State :=
  let g0 := s0.cg
  let s := s.modCg fun g => Group.retire g0 g i stops s0.tick
  if g0.inSup && stops.any fun x => x.why.isTrap then
    s.nestedFault s0.curTeam s0.curGroup g0.cl stops
  else s

/-- The general registers an instruction names lie within the group's budget (R41, R79). (DEDUCED, log 71) -/
def withinBudget (g : Group) (i : Instr) : Bool :=
  (readNames i ++ writeNames i).all fun n => match n with | .g k => decide (k < g.budget) | _ => true

/-- The active lanes of a word that read a register with an uncorrectable word (R301); a uniform register
is every lane's. (DESIGN CHOICE, log 28) -/
def State.eccLanes (s : State) (i : Instr) : Mask :=
  if s.eccRegs.isEmpty then 0
  else maskOf fun l => (s.active i).getLsbD l && (readNames i).any fun n =>
    s.eccRegs.contains (s.curTeam, s.curGroup, n.number, if n.uniform then 0 else l)

/-- The clause in issue with another issue set. -/
def State.withIssue (s : State) (m : Mask) : State :=
  s.modCg fun g => { g with clause := g.clause.map fun c => { c with issue := m } }

/-- The words that execute once for the group and read a register of every lane: a failure of one lane is
raised in every active lane (R124, R267). -/
def laneCollective : Instr → Bool
  | .mmas _ _ _ => true | .cvtb _ _ _ _ _ _ => true | .accst _ _ _ => true | _ => false

/-- Issues a word in which some lanes read an uncorrectable word: those trap, precisely and without effect,
and the word acts in the others (R7, R301); one that executes once for the group traps in all of them.
(DESIGN CHOICE, log 28) -/
def State.runPast (s : State) (i : Instr) (bad : Mask) (f : State → Eff) : Host.Outcome State Fault Refusal :=
  if laneCollective i then .next (s.retire s i (trapLanes (s.active i) codeEcc 0))
  else
    match f (s.withIssue (s.cl.issue &&& ~~~bad)) with
    | .done s' stops => .next (s.retire s' i (trapLanes bad codeEcc 0 ++ stops))
    | .wait s' p => .next ((s'.withIssue (s'.cl.issue ||| s.cl.issue &&& bad)).modCg fun g => { g with park := p })

/-- Issues a word: the budget check, the effects, and what follows them. (DEDUCED, log 71) -/
def State.run (s : State) (i : Instr) (f : State → Eff) : Host.Outcome State Fault Refusal :=
  if withinBudget s.cg i then
    if s.eccLanes i = 0 then
      match f s with
      | .done s' stops => .next (s.retire s' i stops)
      | .wait s' p => .next (s'.modCg fun g => { g with park := p })
    else s.runPast i (s.eccLanes i) f
  else .next (s.retire s i (trapLanes s.cl.issue codeOperand 0))

/-! ### Register results -/

/-- The values of short-latency results are written at once (R91). -/
def State.writeNow (s : State) (ws : List RegWrite) : State := s.modCg fun g => g.writes ws

/-- Values of long-latency results known at issue: they land later (R91). -/
def State.writeLater (s : State) (names : List RegName) (lanes : Mask) (ws : List RegWrite) : State :=
  s.next.modCg fun g => g.await s.fresh names lanes 0 ws false false false

/-- A result of one value per active lane (R98), or one per register of a pair. -/
def State.lanewise (s : State) (i : Instr) (f : Group → Nat → List Word) : List RegWrite :=
  (lanesOf (s.active i)).flatMap fun l => regWrites (writeNames i) l (f s.cg l)

/-- A short-latency instruction that only computes lane by lane. -/
def State.alu (s : State) (i : Instr) (f : Group → Nat → List Word) :
    Host.Outcome State Fault Refusal :=
  s.run i fun s => .done (s.writeNow (s.lanewise i f)) []

/-- A long-latency one. -/
def State.aluLong (s : State) (i : Instr) (f : Group → Nat → List Word) :
    Host.Outcome State Fault Refusal :=
  s.run i fun s => .done (s.writeLater (writeNames i) (s.active i) (s.lanewise i f)) []

/-- A uniform result (R119, R124): written when the instruction takes effect in some lane. -/
def State.uniform (s : State) (i : Instr) (f : Group → Mask → List Word) :
    Host.Outcome State Fault Refusal :=
  s.run i fun s =>
    let act := s.active i
    .done (if act = 0 then s else s.writeNow (regWrites (writeNames i) 0 (f s.cg act))) []

/-- Drains the issuing group's queue when the word first issues (R167); a word still held before its
issue, by an acquire or a tag write, has not drained. -/
def State.drainFirst (s : State) : State :=
  match s.cg.park with
  | .none | .release => s.drain s.curTeam s.curGroup
  | _ => s

/-- The drain at the issue of an instruction (R167), unless an acquire or a tag write still holds it (R171,
R204). One that is active in no lane takes no effect and drains nothing (R90, R124; DESIGN CHOICE, log 89). -/
def State.drainAt (s : State) (i : Instr) : State :=
  if s.active i = 0 || s.accessHeld s.curTeam s.curGroup (s.active i) then s else s.drainFirst

/-- An instruction that accesses memory: held while an acquire or a tag write holds it (R171, R204). -/
def State.access (s : State) (i : Instr) (f : State → Eff) : Host.Outcome State Fault Refusal :=
  s.run i fun s =>
    if s.accessHeld s.curTeam s.curGroup (s.active i) then .wait s .release else f s

/-- One that drains the queue at its issue (R167), before any of its checks. (DESIGN CHOICE, log 89) -/
def State.draining (s : State) (i : Instr) (f : State → Eff) : Host.Outcome State Fault Refusal :=
  (s.drainAt i).access i f

/-- An access check of each active lane: the lanes that pass with what they got, and the stops. -/
def sortChecks {α : Type} (l : List (Nat × Chk α)) : List (Nat × α) × List LaneStop :=
  (l.filterMap fun x => match x.2 with | .ok v => some (x.1, v) | .error _ => none,
   l.filterMap fun x => match x.2 with
     | .ok _ => none
     | .error e => some { lane := x.1, why := .trap e.1 e.2 })

/-- The lanes of a list as a mask. -/
def lanesMask {α : Type} (l : List (Nat × α)) : Mask := maskOf fun n => l.any fun x => x.1 == n

/-! ### Taking an exception (R302-R307) -/

/-- The `%tdeleg` bit of a code (R301, R302). -/
def codeClass (code : Nat) : Option Nat :=
  match code with
  | 0x20 => some 0 | 0x0D => some 1 | 0x0E => some 1 | 0x28 => some 2 | 0x21 => some 3
  | 0x22 => some 4 | 0x18 => some 5 | 0x19 => some 5 | _ => none

/-- Whether a code goes to the team handler (R302, R307). -/
def State.delegated (s : State) (t : Team) (g : Group) (code : Nat) : Bool :=
  g.frames.isEmpty && t.tvec.getLsbD 0 &&
    (match codeClass code with | some k => (s.ctxFunc t.ctx).tdeleg.getLsbD k | none => false)

/-- The team of a record (R311): named by the coordinates and the group slot captured at issue. -/
def Team.ofRecord (t : Team) (r : FaultRec) : Bool := t.x == r.x && t.y == r.y && t.z == r.z

/-- The group that takes a record of its team (R311): its issuer while it lives, or the lowest-indexed
group not ended; and whether the issuer had ended. (DEDUCED, log 55) -/
def Team.receiver (t : Team) (r : FaultRec) : Option (Nat × Bool) :=
  match t.groups.find? fun g => !g.ended && g.index == r.group && g.grpslot == r.grpslot with
  | some g => some (g.index, false)
  | none => ((t.groupsWhere fun g => !g.ended).head?).map fun i => (i, true)

/-- What an entry can deliver: a precise code of parked lanes, or a queued record. -/
inductive Cause where
  | lanes (code : Nat)
  | record (r : FaultRec) (exited : Bool)
  deriving DecidableEq, Repr

/-- Precise codes pending in a group. -/
def Group.pendingCodes (g : Group) : List Nat :=
  g.lanes.filterMap fun l => match l.st with | .parked (.trapped p) => some p.code | _ => none

/-- Undelivered records of a team that one of its groups receives, oldest first. (DEDUCED, log 55) -/
def Team.recordsFor (t : Team) (g : Nat) : List (FaultRec × Bool) :=
  t.records.filterMap fun r => match t.receiver r with
    | some (i, ex) => if i = g then some (r, ex) else none
    | none => none

/-- A delivered record starts an entry of the group that receives it, unless one is under way (R311). -/
def Team.startEntries (t : Team) : Team :=
  { t with groups := t.groups.map fun g =>
      if !g.ended && g.entry.isNone && !g.inSup && !(t.recordsFor g.index).isEmpty then
        { g with entry := some 0 }
      else g }

/-- Least code among those that satisfy a condition. -/
def leastCode (l : List Nat) (p : Nat → Bool) : Option Nat := (l.filter p).min?

/-- The code an entry delivers (R304). (DEDUCED, log 78) -/
def State.cause (s : State) (t : Team) (g : Group) : Option Cause :=
  let del := s.delegated t g
  let codes := g.pendingCodes
  match leastCode codes (fun c => !del c) with
  | some c => some (.lanes c)
  | none =>
    match leastCode codes (fun c => del c) with
    | some c => some (.lanes c)
    | none =>
      let recs := t.recordsFor g.index
      let rcodes := recs.map fun x => x.1.code
      let pick := (leastCode rcodes (fun c => !del c)).orElse fun _ => rcodes.min?
      pick.bind fun c => (recs.find? fun x => x.1.code == c).map fun x => .record x.1 x.2

/-- A lane's pending trap with a code. -/
def Lane.pend? (x : Lane) (code : Nat) : Option Pend :=
  match x.st with
  | .parked (.trapped p) => if p.code = code then some p else none
  | _ => none

/-- The trap registers of an entry (R305). -/
def Group.causeRegs (g : Group) (why : Cause) (nested : Bool) : TrapRegs :=
  let act := g.lanesIn fun st => st.isReady || st.isParked
  let info (b : Nat) : Nat := b + (if nested then 4 else 0)
  match why with
  | .lanes code =>
    let hits := (List.range 32).filterMap fun l => ((g.lane l).pend? code).map fun p => (l, p)
    let low := hits.head?
    { code := code, info := BitVec.ofNat 32 (info 0), act := act,
      flt := maskOf fun l => hits.any fun h => h.1 == l,
      addr := hits.foldl (fun t h => tput 0 t h.1 h.2.addr) [],
      instr := (low.map fun h => h.2.word).getD 0, pc := (low.map fun h => h.2.pc).getD 0 }
  | .record r exited =>
    { code := r.code,
      info := BitVec.ofNat 32 (info (1 + (if exited then 2 else 0)) + r.group * 256), act := act,
      flt := if exited then 0 else 1#32 <<< r.lane, addr := tput 0 [] r.lane r.addr, instr := 0,
      pc := r.pc }

/-- The nested frame words of a lane: bytes 224 to 255 of its trap frame (R307). -/
def TrapRegs.frameBytes (t : TrapRegs) (lane : Nat) : List Byte :=
  leBytes 4 t.code ++ leBytes 4 t.info.toNat ++ leBytes 4 t.act.toNat ++ leBytes 4 t.flt.toNat ++
    leBytes 4 t.instr.toNat ++ leBytes 4 t.pc.toNat ++ leBytes 8 (tget 0 t.addr lane).toNat

/-- Stores the team handler's trap registers in the trap frames (R307). (DEDUCED, log 55) -/
def Group.saveNested (g : Group) : Group :=
  { g with frame := (List.range 32).foldl (fun m l =>
      m.writeN (frameKey l 224) (g.trapRegs.frameBytes l)) g.frame }

/-- The trap registers that the trap frames hold (R345). -/
def Group.nestedRegs (g : Group) : TrapRegs :=
  let w (off : Nat) : Nat := g.frame.readLe (frameKey 0 off) 4
  { code := w 224 % 256, info := BitVec.ofNat 32 (w 228), act := BitVec.ofNat 32 (w 232),
    flt := BitVec.ofNat 32 (w 236), instr := BitVec.ofNat 32 (w 240), pc := BitVec.ofNat 32 (w 244),
    addr := (List.range 32).foldl (fun t l =>
      tput 0 t l (BitVec.ofNat 64 (g.frame.readLe (frameKey l 248) 8))) [] }

/-- A group enters a handler (R306): all lanes READY at the vector, the lanes as they stood recorded.
(DEDUCED, log 15) -/
def Group.enter (g : Group) (sup nested : Bool) (regs : TrapRegs) (vector : Word) : Group :=
  let g := g.stopHere
  let g := if nested then g.saveNested else g
  { g with
    frames := { sup := sup, nested := nested, lanes := g.lanes, entry := none, regs := none, enrolled := [] } ::
      g.frames
    lanes := g.lanes.map fun x => { x with pc := vector, st := .ready, mid := none, age := 0 }
    trapRegs := regs, entry := none, entering := false, latch := [] }

/-- A word of code, read under the tables of the context (R86). (DESIGN CHOICE, log 20) -/
def State.codeWord (s : State) (ctx : Nat) (off : Word) : Option Word :=
  let f := s.ctxFunc ctx
  let va := (f.codebase.toNat / 2 ^ 16 * 2 ^ 16 + off.toNat) % 2 ^ 52
  match s.walk f va .ex with
  | .page p => some (BitVec.ofNat 32 (leNat (s.hbmBytes (p.ppage * pageSize + va % pageSize) 4)))
  | _ => none

/-- The handler's offset for a code (R302). (DESIGN CHOICE, log 20) -/
def State.vector (s : State) (t : Team) (sup : Bool) (code : Nat) : Option Word :=
  if sup then
    s.codeWord t.ctx (BitVec.ofNat 32 ((s.ctxFunc t.ctx).svtab.toNat / 256 * 256 + 4 * code))
  else some (t.tvec &&& 0xFFFFFFFC)

/-- A TRAP trace record (R335). (DESIGN CHOICE, log 26) -/
def State.traceTrap (s : State) (k g code : Nat) (pc : Word) : State :=
  let t := s.team k
  s.trace t { type := 4, bit := 3, group := g, barrier := 0xFF, code := code, phase := 0,
              pc := pc.toNat, grpslot := (t.group g).grpslot.toNat }

/-- The drain with which an entry begins (R303). -/
def State.drainEntry (s : State) (k g : Nat) : State :=
  if (s.group k g).entering then s else s.drain k g

/-- Taking an exception: the queue drains, the trap registers and frames are written, and all lanes
start at the vector (R303-R307). A vector that cannot be fetched halts the team as R307 says of a trap
in a supervisor handler (log 20). -/
def State.takeException (s : State) (k g : Nat) (sup : Bool) (regs : Group → TrapRegs) : State :=
  let s := s.drainEntry k g
  let t := s.team k
  let x := t.group g
  let nested := sup && !x.frames.isEmpty
  let r := regs x.stopHere
  match s.vector t sup r.code with
  | none => s.haltNested k g r.code 0 r.pc 0
  | some v => (s.modGroup k g fun x => x.enter sup nested r v).traceTrap k g r.code r.pc

/-- The record of a `chain` that an error has stopped goes to a handler, at whose `eret` it goes on (R291).
(DEDUCED, log 38) -/
def Group.handChain (r : FaultRec) (dest : Nat) (g : Group) : Group :=
  if r.code = codeEcc then
    { g with chprog := g.chprog.map fun o =>
        if o.failed && o.handler.isNone && o.pc == r.pc then { o with handler := some dest } else o }
  else g

/-- Entry for the pending code or record of a group (R304). -/
def State.enterPending (s : State) (k g : Nat) : State :=
  let t := s.team k
  let x := t.group g
  match s.cause t x with
  | none => s.modGroup k g fun x => { x with entry := none }
  | some why =>
    let code := match why with | .lanes c => c | .record r _ => r.code
    let sup := !s.delegated t x code
    let s := s.takeException k g sup fun x => x.causeRegs why (sup && !x.frames.isEmpty)
    match why with
    | .lanes _ => s
    | .record r _ =>
      (s.modGroup k r.group (Group.handChain r g)).modTeam k fun t => { t with records := t.records.erase r }

/-- Entry is due (R303): no lane is READY, or the 4,096 issue slots are used; or it has begun with its drain.
(DEDUCED, log 78) -/
def Group.entryDue (g : Group) : Bool :=
  match g.entry with
  | none => false
  | some n => !g.inSup && (g.readyLanes == 0 || decide (4096 ≤ n) || g.entering)

/-! ### Return from an exception (R308, R309, R345) -/

/-- The recorded lanes of the handler's entry, as `eret` leaves them (R308). (DEDUCED, log 15) -/
def Frame.resume (f : Frame) (flt : Mask) (handler : List Lane) : List Lane :=
  f.lanes.mapIdx fun l x =>
    let x := { x with lsp := (handler.getD l x).lsp }
    if flt.getLsbD l && x.st.isTrapped then { x with st := .ready } else x

/-- `eret`: the group leaves its handler, or goes back to the team handler it was in (R345); the next
entry follows at once when codes remain. (DEDUCED, log 15) -/
def Group.leave (g : Group) : Group :=
  match g.frames with
  | [] => g
  | f :: rest =>
    let g' := { g with frames := rest, lanes := f.resume g.trapRegs.flt g.lanes, clause := none,
                       hold := .none }
    match f.regs with
    | some r => { g' with trapRegs := r }
    | none => if f.nested then { g' with trapRegs := g.nestedRegs } else g'

/-- Starts the next entry of a group when a code or record is pending (R304). (DEDUCED, log 78) -/
def State.nextEntry (s : State) (k g : Nat) : State :=
  let t := s.team k
  if (s.cause t (t.group g)).isSome then s.modGroup k g fun x => { x with entry := some 4096 }
  else s.modGroup k g fun x => { x with entry := none }

/-- A stop is over and the team runs on (R314, R349). -/
def Team.goOn (t : Team) : Team :=
  ({ t with stop := .none
            resumeCw := none
            groups := t.groups.map fun g => { g with stopped := false, loaded := false } } : Team).startEntries.holdChains
    false

/-- Slots of a team's slips that are in flight are answered DROP_CLOSED, and the records are free
(R230). -/
def State.dropSlips (s : State) (k core : Nat) : State :=
  let mine := (s.core core).slips.filter fun x => x.2.team == k
  let ans := mine.flatMap fun x => x.2.slots.filterMap fun sl => match sl with
    | .free => none
    | .arrived r => some { ret := r, status := 3 }
    | .taken r => some { ret := r, status := 3 }
  let s := { s with answers := s.answers ++ ans }
  s.modCore core fun c => { c with slips := c.slips.filter fun x => x.2.team != k }

/-- Frees a team's berth records and landing entries (R24, R256). -/
def Core.freeTeam (c : Core) (k : Nat) : Core :=
  { c with berths := c.berths.filter fun b => b.2.team != k
           landing := c.landing.filter fun e => e.2.team != k }

/-- A TEAM_END trace record (R335). -/
def State.traceEnd (s : State) (t : Team) : State :=
  s.trace t { type := 3, bit := 2, group := 0xFF, barrier := 0xFF, code := 0, phase := 0, pc := 0,
              grpslot := 0 }

/-- A team ends without a completion signal of its own grid, which is a RESUME record's (R349): its slips,
berths and landing entries are released as at any end (R24, R230, R256). (DEDUCED, log 21) -/
def State.dropTeam (s : State) (k : Nat) : State :=
  let t := s.team k
  let s := ((s.traceEnd t).dropSlips k t.core).modCore t.core fun c => c.freeTeam k
  { s with teams := s.teams.filter fun u => u.key != k
           grids := s.grids.filter fun g => g.serial != t.ownGrid }

/-- Every member of a peloton that has not ended is resident, and its stop is over: it goes on as a whole
(R20, R47). -/
def State.wholeAgain (s : State) (t : Team) : Bool :=
  let all := s.members t
  (all.all fun u => u.stop == .over) && some all.length == (s.grid? t.grid).map (·.unended)

/-- The stop of a team is over: it runs on, a peloton once it is whole again (R20, R314). -/
def State.stopOver (s : State) (k : Nat) : State :=
  let t := s.team k
  if t.peloton then
    let s := s.modTeam k fun t => { t with stop := .over }
    if s.wholeAgain (s.team k) then
      foldS (fun s (u : Team) => s.modTeam u.key Team.goOn) s (s.members (s.team k))
    else s
  else s.modTeam k Team.goOn

/-- The handler of a stop is over without a saved image (R314); the one of a RESUME team ends it when it has
loaded none either (R349). (DEDUCED, log 49) -/
def State.stopReturns (s : State) (k : Nat) : State :=
  match (s.team k).stop with
  | .handler _ _ =>
    let t := s.team k
    if t.resumeCw.isSome && !t.groups.any fun g => g.loaded then s.dropTeam k else s.stopOver k
  | _ => s

/-- All handler lanes have exited (R309): the interrupted lanes are EXITED, pending codes and records of
the group are discarded, and the rejoin slots are free. (DEDUCED, log 49) -/
def State.endHandler (s : State) (k g : Nat) : State :=
  let s := s.modTeam k fun t =>
    let mine := (t.recordsFor g).map (·.1)
    { t with records := t.records.filter fun r => !mine.contains r }
  let s := s.modGroup k g fun x =>
    { x with lanes := x.lanes.map fun l => { l with st := .exited }
             frames := [], entry := none, rejoins := [], clause := none, exmask := fullMask, saved := none }
  s.stopReturns k

/-! ### Rejoin slots (R28-R31) -/

/-- A rejoin slot of a group. -/
def Group.slotJ (g : Group) (j : Nat) : Rejoin := (tfind g.rejoins j).getD Rejoin.reset
def Group.setSlotJ (g : Group) (j : Nat) (r : Rejoin) : Group :=
  { g with rejoins := tput Rejoin.reset g.rejoins j r }

/-- A lane that waits in REJOIN(j) becomes READY (R30). -/
def Lane.release (j : Nat) (l : Lane) : Lane := if l.st = .rejoin j then { l with st := .ready } else l

/-- The lanes that the running handler has enrolled in a slot (R306). -/
def Group.ownMembers (g : Group) (j : Nat) : Mask :=
  match g.frames with
  | f :: _ => tget 0 f.enrolled j
  | [] => 0

/-- Sets the lanes that the running handler has enrolled in a slot. -/
def Group.setOwn (g : Group) (j : Nat) (m : Mask) : Group :=
  match g.frames with
  | f :: r => { g with frames := { f with enrolled := tput 0 f.enrolled j m } :: r }
  | [] => g

/-- A frame once a slot is free: the recorded lanes that waited for it are READY. -/
def Frame.freeSlot (j : Nat) (f : Frame) : Frame :=
  { f with lanes := f.lanes.map (Lane.release j), enrolled := tput 0 f.enrolled j 0 }

/-- Release of a slot once every member has arrived (R30); a lane that exits is no member any more (R31). The
lanes recorded at a handler's entry wait for the slot too. -/
def Group.testRejoin (g : Group) (j : Nat) : Group :=
  let r := g.slotJ j
  if r.members ≠ 0 ∧ r.members &&& ~~~r.arrived = 0 then
    ({ g with
       lanes := g.lanes.map (Lane.release j)
       frames := g.frames.map (Frame.freeSlot j) } : Group).setSlotJ j Rejoin.reset
  else g

/-- Exiting lanes leave a slot (R31): the members that the program has enrolled, or in a handler those that it
has enrolled itself (R306, R309). (DEDUCED, log 13) -/
def Group.leaveSlot (act : Mask) (g : Group) (j : Nat) : Group :=
  let out := if g.inHandler then act &&& g.ownMembers j else act
  let r := g.slotJ j
  let left := r.members &&& ~~~out
  ((g.setOwn j (g.ownMembers j &&& ~~~out)).setSlotJ j
    { members := left, target := if left = 0 then 0 else r.target,
      arrived := if left = 0 then 0 else r.arrived }).testRejoin j

end Sys2Proof.Machine
end

