-- ==== Sys2Proof/Machine/Flags.lean ====
section
/-! DEFINITION. The floating-point flags and their traps (R102, R103), and the window flags with their
traps (R247, R284). -/

namespace Sys2Proof.Machine

/-- Flags of R102 as a number: NV 1, OF 2, UF 4, NX 8, GU 16. -/
def Group.raiseFlags (g : Group) (fl : Nat) : Group :=
  { g with fpflags := g.fpflags ||| BitVec.ofNat 32 (fl % 32) }

/-- Flags that meet a set TE bit (R102, R103). (DEDUCED, log 70) -/
def Group.trapsOn (g : Group) (fl : Nat) : Bool := (g.fpflags.toNat / 256 % 32) &&& fl != 0

/-- Results and flags of a floating-point instruction, lane by lane. -/
structure FpLane where
  lane : Nat
  ws : List Word
  flags : Nat
  deriving DecidableEq, Repr

/-- The lanes of a floating-point instruction. -/
def State.fpLanes (s : State) (i : Instr) (f : Group → Nat → List Word × Nat) : List FpLane :=
  (lanesOf (s.active i)).map fun l => { lane := l, ws := (f s.cg l).1, flags := (f s.cg l).2 }

/-- Flags are recorded in every active lane; a lane whose flags meet a set TE bit traps and keeps its
destination (R103). (DEDUCED, log 70) -/
def State.fpFinish (s : State) (i : Instr) (long : Bool) (lanes : List FpLane) : Eff :=
  let bad := lanes.filter fun x => s.cg.trapsOn x.flags
  let good := lanes.filter fun x => !s.cg.trapsOn x.flags
  let ws := good.flatMap fun x => regWrites (writeNames i) x.lane x.ws
  let fl := lanes.foldl (fun n x => n ||| x.flags) 0
  let s := s.modCg fun g => g.raiseFlags fl
  let mask := maskOf fun l => good.any fun x => x.lane == l
  .done (if long then s.writeLater (writeNames i) mask ws else s.writeNow ws)
    (bad.map fun x => { lane := x.lane, why := .trap codeFp 0 })

/-- A floating-point instruction with a short-latency result. -/
def State.fp (s : State) (i : Instr) (f : Group → Nat → List Word × Nat) :
    Host.Outcome State Fault Refusal :=
  s.run i fun s => s.fpFinish i false (s.fpLanes i f)

/-- One with a long-latency result (R91). -/
def State.fpLong (s : State) (i : Instr) (f : Group → Nat → List Word × Nat) :
    Host.Outcome State Fault Refusal :=
  s.run i fun s => s.fpFinish i true (s.fpLanes i f)

/-- A 32-bit pattern as a register word. -/
def w32 (n : Nat) : Word := BitVec.ofNat 32 n

/-- A result pair as a lane answer. -/
def fpOne (r : Nat × Nat) : List Word × Nat := ([w32 r.1], r.2)

/-- The two 16-bit halves of a paired instruction (R112): results packed, flags joined. -/
def fpPair (lo hi : Nat × Nat) : List Word × Nat := ([w32 (lo.1 % 65536 + hi.1 * 65536)], lo.2 ||| hi.2)

end Sys2Proof.Machine
end

