-- ==== Sys2Proof/Machine/Ends.lean ====
section
/-! DEFINITION. The ends of groups, teams and grids (R23, R24, R37, R39, R133, R178, R230, R360). -/

namespace Sys2Proof.Machine

/-- A long-latency result bound for registers is still out (R23), or a lane has not exited. -/
def Group.canEnd (g : Group) : Bool :=
  !g.ended && g.frames.isEmpty && g.lanesIn LaneState.isExited == fullMask && g.regsDone

/-- The last item of a queue is an entry: it was queued after the group's last arrival (R39). -/
def endsWithEntry (q : List QItem) : Bool :=
  match q.getLast? with | some (.entry _) => true | _ => false

/-- The modifiers of an instruction word (R78). -/
def wordMods (w : Word) : Mods := mods w.toNat

/-- The rendezvous instruction a group is held at (R133). -/
def heldInstr (h : Hold) (m : Mods) : Option Instr :=
  match h with
  | .none => none
  | .give peer n8 => some (.reggive (BitVec.ofNat 5 peer) (BitVec.ofNat 4 n8) m)
  | .take peer => some (.regtake (BitVec.ofNat 5 peer) m)

/-- The partner a held group waits for. -/
def holdPeer : Hold → Option Nat
  | .none => none
  | .give p _ => some p
  | .take p => some p

/-- A held group traps in its active lanes (R133). -/
def State.trapHeld (s : State) (k g code : Nat) : State :=
  let here := { s with curTeam := k, curGroup := g }
  match heldInstr here.cg.hold (wordMods here.cl.word) with
  | none => s
  | some i =>
    let act := here.active i
    let s' := here.modCg fun x => { x with hold := .none }
    { (here.retire s' i (trapLanes act code 0)).spend here.ct.core 0 1 with curTeam := s.curTeam, curGroup := s.curGroup }

/-- A group whose lanes have exited and whose results have returned ends (R23, R39): its queue drains
when an entry follows its last arrival, held partners trap, and barrier 0 is tested (R37). -/
def State.endGroup (s : State) (k g : Nat) : State :=
  if ((s.team k).group g).canEnd then
    let s := if endsWithEntry ((s.team k).group g).queue then s.drain k g else s
    let s := s.modGroup k g fun x =>
      { x with ended := true, pending := [], clause := none, park := .none, sample := none,
               entry := none, hold := .none }
    let held := (s.team k).groupsWhere fun x => !x.ended && x.park == .rendezvous && holdPeer x.hold == some g
    let s := foldS (fun s i => s.trapHeld k i codeBarMismatch) s held
    let s := (s.testBarrier k 0 3).modTeam k Team.startEntries
    if (s.team k).live = 0 then
      let all := (s.team k).groupsWhere fun _ => true
      s.sendCommit k all endPhase fun q => (q, [])
    else s
  else s

/-- Translation of a main-memory pointer of a launch record (R148, R360). -/
def State.ptrWalk (s : State) (ctx va : Nat) (use : PageUse) : Xlat :=
  if va / 2 ^ 52 % 256 ≠ 0 then .trap codePermission else s.walk (s.ctxFunc ctx) (va % 2 ^ 52) use

/-- Adds 1 to a completion word in main memory at system scope; the failure's code where its
translation fails (R360). -/
def State.signalMain (s : State) (ctx : Nat) (va : Nat) : State × Option Nat :=
  match s.ptrWalk ctx va .wr with
  | .page p =>
    let pa := p.ppage * pageSize + va % pageSize
    (s.hbmPuts pa (leBytes 8 (leNat (s.hbmBytes pa 8) + 1)), none)
  | .trap c => (s, some c)
  | .mig => (s, some codeNotPresent)

/-- Order of replay records (R178): team, thread; program order within. (DEDUCED, log 68) -/
def recBefore (a b : Nat × Nat × Nat × TmLoc × AOp × Word) : Bool :=
  a.1 < b.1 || (a.1 == b.1 && (a.2.1 < b.2.1 || (a.2.1 == b.2.1 && a.2.2.1 < b.2.2.1)))

def insertRec (r : Nat × Nat × Nat × TmLoc × AOp × Word)
    (l : List (Nat × Nat × Nat × TmLoc × AOp × Word)) : List (Nat × Nat × Nat × TmLoc × AOp × Word) :=
  match l with
  | [] => [r]
  | x :: rest => if recBefore r x then r :: x :: rest else x :: insertRec r rest

/-- Applies one recorded floating-point reduction at its home. -/
def State.applyRec (s : State) (r : Nat × Nat × Nat × TmLoc × AOp × Word) : State :=
  let loc := r.2.2.2.1
  let old := leNat (s.tmBytes loc 4)
  s.tmPuts loc 0 (leBytes 4 (atomicNew .f32 (some r.2.2.2.2.1) old r.2.2.2.2.2.toNat 0))

/-- The records of a replay grid are applied in order, and their room in the buffer is free again.
(DEDUCED, log 68) -/
def State.applyReplay (s : State) (g : Grid) : State :=
  let s := foldS State.applyRec s (g.replayRecs.foldl (fun l r => insertRec r l) [])
  s.modCtx g.ctx fun f => { f with replayUsed := f.replayUsed - g.replayRecs.length }

/-- A grid's completion word receives its add; a failure goes to the fault queue (R360). -/
def State.signalGrid (s : State) (g : Grid) : State :=
  if g.record.cw = 0 then s
  else
    match s.signalMain g.ctx g.record.cw.toNat with
    | (s, none) => s
    | (s, some code) =>
      (s.faultQueue (g.ctx - 1)
        { code := code, lane := 0, flags := flagExited, pc := g.record.kernel, addr := g.record.cw,
          grpslot := 0, x := 0, y := 0, z := 0, group := 0 }).1

/-- One team of a grid has ended; the last one completes the grid (R360). -/
def State.teamOfGridEnds (s : State) (serial : Nat) : State :=
  match s.grid? serial with
  | none => s
  | some g =>
    if g.unended ≤ 1 then
      let s := (s.applyReplay g).signalGrid g
      { s with grids := s.grids.filter fun x => x.serial != serial }
    else s.modGrid serial fun g => { g with unended := g.unended - 1 }

/-- Operations that a team has issued and that have not completed (R24). (DEDUCED, log 21) -/
def State.busyTeam (s : State) (k : Nat) : Bool :=
  let t := s.team k
  s.copies.any (fun o => o.team == k) || s.mmaxs.any (fun o => o.team == k) ||
    t.groups.any (fun g => g.chprog.isSome) ||
    (s.core t.core).landing.any (fun e => e.2.team == k && !e.2.complete) ||
    s.lands.any (fun l => l.team == k) ||
    s.net.any (fun p => p.team == k || p.loc.team == k)

/-- Conditions of R24. (DEDUCED, log 21) -/
def State.teamDone (s : State) (k : Nat) : Bool :=
  let t := s.team k
  !t.groups.isEmpty && t.live == 0 && t.groups.all (fun g => g.queue.isEmpty) && !s.busyTeam k

/-- An ended team leaves its core; the memory of a peloton's member stays for the others until the peloton's
grid is complete (R24, R47, R137; DESIGN CHOICE, log 91). -/
def State.vacate (s : State) (k : Nat) : State :=
  let t := s.team k
  if t.peloton && (s.grid? t.grid).isSome then
    s.modTeam k fun t => { t with groups := [], rows := 0, records := [], watches := [] }
  else
    { s with teams := s.teams.filter fun u => u.key != k && !(t.peloton && t.sibling u && u.departed) }

/-- A team ends (R24): records still undelivered go to the fault queue (R311). (DEDUCED, log 21) -/
def State.endTeam (s : State) (k : Nat) : State :=
  if s.teamDone k then
    let t := s.team k
    let s := s.traceEnd t
    let s := foldS (fun s r =>
      (s.faultQueue (t.ctx - 1) { r with flags := r.flags ||| flagExited }).1) s t.records
    let s := (s.dropSlips k t.core).modCore t.core fun c => c.freeTeam k
    let later := (s.grids.filter fun g => g.follows == some (t.grid, t.linear)).map (·.serial)
    (foldS State.teamOfGridEnds (s.teamOfGridEnds t.grid) later).vacate k
  else s

/-- Everything that ends by itself once its conditions hold. -/
def State.settle (s : State) (k : Nat) : State :=
  match s.team? k with
  | none => s
  | some t => (foldS (fun s (g : Group) => s.endGroup k g.index) s t.groups).endTeam k

end Sys2Proof.Machine
end

