-- ==== Sys2Proof/Machine/Launch.lean ====
section
/-! DEFINITION. Launch records, launch queues and the launch status (R15, R52, R360-R363). -/

namespace Sys2Proof.Machine

/-- Little-endian field of a byte list. -/
def fieldLe (bs : List Byte) (off n : Nat) : Nat := leNat ((bs.drop off).take n)

/-- A launch record's fields (R360). (DEDUCED, log 22, 77) -/
def parseRecord (bs : List Byte) : LaunchRec :=
  { seq := BitVec.ofNat 64 (fieldLe bs 0 8), kernel := BitVec.ofNat 32 (fieldLe bs 8 4),
    flags := BitVec.ofNat 16 (fieldLe bs 0x0C 2), core := BitVec.ofNat 16 (fieldLe bs 0x0E 2),
    arg := BitVec.ofNat 64 (fieldLe bs 0x10 8), gx := fieldLe bs 0x18 2, gy := fieldLe bs 0x1A 2,
    gz := fieldLe bs 0x1C 2, groups := fieldLe bs 0x1E 1, roles := fieldLe bs 0x1F 1,
    shape := (List.range 4).map fun r => (fieldLe bs (0x20 + 2 * r) 1, fieldLe bs (0x21 + 2 * r) 1),
    tm := fieldLe bs 0x28 4, rows := fieldLe bs 0x2C 4, spill := fieldLe bs 0x30 4,
    quantum := fieldLe bs 0x34 2, imgSize := fieldLe bs 0x36 2,
    cw := BitVec.ofNat 64 (fieldLe bs 0x38 8),
    waits := (List.range 4).map fun w =>
      (BitVec.ofNat 64 (fieldLe bs (0x40 + 16 * w) 8), BitVec.ofNat 64 (fieldLe bs (0x48 + 16 * w) 8)) }

def LaunchRec.peloton (r : LaunchRec) : Bool := r.flags.getLsbD 0
def LaunchRec.tmchk (r : LaunchRec) : Bool := r.flags.getLsbD 1
def LaunchRec.resume (r : LaunchRec) : Bool := r.flags.getLsbD 2
def LaunchRec.pin (r : LaunchRec) : Bool := r.flags.getLsbD 3
def LaunchRec.priority (r : LaunchRec) : Nat := r.flags.toNat / 16 % 4
def LaunchRec.teams (r : LaunchRec) : Nat := r.gx * r.gy * r.gz

/-- The roles a record uses: budget and group count (R52). -/
def LaunchRec.used (r : LaunchRec) : List (Nat × Nat) := r.shape.take r.roles

/-- Depth of a launch queue: grids that have not left it (R361, R362). -/
def State.depth (s : State) (ctx q : Nat) : Nat :=
  (s.grids.filter fun g => g.ctx == ctx && g.queue == q && !g.left).length

/-! Places in the order of the events of one dispatcher cycle (R362): a removal, records of the host in the order
they came, records of `launch` by core and lane. -/

def removalOrder : Nat := 0
def hostOrder : Nat := 1
def launchOrder (core lane : Nat) : Nat := 2 + core * 32 + lane

/-- An event touches a queue (R362): one that stands before the last event in the order of a cycle, or is a
second removal, belongs to the next cycle. (DESIGN CHOICE, log 52) -/
def State.queueEvent (s : State) (order : Nat) : State :=
  { s with disp := { s.disp with
      ahead := s.disp.ahead + if order < s.disp.order then 1 else 0
      order := max 1 order } }

/-- A record taken for a queue enters it, or is dropped when the queue holds 64 (R362, R363). -/
def State.enqueue (s : State) (ctx q : Nat) (r : LaunchRec) (order : Nat) : State × Bool :=
  let s := s.queueEvent order
  if s.depth ctx q < 64 then
    let g : Grid :=
      { serial := s.gridSerial, ctx := ctx, queue := q, entered := s.disp.cycle + s.disp.ahead, record := r, placed := 0, unended := r.teams,
        left := false, waited := 0, replay := none, follows := none,
        replayRecs := [] }
    ({ s with grids := s.grids ++ [g], gridSerial := s.gridSerial + 1 }, true)
  else
    (s.modCtx ctx fun f =>
      { f with overflow := true, lostSeq := if f.overflow then f.lostSeq else r.seq,
               drops := if f.drops < 65535 then f.drops + 1 else f.drops }, false)

end Sys2Proof.Machine
end

