-- ==== Sys2Proof/Machine/Fetch.lean ====
section
/-! DEFINITION. Choosing the issue set, fetching and decoding a clause, and the waits of its header
(R26, R34, R75-R77, R85-R89, R94, R96, R97, R310). -/

namespace Sys2Proof.Machine

/-! ### Service requests (R310) -/

/-- Writes a service request for a lane; none when it is answered FAIL at once. (DEDUCED, log 16) -/
def State.serviceRequest (s : State) (k g lane addr : Nat) (pc : Word) : State × Option Nat :=
  let t := s.team k
  let fn := t.ctx - 1
  let pos := (s.func fn).fqtail.toNat
  let (s, ok) := s.faultQueue fn (mkFault t (t.group g) codeNotPresent lane
    (flagPrecise ||| flagService) pc (BitVec.ofNat 64 addr))
  if ok then (s.modFunc fn fun f => { f with requests := f.requests ++ [(pos, k, g, lane)] }, some pos)
  else (s, none)

/-- Why a lane stops at a translation that fails (R151, R155, R310). (DEDUCED, log 16) -/
def State.faultWhy (s : State) (k g lane code addr : Nat) (pc : Word) : State × Why :=
  if code = codeNotPresent then
    match s.serviceRequest k g lane addr pc with
    | (s, some pos) => (s, .service pos addr)
    | (s, none) => (s, .trap code addr)
  else (s, .trap code addr)

/-! ### Fetching (R86, R97) -/

/-- The virtual address of a code offset (R86). -/
def codeVa (f : Func) (off : Word) : Nat := (f.codebase.toNat / 2 ^ 16 * 2 ^ 16 + off.toNat) % 2 ^ 52

/-- Key of an instruction-cache line: context and virtual line. -/
def lineKey (ctx va : Nat) : Nat := ctx * 2 ^ 46 + va / 64

/-- Fetches the word at a code offset through the core's instruction cache: a line still cached is
used, or has been dropped and is read again (log 14). -/
def State.fetchWord (s : State) (ctx core : Nat) (off : Word) : Except (Nat × Nat) (Word × State) :=
  let va := codeVa (s.ctxFunc ctx) off
  let pick (line : List Byte) : Word := BitVec.ofNat 32 (leNat ((line.drop (va % 64)).take 4))
  let cached := (tfind (s.core core).icache (lineKey ctx va)).filter fun _ =>
    Config.keepCached (4 * (s.tick * 2 ^ 52 + va / 64))
  match cached with
  | some line => .ok (pick line, s)
  | none =>
    match s.translate core ctx va .ex none with
    | (.page p, s) =>
      let pa := p.ppage * pageSize + va % pageSize / 64 * 64
      let line := s.hbmBytes pa 64
      .ok (pick line, (s.noteRead ctx (va / 64, pa)).modCore core fun c => { c with icache := tins c.icache (lineKey ctx va) line })
    | (.trap code, _) => .error (code, va)
    | (.mig, _) => .error (codeNotPresent, va)

/-- Consecutive words of code. (DESIGN CHOICE, log 14) -/
def State.fetchWords (s : State) (ctx core : Nat) (off : Word) (n : Nat) :
    Except (Nat × Nat) (List Word × State) :=
  match n with
  | 0 => .ok ([], s)
  | n + 1 =>
    match s.fetchWord ctx core off with
    | .error e => .error e
    | .ok (w, s) =>
      match State.fetchWords s ctx core (off + 4) n with
      | .error e => .error e
      | .ok (ws, s) => .ok (w :: ws, s)

/-! ### Header fields (R76) -/

def hdrCount (h : Word) : Nat := h.toNat / 2 ^ 28
def hdrClass (h : Word) : Nat := h.toNat / 2 ^ 25 % 8
def hdrWait (h : Word) : Nat := h.toNat / 2 ^ 19 % 64
def hdrGuard (h : Word) : Nat := h.toNat / 2 ^ 13 % 64
def hdrSense (h : Word) : Bool := h.getLsbD 12
def hdrRel (h : Word) : Bool := h.getLsbD 11

/-- Steps 1 and 2 of R85. (DEDUCED, log 29) -/
def headerFault (h : Word) : Option Nat :=
  if hdrCount h = 0 ∨ 5 < hdrClass h ∨ h.toNat % 2 ^ 11 ≠ 0 then some codeClause
  else if 48 ≤ hdrGuard h then some codeOperand else none

/-- Trap code of a word that does not decode (R85). (DEDUCED, log 29) -/
def decodeCode : DecodeError → Nat
  | .illegalOpcode => codeOpcode
  | .illegalClause => codeClause
  | .illegalOperand => codeOperand

/-- Steps 3 to 6 of R85 over the words from a slot on: the first that fails, with its slot. (DEDUCED, log 29) -/
def wordsFault (cls count : Nat) (ws : List Word) (slot fuel : Nat) : Option (Nat × Nat) :=
  match fuel, ws with
  | 0, _ => none
  | _, [] => none
  | fuel + 1, w :: rest =>
    let op := w.toNat / 2 ^ 24
    let len := if isFx op then 2 else 1
    match opClass op with
    | none => some (codeOpcode, slot)
    | some c =>
      if count < slot + len then some (codeClause, slot)
      else if (op ≠ 0 ∧ c ≠ cls) ∨ (isControlFlow op = true ∧ slot + len ≠ count) then
        some (codeClause, slot)
      else
        match decodeWords w.toNat (rest.headD 0).toNat with
        | .error e => some (decodeCode e, slot)
        | .ok _ => wordsFault cls count (rest.drop (len - 1)) (slot + len) fuel

/-- Step 7 of R85. -/
def releaseFault (rel : Word) (count : Nat) : Bool := rel.toNat / 2 ^ (2 * count) != 0

/-! ### Choosing the issue set (R26, R32, R34) -/

/-- Where a lane issues: its clause header with the slot to begin at (R96). (DEDUCED, log 12) -/
def Lane.start (x : Lane) : Word × Nat :=
  match x.mid with
  | some (h, o) => if o = x.pc then (h, ((o - h).toNat / 4) - 1) else (x.pc, 0)
  | none => (x.pc, 0)

/-- The READY lanes that stand where a lane stands. (DEDUCED, log 12) -/
def Group.sameStart (g : Group) (l : Nat) : Mask :=
  maskOf fun k => (g.lane k).st.isReady && (g.lane k).pc == (g.lane l).pc &&
    (g.lane k).start == (g.lane l).start

/-- The READY lane with the lowest PC (R26). -/
def Group.minLane (g : Group) : Option Nat :=
  (lanesOf g.readyLanes).foldl (fun acc l =>
    match acc with
    | none => some l
    | some m => if (g.lane l).pc.toNat < (g.lane m).pc.toNat then some l else some m) none

/-- The lane a cadence turn chooses: the greatest wait age outside the minimum set (R34). -/
def Group.turnLane (g : Group) (out : Mask) : Option Nat :=
  (lanesOf out).foldl (fun acc l =>
    match acc with
    | none => some l
    | some m => if (g.lane m).age < (g.lane l).age then some l else some m) none

/-- The cadence threshold (R33). (DEDUCED, log 10) -/
def Group.threshold (g : Group) : Nat := if g.limit.toNat < 16 then 16 else g.limit.toNat

/-- The issue set at the next clause header, and whether it is a cadence turn (R26, R34). (DEDUCED, log 12) -/
def Group.choose (g : Group) : Option (Nat × Mask × Bool) :=
  g.minLane.map fun m =>
    let set := g.sameStart m
    let out := g.readyLanes &&& ~~~set
    if g.threshold < g.timer ∧ out ≠ 0 then
      match g.turnLane out with
      | some l => (l, g.sameStart l, true)
      | none => (m, set, false)
    else (m, set, false)

/-! ### Waits (R94) -/

/-- The condition of a wait bit. -/
def State.waitDone (s : State) (k g bit : Nat) : Bool :=
  let x := s.group k g
  let mine (t i : Nat) : Bool := t == k && i == g
  match bit with
  | 0 => x.regsDone
  | 1 => x.pending.all (fun r => !r.atomic || r.need == 0) &&
      s.net.all fun p => !mine p.team p.group || p.isTag ||
        (match p.op with | .read _ _ _ _ _ _ _ => true | .test _ _ _ _ => true | _ => false)
  | 2 => s.copies.all fun o => !mine o.team o.group
  | 3 => s.mmaxs.all fun o => !mine o.team o.group
  | 4 =>
    ((s.core (s.team k).core).landing.all fun e =>
      !mine e.2.team e.2.group || e.2.complete || e.2.answered.all id) &&
    s.lands.all fun l => !mine l.team l.group
  | 5 => x.chprog.isNone
  | _ => true

/-- Every wait that a header selects. -/
def State.waitsDone (s : State) (k g : Nat) (h : Word) : Bool :=
  (List.range 6).all fun b => !(hdrWait h).testBit b || s.waitDone k g b

/-! ### Decoding a clause -/

/-- Lanes stop at a header: a decode trap or a fetch fault (R85, R86). -/
def State.stopAtHeader (s : State) (k g : Nat) (set : Mask) (why : Nat → LaneState) (traps : Bool) :
    State :=
  s.modGroup k g fun x =>
    let x := x.modLanes set fun l y => { y with st := why l }
    { x with clause := none, entry := if traps then some (x.entry.getD 0) else x.entry }

/-- A trap at a header in a supervisor handler (R307): the lanes stay READY there and the team halts. -/
def State.nestedHeader (s : State) (k g lane : Nat) (hdr : Word) (code : Nat) (addr : DWord) : State :=
  (s.modGroup k g fun x => { x with clause := none }).haltNested k g code lane hdr addr

/-- A decode trap in the issue set (R85): the offending word and its offset. -/
def State.decodeTrap (s : State) (k g : Nat) (set : Mask) (hdr : Word) (code : Nat) (word off : Word) :
    State :=
  let p : Pend := { code := code, addr := off.setWidth 64, word := word, pc := hdr, decode := true }
  if (s.group k g).inSup then s.nestedHeader k g ((lanesOf set).headD 0) hdr code (off.setWidth 64)
  else s.stopAtHeader k g set (fun _ => .parked (.trapped p)) true

/-- A fetch fault of one lane: it awaits service, or its code is pending (R86, R310); in a supervisor handler
a lane without service stays READY. Answers the first such lane too. -/
def State.fetchStop (k g : Nat) (hdr : Word) (code addr : Nat) (acc : State × Option Nat) (l : Nat) :
    State × Option Nat :=
  let p : Pend := { code := code, addr := BitVec.ofNat 64 addr, word := 0, pc := hdr, decode := true }
  let (s, why) := acc.1.faultWhy k g l code addr hdr
  match why with
  | .service pos _ => (s.stopAtHeader k g (1#32 <<< l) (fun _ => .parked (.service pos p)) false, acc.2)
  | _ =>
    if (s.group k g).inSup then
      (s.modGroup k g fun x => { x with clause := none }, acc.2.orElse fun _ => some l)
    else (s.stopAtHeader k g (1#32 <<< l) (fun _ => .parked (.trapped p)) true, acc.2)

/-- A fetch fault at the header: serviceable when the page is not present (R86, R310); in a supervisor
handler it halts the team where it is not served (R307). (DEDUCED, log 16) -/
def State.fetchFault (s : State) (k g : Nat) (set : Mask) (hdr : Word) (code addr : Nat) : State :=
  let r := (lanesOf set).foldl (State.fetchStop k g hdr code addr) (s, none)
  match r.2 with
  | none => r.1
  | some l => r.1.haltNested k g code l hdr (BitVec.ofNat 64 addr)

/-- The header issues (R89, R92): the guard is read, a clause execution begins, and the lanes stand at
the word that issues next. -/
def State.issueHeader (s : State) (k g : Nat) (h : Word) : State :=
  (s.modCtx (s.team k).ctx fun f => { f with work := f.work + 1 }).modGroup k g fun x =>
    match x.clause with
    | none => x
    | some c =>
      let x := x.newExecution
      let guard := maskOf fun l => (x.peek (.p (hdrGuard h)) l != 0) != hdrSense h
      let x := x.modLanes c.issue fun _ y => { y with pc := c.here, mid := none }
      { x with clause := some { c with guard := guard }, park := .none
               perf := { x.perf with clauses := x.perf.clauses + 1 } }

/-- A group comes to a clause header (R32, R34): the cadence timer starts again at a cadence turn, and where the
issue set holds every READY lane. -/
def Group.atHeader (g : Group) (set : Mask) (turn : Bool) : Group :=
  { g with
    timer := if turn || g.readyLanes &&& ~~~set == 0 then 0 else g.timer
    perf := { g.perf with cadence := g.perf.cadence + (if turn then 1 else 0) } }

/-- The group takes a clause: fetch, decode, and the header's wait (R85, R94). Every word is fetched before
one is checked, so that a fetch fault of a later word hides a decode trap of an earlier one (DESIGN CHOICE,
log 90). (DEDUCED, log 12) -/
def State.takeClause (s : State) (k g lane : Nat) (set : Mask) (turn : Bool) : State :=
  let t := s.team k
  let (hdr, slot) := (t.group g).lane lane |>.start
  let s := s.modGroup k g fun x => x.atHeader set turn
  match s.fetchWord t.ctx t.core hdr with
  | .error (code, addr) => s.fetchFault k g set hdr code addr
  | .ok (h, s) =>
    match headerFault h with
    | some code => s.decodeTrap k g set hdr code h hdr
    | none =>
      let n := hdrCount h + (if hdrRel h then 1 else 0)
      match s.fetchWords t.ctx t.core (hdr + 4) n with
      | .error (code, addr) => s.fetchFault k g set hdr code addr
      | .ok (ws, s) =>
        let words := ws.take (hdrCount h)
        let rel := if hdrRel h then ws.getD (hdrCount h) 0 else 0
        match wordsFault (hdrClass h) (hdrCount h) words 0 16 with
        | some (code, i) =>
          s.decodeTrap k g set hdr code (words.getD i 0) (hdr + BitVec.ofNat 32 (4 * (i + 1)))
        | none =>
          if hdrRel h && releaseFault rel (hdrCount h) then
            s.decodeTrap k g set hdr codeClause rel (hdr + BitVec.ofNat 32 (4 * (hdrCount h + 1)))
          else
            let s := s.modGroup k g fun x =>
              { x with
                clause := some { hdr := hdr, words := words, rel := rel, hasRel := hdrRel h,
                                 cls := hdrClass h, issue := set, guard := 0, slot := slot,
                                 cadence := turn } }
            if s.waitsDone k g h then s.issueHeader k g h
            else s.modGroup k g fun x => { x with park := .header h }

/-- A group may take its next clause: it is resident and running, holds no clause, waits at no `bar` in
mid-clause (R96), and no entry is due. -/
def Team.mayDecode (t : Team) (g : Group) : Bool :=
  t.running g && g.clause.isNone && g.park == .none && !g.midBar && !g.entryDue

end Sys2Proof.Machine
end

