-- ==== Sys2Proof/Machine/Control.lean ====
section
/-! DEFINITION. Control flow and rejoin slots (R28-R31, R104-R106), and the undefined opcode (R84). -/

namespace Sys2Proof.Machine

/-- Applies a change of the state to a next state. -/
def onNext (o : Host.Outcome State Fault Refusal) (f : State → State) : Host.Outcome State Fault Refusal :=
  match o with
  | .next s => .next (f s)
  | .fault x => .fault x
  | .refused x => .refused x

/-- A byte offset of the call stack (R105). -/
def Lane.lspBytes (x : Lane) : Nat := x.lsp.toNat * 4

/-- The lanes of the issue set in which a control word takes no effect fall through (R90). -/
def State.fallThrough (s : State) (i : Instr) : State :=
  let c := s.cl
  s.modCg fun g => g.modLanes (c.issue &&& ~~~s.active i) fun _ x => { x with pc := c.fall }

/-- Moves one lane to a target, pushing the return offset on request (R104): the state, or the trap. -/
def State.jump (s : State) (l : Nat) (t : Word) (push : Bool) : State × List LaneStop :=
  let x := s.cg.lane l
  if t.toNat % 4 ≠ 0 then (s, [{ lane := l, why := .trap codeMisaligned t.toNat }])
  else if push then
    if x.lspBytes < 4 ∨ s.ct.spill < x.lspBytes then (s, [{ lane := l, why := .trap codeRange x.lspBytes }])
    else
      let fall := s.cl.fall
      (s.modCg fun g =>
        let g := { g with spill := g.spill.writeN (spillKey l (x.lspBytes - 4)) (leBytes 4 fall.toNat) }
        g.modLane l fun x => { x with pc := t, lsp := x.lsp - 1 }, [])
  else (s.modCg fun g => g.modLane l fun x => { x with pc := t }, [])

/-- Runs a step over lanes in turn, collecting the stops. -/
def overLanes (s : State) (lanes : List Nat) (f : State → Nat → State × List LaneStop) :
    State × List LaneStop :=
  lanes.foldl (fun acc l =>
    let r := f acc.1 l
    (r.1, acc.2 ++ r.2)) (s, [])

/-- A branch: active lanes go to their target. (DEDUCED, log 13) -/
def State.branch (s : State) (i : Instr) (push : Bool) (target : State → Nat → Word) :
    Host.Outcome State Fault Refusal :=
  s.run i fun s =>
    let r := overLanes (s.fallThrough i) (lanesOf (s.active i)) fun s l => s.jump l (target s l) push
    .done r.1 r.2

/-- Target of a direct branch (R80). -/
def State.direct (s : State) {w : Nat} (off : BitVec w) : Word := s.cl.here + off.signExtend 32 * 4

def execNop (m : Mods) (s : State) := s.run (.nop m) fun s => .done s []
def execBra (off : BitVec 21) (m : Mods) (s : State) := s.branch (.bra off m) false fun s _ => s.direct off
def execBrx (o : OpA) (s : State) := s.branch (.brx o) false fun s l => s.cg.rg o.a l
def execCall (off : BitVec 21) (m : Mods) (s : State) := s.branch (.call off m) true fun s _ => s.direct off
def execCallx (o : OpA) (s : State) := s.branch (.callx o) true fun s l => s.cg.rg o.a l

/-- `ret`: the pop of one lane (R104). (DEDUCED, log 13) -/
def State.popLane (s : State) (l : Nat) : State × List LaneStop :=
  let x := s.cg.lane l
  if s.ct.spill < x.lspBytes + 4 then (s, [{ lane := l, why := .trap codeRange x.lspBytes }])
  else if s.skEcc s.ct s.cg l x.lspBytes 4 then (s, [{ lane := l, why := .trap codeEcc x.lspBytes }])
  else
    let t : Word := BitVec.ofNat 32 (s.cg.spill.readLe (spillKey l x.lspBytes) 4)
    if t.toNat % 4 ≠ 0 then (s, [{ lane := l, why := .trap codeMisaligned t.toNat }])
    else (s.modCg fun g => g.modLane l fun x => { x with pc := t, lsp := x.lsp + 1 }, [])

def execRet (m : Mods) (s : State) :=
  s.run (.ret m) fun s =>
    let r := overLanes (s.fallThrough (.ret m)) (lanesOf (s.active (.ret m))) State.popLane
    .done r.1 r.2

/-- Lanes exit (R23, R31, R309): they leave every member mask, or end as handler lanes. (DEDUCED, log 13) -/
def State.exitLanes (s : State) (act : Mask) : State :=
  let s := s.modCg fun g =>
    let g := g.modLanes act fun _ x => { x with st := .exited }
    let g := { g with exmask := if g.inHandler then g.exmask else g.exmask ||| act }
    (List.range 8).foldl (Group.leaveSlot act) g
  if s.cg.inHandler && s.cg.lanesIn LaneState.isExited == fullMask then s.endHandler s.curTeam s.curGroup else s

def execExit (m : Mods) (s : State) :=
  let k := s.curTeam
  onNext (s.run (.exit m) fun s => .done ((s.fallThrough (.exit m)).exitLanes (s.active (.exit m))) [])
    fun s => s.settle k

/-- `enrol`: the issue set joins the slot, guarded-off lanes too (R29); a handler's are its own (R306). (DEDUCED,
log 13) -/
def execEnrol (j : BitVec 3) (off : BitVec 18) (m : Mods) (s : State) :=
  s.run (.enrol j off m) fun s =>
    let r := s.cg.slotJ j.toNat
    let t := s.direct off
    let set := s.cl.issue
    if r.members ≠ 0 ∧ r.target ≠ t then .done s (trapLanes set codeOperand 0)
    else
      .done (s.modCg fun g =>
        (g.setOwn j.toNat (g.ownMembers j.toNat ||| set &&& ~~~r.members)).setSlotJ j.toNat
          { members := r.members ||| set, arrived := r.arrived, target := t }) []

/-- `rejoin`: enrolled lanes arrive and wait for the other members (R30). -/
def execRejoin (j : BitVec 3) (m : Mods) (s : State) :=
  s.run (.rejoin j m) fun s =>
    let c := s.cl
    let r := s.cg.slotJ j.toNat
    let act := s.active (.rejoin j m)
    let here := act &&& r.members
    let wrong := here != 0 && r.target != c.hdr
    let s := s.fallThrough (.rejoin j m)
    let s := s.modCg fun g => g.modLanes (act &&& ~~~here) fun _ x => { x with pc := c.fall }
    if wrong then .done s (trapLanes here codeOperand 0)
    else if here = 0 then .done s []
    else
      .done (s.modCg fun g =>
        let g := g.modLanes here fun _ x => { x with pc := c.fall, st := .rejoin j.toNat }
        (g.setSlotJ j.toNat { r with arrived := r.arrived ||| here }).testRejoin j.toNat) []

/-- `yield`: the lanes fall through, and the next header takes a cadence turn when READY lanes wait
(R104); the slot the word uses brings the timer past the threshold. -/
def execYield (m : Mods) (s : State) :=
  s.run (.yield m) fun s =>
    let c := s.cl
    let waiting := s.cg.readyLanes &&& ~~~c.issue
    let s' := s.modCg fun g => g.modLanes c.issue fun _ x => { x with pc := c.fall }
    if waiting = 0 then .done s' []
    else .done (s'.modCg fun g => { g with timer := g.threshold }) []

/-- `udf` traps ILLEGAL_OPCODE at decode (R84, R85). -/
def execUdf (u : BitVec 24) (s : State) : Host.Outcome State Fault Refusal :=
  let c := s.cl
  .next (s.decodeTrap s.curTeam s.curGroup c.issue c.hdr codeOpcode (0xFF000000 ||| u.setWidth 32) c.here)

/-! ### Events of the issue front end -/

/-- CLAUSE_DECODE: the group takes the clause at its issue address (R26, R85). -/
def execClauseDecode (t g : Nat) (s : State) : Host.Outcome State Fault Refusal :=
  let x := s.group t g
  if (s.team? t).isSome && (s.team t).mayDecode x then
    match x.choose with
    | some (l, set, false) => .next (s.takeClause t g l set false)
    | _ => .fault .notEnabled
  else .fault .notEnabled

/-- CADENCE_TURN: the timer exceeds its limit and a READY lane waits outside the minimum set (R34). -/
def execCadenceTurn (t g : Nat) (s : State) : Host.Outcome State Fault Refusal :=
  let x := s.group t g
  if (s.team? t).isSome && (s.team t).mayDecode x then
    match x.choose with
    | some (l, set, true) => .next (s.takeClause t g l set true)
    | _ => .fault .notEnabled
  else .fault .notEnabled

/-- A wait of a running group is over: its word or header issues. -/
def State.endWait (s : State) (t g : Nat) (ok : Park → Bool) (f : State → State) :
    Host.Outcome State Fault Refusal :=
  let x := s.group t g
  if (s.team? t).isSome && (s.team t).running x && ok x.park then .next (f s) else .fault .notEnabled

/-- HEADER_WAIT_RELEASE: every condition of the header's wait holds (R94). -/
def execHeaderWaitRelease (t g : Nat) (s : State) : Host.Outcome State Fault Refusal :=
  match (s.group t g).park with
  | .header h =>
    s.endWait t g (fun _ => s.waitsDone t g h && !(s.group t g).entryDue) fun s => s.issueHeader t g h
  | _ => .fault .notEnabled

/-- SWITCH_PARK_RELEASE: the condition of wait bit 0 holds after a marked word (R95). -/
def execSwitchParkRelease (t g : Nat) (s : State) : Host.Outcome State Fault Refusal :=
  s.endWait t g (fun p => p == .sMark && (s.group t g).regsDone) fun s =>
    s.modGroup t g fun x => { x with park := .none }

/-- SCOREBOARD_RELEASE: no name the held word reads is pending, nor one it writes (R42, R93). -/
def execScoreboardRelease (t g : Nat) (s : State) : Host.Outcome State Fault Refusal :=
  let x := s.group t g
  let c := x.cl
  let free := match decodeWords c.word.toNat (c.words.getD (c.slot + 1) 0).toNat with
    | .ok i => !x.holds i
    | .error _ => true
  s.endWait t g (fun p => p == .scoreboard && free) fun s =>
    s.modGroup t g fun x => { x with park := .none }

/-- LONG_LATENCY_RESULT_LANDS: a result whose values have returned enters the registers, or waits for
the end of the clause execution that issued it (R91, R92); the group may end with it (R23). -/
def execLongLatencyResultLands (t g i : Nat) (s : State) : Host.Outcome State Fault Refusal :=
  match (s.group t g).pending[i]? with
  | none => .fault .notEnabled
  | some r =>
    if r.need ≠ 0 ∨ r.landed = true then .fault .notEnabled
    else
      let s := s.modGroup t g fun x =>
        if r.seq = x.seq ∧ x.clause.isSome then
          { x with pending := x.pending.set i { r with landed := true } }
        else x.applyAt i
      .next (s.settle t)

/-- A group that an entry can find: not held at a word that has begun (R303). -/
def Park.entryFree : Park → Bool
  | .none => true | .retry => true | .sMark => true | .scoreboard => true | .header _ => true
  | .barMid _ => true | _ => false

/-- HANDLER_ENTRY: an entry that is due drains the queue, and delivers its code once the group's results have
landed (R303, R304). -/
def execHandlerEntry (t g : Nat) (s : State) : Host.Outcome State Fault Refusal :=
  let x := s.group t g
  if (s.team? t).isSome && (s.team t).running x && x.entryDue && x.park.entryFree then
    if x.regsDone then .next (s.enterPending t g)
    else if x.entering then .fault .notEnabled
    else .next ((s.drain t g).modGroup t g fun x => { x with entering := true })
  else .fault .notEnabled

end Sys2Proof.Machine
end

