-- ==== Sys2Proof/Machine/Integer.lean ====
section
/-! DEFINITION. Integer instructions (R107-R109). -/

namespace Sys2Proof.Machine

/-! ### Operations on words -/

/-- Shifts by a word; 32 and more shift everything out (R107). -/
def shlW (a b : Word) : Word := if b.toNat < 32 then a <<< b.toNat else 0
def shrW (a b : Word) : Word := if b.toNat < 32 then a >>> b.toNat else 0
def sarW (a b : Word) : Word := a.sshiftRight (if b.toNat < 32 then b.toNat else 31)

/-- Magnitude; the most negative value is its own (R107). -/
def absW (a : Word) : Word := if a.msb then -a else a

/-- Leading zeros; 32 of 0 (R107). -/
def clzW (a : Word) : Word := BitVec.ofNat 32 (32 - bitLen a.toNat)

/-- Number of ones (R107). -/
def popcW (a : Word) : Word := BitVec.ofNat 32 ((List.range 32).countP fun i => a.getLsbD i)

/-- Bits in reverse order (R107). -/
def brevW (a : Word) : Word := maskOf fun i => a.getLsbD (31 - i)

/-- A word as the integer its type makes it (R109). -/
def intOf (t : IntTy) (a : Word) : Int :=
  match t with | .i32 => a.toInt | .w32 => (a.toNat : Int)

/-- An integer modulo 2^32. -/
def wordOfInt (v : Int) : Word := BitVec.ofInt 32 v

/-- An integer clamped to the range of a type (R109). -/
def clampTo (t : IntTy) (v : Int) : Word :=
  match t with
  | .i32 => wordOfInt (if v < -2147483648 then -2147483648 else if 2147483647 < v then 2147483647 else v)
  | .w32 => wordOfInt (if v < 0 then 0 else if 4294967295 < v then 4294967295 else v)

/-- Whether a comparison holds of two integers (R101). -/
def cmpInt (c : Cmp) (a b : Int) : Bool :=
  match c with
  | .eq => a == b | .ne => a != b | .lt => decide (a < b) | .le => decide (a ≤ b)
  | .gt => decide (b < a) | .ge => decide (b ≤ a)

/-- Position and length of a bit field (R109). -/
def fieldPos (b : Word) : Nat := min (b.toNat % 256) 32
def fieldLen (b : Word) : Nat := min (b.toNat / 256 % 256) (32 - fieldPos b)

/-- Bit-field extraction (R109). -/
def bfeW (t : IntTy) (a b : Word) : Word :=
  let len := fieldLen b
  let f := a.toNat / 2 ^ fieldPos b % 2 ^ len
  if len = 0 then 0
  else match t with
    | .w32 => BitVec.ofNat 32 f
    | .i32 => if f < 2 ^ (len - 1) then BitVec.ofNat 32 f else BitVec.ofNat 32 (f + (2 ^ 32 - 2 ^ len))

/-- Bit-field insertion (R109). -/
def bfiW (a b c : Word) : Word :=
  let m : Word := BitVec.ofNat 32 ((2 ^ fieldLen b - 1) * 2 ^ fieldPos b)
  (c &&& ~~~m) ||| (shlW a (BitVec.ofNat 32 (fieldPos b)) &&& m)

/-- Scaled sum with an offset (R109). -/
def leaW (a b : Word) (imm : BitVec 24) (sh : BitVec 5) : Word :=
  a + (b <<< sh.toNat) + imm.signExtend 32

/-- The two words of a 64-bit value, low first (R108). -/
def pairWords (v : Nat) : List Word := [BitVec.ofNat 32 v, BitVec.ofNat 32 (v / 2 ^ 32)]

/-- A predicate value as a register value. -/
def predWord (b : Bool) : Word := if b then 1 else 0

/-- The operand of a comparison (R108). -/
def cmpVal (g : Group) (t : CmpTy) (r : BitVec 7) (l : Nat) : Int :=
  match t with
  | .i32 => (g.rg r l).toInt
  | .w32 => ((g.rg r l).toNat : Int)
  | .i64 => (BitVec.ofNat 64 (g.rg64 r l)).toInt
  | .w64 => (g.rg64 r l : Int)

/-! ### Meanings -/

/-- A result of one word from operands a and b. -/
def State.intAB (s : State) (i : Instr) (a b : BitVec 7) (f : Word → Word → Word) :
    Host.Outcome State Fault Refusal :=
  s.alu i fun g l => [f (g.rg a l) (g.rg b l)]

/-- A result of one word from operand a. -/
def State.intA (s : State) (i : Instr) (a : BitVec 7) (f : Word → Word) :
    Host.Outcome State Fault Refusal :=
  s.alu i fun g l => [f (g.rg a l)]

def execAdd (o : OpDAB) (s : State) := s.intAB (.add o) o.a o.b fun a b => a + b
def execSub (o : OpDAB) (s : State) := s.intAB (.sub o) o.a o.b fun a b => a - b
def execMul (o : OpDAB) (s : State) := s.intAB (.mul o) o.a o.b fun a b => a * b

/-- `mulhi`: bits 63 to 32 of the exact product (R109). -/
def execMulhi (o : OpDABT) (s : State) :=
  s.intAB (.mulhi o) o.a o.b fun a b => wordOfInt (intOf o.t a * intOf o.t b / 2 ^ 32)

/-- `mad`: product and sum exact, then saturated or wrapped (R109). -/
def execMad (o : OpDABC) (t : IntTy) (sat : Bool) (s : State) :=
  s.alu (.mad o t sat) fun g l =>
    let v := intOf t (g.rg o.a l) * intOf t (g.rg o.b l) + intOf t (g.rg o.c l)
    [if sat then clampTo t v else wordOfInt v]

def execMin (o : OpDABT) (s : State) :=
  s.intAB (.min o) o.a o.b fun a b => if intOf o.t a ≤ intOf o.t b then a else b
def execMax (o : OpDABT) (s : State) :=
  s.intAB (.max o) o.a o.b fun a b => if intOf o.t b ≤ intOf o.t a then a else b
def execAbs (o : OpDA) (s : State) := s.intA (.abs o) o.a absW
def execNeg (o : OpDA) (s : State) := s.intA (.neg o) o.a fun a => -a
def execAnd (o : OpDAB) (s : State) := s.intAB (.and o) o.a o.b fun a b => a &&& b
def execOr (o : OpDAB) (s : State) := s.intAB (.or o) o.a o.b fun a b => a ||| b
def execXor (o : OpDAB) (s : State) := s.intAB (.xor o) o.a o.b fun a b => a ^^^ b
def execNot (o : OpDA) (s : State) := s.intA (.not o) o.a fun a => ~~~a
def execShl (o : OpDAB) (s : State) := s.intAB (.shl o) o.a o.b shlW
def execShr (o : OpDAB) (s : State) := s.intAB (.shr o) o.a o.b shrW
def execSar (o : OpDAB) (s : State) := s.intAB (.sar o) o.a o.b sarW
def execClz (o : OpDA) (s : State) := s.intA (.clz o) o.a clzW
def execPopc (o : OpDA) (s : State) := s.intA (.popc o) o.a popcW
def execBrev (o : OpDA) (s : State) := s.intA (.brev o) o.a brevW
def execBfe (o : OpDABT) (s : State) := s.intAB (.bfe o) o.a o.b (bfeW o.t)
def execBfi (o : OpDABC) (s : State) :=
  s.alu (.bfi o) fun g l => [bfiW (g.rg o.a l) (g.rg o.b l) (g.rg o.c l)]
def execSel (o : OpDAB) (p : BitVec 6) (s : State) :=
  s.alu (.sel o p) fun g l => [if g.rp p l then g.rg o.a l else g.rg o.b l]
def execMov (o : OpDA) (s : State) := s.intA (.mov o) o.a id
def execMovi (d : BitVec 7) (imm : Word) (m : Mods) (s : State) := s.alu (.movi d imm m) fun _ _ => [imm]
def execAddi (o : OpDA) (imm : BitVec 7) (s : State) :=
  s.intA (.addi o imm) o.a fun a => a + imm.signExtend 32
def execLea (o : OpDAB) (imm : BitVec 24) (sh : BitVec 5) (s : State) :=
  s.intAB (.lea o imm sh) o.a o.b fun a b => leaW a b imm sh

/-- `add64`, `sub64`: register pairs, modulo 2^64 (R108). -/
def execAdd64 (o : OpDAB) (s : State) :=
  s.alu (.add64 o) fun g l => pairWords (g.rg64 o.a l + g.rg64 o.b l)
def execSub64 (o : OpDAB) (s : State) :=
  s.alu (.sub64 o) fun g l => pairWords (g.rg64 o.a l + 2 ^ 64 - g.rg64 o.b l)

/-- `isetp`: the comparison goes to a predicate (R109). -/
def execIsetp (p : BitVec 6) (a b : BitVec 7) (cc : Cmp) (t : CmpTy) (m : Mods) (s : State) :=
  s.alu (.isetp p a b cc t m) fun g l => [predWord (cmpInt cc (cmpVal g t a l) (cmpVal g t b l))]

def execShli (o : OpShiftI) (s : State) := s.intA (.shli o) o.a fun a => a <<< o.n.toNat
def execShri (o : OpShiftI) (s : State) := s.intA (.shri o) o.a fun a => a >>> o.n.toNat
def execSari (o : OpShiftI) (s : State) := s.intA (.sari o) o.a fun a => a.sshiftRight o.n.toNat

end Sys2Proof.Machine
end

