-- ==== Sys2Proof/Machine/Memory.lean ====
section
/-! DEFINITION. Loads, stores, atomics, fences, presence and tags (R194-R205), and the events by which
homes perform packets (R144, R162, R172). -/

namespace Sys2Proof.Machine

/-- TEST mode (R177). -/
def Team.test (t : Team) : Bool := t.mode == 1

/-- One separately performed part of an element access: offset, type, elements and registers. -/
structure Piece where
  off : Nat
  ty : MTy
  n : Nat
  names : List RegName
  deriving DecidableEq, Repr

/-- The parts of a load: one, or in TEST mode one for each 4-byte element (R177). -/
def loadPieces (test : Bool) (t : MTy) (n : Nat) (names : List RegName) : List Piece :=
  if !test || t.size * n ≤ 4 then [{ off := 0, ty := t, n := n, names := names }]
  else if t.size = 8 then
    names.zipIdx.map fun x => { off := 4 * x.2, ty := .w32, n := 1, names := [x.1] }
  else
    let per := 4 / t.size
    (List.range (t.size * n / 4)).map fun j =>
      { off := 4 * j, ty := t, n := per, names := (names.drop (j * per)).take per }

/-- The parts of a store. -/
def storePieces (test : Bool) (l : TmLoc) (bs : List Byte) : List (TmLoc × List Byte) :=
  if !test || bs.length ≤ 4 then [(l, bs)]
  else (List.range (bs.length / 4)).map fun j =>
    ({ l with addr := l.addr + 4 * j }, (bs.drop (4 * j)).take 4)

/-- The lowest active lane of a word, those counted that it has dealt with (R209). -/
def State.lowLane (s : State) (i : Instr) : Nat := (lanesOf (s.active i ||| s.cg.accepted)).headD 0

/-- The sample armed in the issuing group, for the access of the word's lowest active lane (R330). -/
def State.takeSample (s : State) (i : Instr) (lane addr : Nat) : Option SampleInfo :=
  if lane = s.lowLane i then
    s.cg.sample.map fun a =>
      { loc := { team := s.curTeam, addr := a }, opcode := s.cl.op, lane := lane, pc := s.cl.here,
        addr := BitVec.ofNat 64 addr }
  else none

/-- An armed sample is taken; it stays armed where that lane makes no eligible access. (DESIGN CHOICE, log 60) -/
def State.clearSample (s : State) (taken : Bool) : State :=
  if taken then s.modCg fun g => { g with sample := none } else s

/-- Sends the reads of one lane. -/
def State.sendReads (s : State) (id lane fwdLane : Nat) (l : TmLoc) (ps : List Piece) (pro : Bool)
    (smp : Option SampleInfo) : State :=
  let fwd := s.cg.forwards fwdLane l
  foldS (fun s (p : Piece) =>
    s.send s.fresh s.ct s.curGroup { l with addr := l.addr + p.off }
      (.read id lane p.names p.ty p.n ((fwd (p.off + p.ty.size * p.n)).drop p.off) pro) none none
      (if p.off = 0 then smp else none)) s ps

/-! ### ld and ldu -/

/-- The checks of a load's active lanes. -/
def State.ldChecks (s : State) (i : Instr) (ad : Addr) (w : Nat) : List (Nat × Chk Place) :=
  (lanesOf (s.active i)).map fun l => (l, s.checkElem s.ct s.cg l ad.sp (eaOf ad s.cg l) w true false)

/-- A place whose lines are not all present (R144). -/
def State.absentPlace (s : State) (pl : Place) (n : Nat) : Bool :=
  match pl with
  | .sk _ => false
  | .tm l => !s.present l n

/-- Some lane that passes its checks reads an absent line (R144). -/
def State.ldBlocked (s : State) (i : Instr) (ad : Addr) (w : Nat) : Bool :=
  (sortChecks (s.ldChecks i ad w)).1.any fun x => s.absentPlace x.2 w

/-- `ld` (R197). -/
def execLd (d : BitVec 7) (ad : Addr) (t : MTy) (v : Vec) (acq : Option Scope) (pro : Bool) (m : Mods)
    (s : State) : Host.Outcome State Fault Refusal :=
  let i : Instr := .ld d ad t v acq pro m
  let w := t.size * v.count
  let names := gBlock d (t.regs * v.count)
  s.access i fun s =>
    if s.ldBlocked i ad w then .wait s .ld
    else
      let r := sortChecks (s.ldChecks i ad w)
      let g := s.cg
      let sk := r.1.flatMap fun x => match x.2 with
        | .sk off => regWrites names x.1 (loadWords t v.count (g.skBytes x.1 off w))
        | .tm _ => []
      let tm := r.1.filterMap fun x => match x.2 with | .tm l => some (x.1, l) | .sk _ => none
      let id := s.fresh
      let s' := s.next.modCg fun g => g.await id names (lanesMask r.1) (lanesMask tm) sk true false acq.isSome
      let s' := foldS (fun s' (x : Nat × TmLoc) =>
        s'.sendReads id x.1 x.1 x.2 (loadPieces s.ct.test t v.count names) pro
          (s.takeSample i x.1 (eaOf ad g x.1))) s' tm
      .done (s'.clearSample (tm.any fun x => x.1 == s.lowLane i)) r.2

/-- The check of `ldu`, made once, for the lowest active lane (R198). (DEDUCED, log 18) -/
def State.lduCheck (s : State) (i : Instr) (ad : Addr) (w : Nat) : Chk Place :=
  s.checkElem s.ct s.cg ((lanesOf (s.active i)).headD 0) ad.sp (eaOf ad s.cg 0) w true false

/-- `ldu` (R198). -/
def execLdu (d : BitVec 6) (ad : Addr) (t : MTy) (v : Vec) (m : Mods) (s : State) :
    Host.Outcome State Fault Refusal :=
  let i : Instr := .ldu d ad t v m
  let w := t.size * v.count
  let names := sBlock d (t.regs * v.count)
  s.access i fun s =>
    let act := s.active i
    if act = 0 then .done s []
    else
      match s.lduCheck i ad w with
      | .error e => .done s (trapLanes act e.1 e.2)
      | .ok pl =>
        match pl with
        | .sk _ => .done s (trapLanes act codeRange (eaOf ad s.cg 0))
        | .tm l =>
          if !s.present l w then .wait s .ld
          else
            let low := (lanesOf act).headD 0
            let id := s.fresh
            let s' := s.next.modCg fun g => g.await id names 1 1 [] true false false
            .done ((s'.sendReads id 0 low l (loadPieces s.ct.test t v.count names) false
              (s.takeSample i low (eaOf ad s.cg 0))).clearSample true) []

/-! ### st -/

/-- `st` (R197, R163-R165). A plain one waits at issue for a berth range of its own team; the home of another
team's memory holds the bytes (R257). -/
def execSt (b : BitVec 7) (ad : Addr) (t : MTy) (v : Vec) (rel : Option Scope) (m : Mods) (s : State) :
    Host.Outcome State Fault Refusal :=
  let i : Instr := .st b ad t v rel m
  let w := t.size * v.count
  (if rel.isSome then s.drainAt i else s).access i fun s =>
    let g := s.cg
    let r := sortChecks ((lanesOf (s.active i)).map fun l =>
      (l, s.checkElem s.ct g l ad.sp (eaOf ad g l) w false true))
    let data := r.1.map fun x => (x.1, x.2, storeBytes t v.count g b x.1)
    let tm : List LaneWrite := data.filterMap fun x => match x.2.1 with
      | .tm l => some { lane := x.1, loc := l, bytes := x.2.2 }
      | .sk _ => none
    let held := tm.any fun x => x.loc.team == s.curTeam && s.berthHeld s.fresh x.loc w
    if rel.isNone && held then .wait s .engine
    else
      let s1 := s.modCg fun g => data.foldl (fun g x => match x.2.1 with
        | .sk off => g.skPuts x.1 off x.2.2
        | .tm _ => g) g
      let parts := tm.flatMap fun x => (storePieces s.ct.test x.loc x.bytes).map fun p =>
        { x with loc := p.1, bytes := p.2 }
      let s2 :=
        if tm.isEmpty then s1
        else if rel.isSome then s1.sendWrites s.ct s.curGroup tm rel none
        else if s.ct.test then s1.sendWrites s.ct s.curGroup parts none none
        else
          let full := decide (s.ct.quantum ≤ s1.cg.entries)
          let s1 := if full then
              (s1.drain s.curTeam s.curGroup).modCg fun g => { g with qovf := true }
            else s1
          s1.modCg fun g => { g with queue := g.queue ++ [.entry tm] }
      .done s2 r.2

/-! ### Presence (R199) -/

/-- The range of `pwait` in a lane. -/
def State.pwaitCheck (s : State) (ad : Addr) (b : BitVec 7) (l : Nat) : Chk (Option TmLoc) :=
  let n := (s.cg.rg b l).toNat
  let a := eaOf ad s.cg l
  if n = 0 then .ok none
  else match s.place s.ct s.cg ad.sp a n with
    | some (.tm loc) => .ok (some loc)
    | _ => .error (codeRange, a)

/-- Some lane's range has an absent line. -/
def State.pwaitBlocked (s : State) (i : Instr) (ad : Addr) (b : BitVec 7) : Bool :=
  (lanesOf (s.active i)).any fun l => match s.pwaitCheck ad b l with
    | .ok (some loc) => !s.present loc (s.cg.rg b l).toNat
    | _ => false

def execPwait (b : BitVec 7) (ad : Addr) (m : Mods) (s : State) : Host.Outcome State Fault Refusal :=
  let i : Instr := .pwait b ad m
  s.access i fun s =>
    if s.pwaitBlocked i ad b then .wait s .pwait
    else .done s (sortChecks ((lanesOf (s.active i)).map fun l => (l, s.pwaitCheck ad b l))).2

def execPtest (p : BitVec 6) (ad : Addr) (m : Mods) (s : State) : Host.Outcome State Fault Refusal :=
  let i : Instr := .ptest p ad m
  s.access i fun s =>
    let r := sortChecks ((lanesOf (s.active i)).map fun l =>
      (l, match s.place s.ct s.cg ad.sp (eaOf ad s.cg l) 1 with
        | some (.tm loc) => (.ok loc : Chk TmLoc)
        | _ => .error (codeRange, eaOf ad s.cg l)))
    let ws := r.1.flatMap fun x => regWrites (writeNames i) x.1 [predWord (!s.lineAbsent x.2)]
    .done (s.writeLater (writeNames i) (lanesMask r.1) ws) r.2

/-! ### Atomics (R200, R201, R178) -/

/-- The grid of a team buffers floating-point reductions (R178). (DEDUCED, log 68) -/
def State.replaying (s : State) (t : Team) : Bool :=
  match s.grid? t.grid with
  | some g => g.replay == some true
  | none => false

/-- Records that the replay buffer of a context holds (R178). (DEDUCED, log 68) -/
def replayRoom (f : Func) : Nat := f.replaybuf.toNat / 2 ^ 52 * 2048

/-- Records a floating-point reduction of a lane, or traps when the buffer is full (R178). (DEDUCED, log 68) -/
def State.recordRed (s : State) (l a : Nat) (loc : TmLoc) (op : AOp) (v : Word) : State × List LaneStop :=
  let t := s.ct
  let f := s.ctxFunc t.ctx
  if replayRoom f ≤ f.replayUsed then (s, [{ lane := l, why := .trap codeRange a }])
  else
    let s := s.modCtx t.ctx fun f => { f with replayUsed := f.replayUsed + 1 }
    (s.modGrid t.grid fun g =>
      { g with replayRecs := g.replayRecs ++
          [(t.linear, s.curGroup * 32 + l, g.replayRecs.length, loc, op, v)] }, [])

/-- Operand words of an atomic: one, or a pair. -/
def atomOperand (g : Group) (wide : Bool) (r l : Nat) : DWord :=
  BitVec.ofNat 64 ((g.read (.g r) l).toNat +
    (if wide then (g.read (.g (r + 1)) l).toNat * 2 ^ 32 else 0))

/-- The checks of an atomic's active lanes; `result` when it returns data. -/
def State.atomChecks (s : State) (i : Instr) (ad : AddrX) (w : Nat) (result : Bool) : List (Nat × Chk TmLoc) :=
  (lanesOf (s.active i)).map fun l =>
    let a := eaOfX ad s.cg l
    (l, match if result then s.checkElem s.ct s.cg l (spOfX ad) a w true true
          else s.checkUpdate s.ct s.cg l (spOfX ad) a w true true with
      | .ok (.tm loc) => .ok loc
      | .ok (.sk _) => .error (codeRange, a)
      | .error e => .error e)

/-- Sends the atomics of the lanes that pass, in lane order (R201). -/
def State.sendAtomics (s : State) (lanes : List (Nat × TmLoc)) (res : Option Nat) (names : List RegName)
    (t : ATy) (op : Option AOp) (b : BitVec 7) (rel : Option Scope) (pro : Bool)
    (smp : Nat → Option SampleInfo) : State :=
  let g := s.cg
  let n := if t.wide then 2 else 1
  let id := s.fresh
  foldS (fun s x =>
    s.send id s.ct s.curGroup x.2
      (.atomic res x.1 names t op (atomOperand g t.wide b.toNat x.1)
        (if op.isNone then atomOperand g t.wide (b.toNat + n) x.1 else 0) pro) rel none (smp x.1)) s lanes

/-- An atomic with a result; `atom` of floating-point type traps in a REPLAY grid (R178, R201). -/
def State.atomic (s : State) (i : Instr) (d b : BitVec 7) (ad : AddrX) (t : ATy) (op : Option AOp)
    (ord : AOrd) (sc : Scope) (pro : Bool) : Host.Outcome State Fault Refusal :=
  let w := if t.wide then 8 else 4
  let names := gBlock d t.regs
  s.draining i fun s =>
    if t == .f32 && op.isSome && s.replaying s.ct then .done s (trapLanes (s.active i) codeOperand 0)
    else
      let r := sortChecks (s.atomChecks i ad w true)
      let id := s.fresh
      let s' := s.next.modCg fun g =>
        g.await id names (lanesMask r.1) (lanesMask r.1) [] true true ord.isAcq
      let s' := s'.sendAtomics r.1 (some id) names t op b (if ord.isRel then some sc else none)
        (pro && ord.isAcq) fun l => s.takeSample i l (eaOfX ad s.cg l)
      .done (s'.clearSample (r.1.any fun x => x.1 == s.lowLane i)) r.2

def execAtom (o : OpAtom) (s : State) :=
  s.atomic (.atom o) o.d o.b o.ad o.t (some o.op) o.ord o.scope o.pro
def execAtomcas (o : OpCas) (s : State) :=
  s.atomic (.atomcas o) o.d o.b o.ad o.t none o.ord o.scope o.pro

/-- `red`: an atomic without a result; recorded in a replay grid (R178). -/
def execRed (o : OpRed) (s : State) : Host.Outcome State Fault Refusal :=
  let i : Instr := .red o
  let w := if o.t.wide then 8 else 4
  s.draining i fun s =>
    let r := sortChecks (s.atomChecks i o.ad w false)
    if o.t == .f32 && s.replaying s.ct then
      let g := s.cg
      let q := r.1.foldl (fun (acc : State × List LaneStop) x =>
        let y := acc.1.recordRed x.1 (eaOfX o.ad g x.1) x.2 o.op (g.rg o.b x.1)
        (y.1, acc.2 ++ y.2)) (s, [])
      .done q.1 (r.2 ++ q.2)
    else
      .done (s.sendAtomics r.1 none [] o.t (some o.op) o.b (if o.rel then some o.scope else none) false
        fun _ => none) r.2

/-! ### fence (R202) -/

/-- Steps 2 and 3 of `fence`: the release point is reached and earlier loads and atomics have returned.
(DEDUCED, log 19) -/
def State.fenceDone (s : State) (sc : Scope) : Bool :=
  s.releasePoint s.curTeam s.curGroup sc s.fresh && s.cg.pending.all fun r => !r.loads || r.need == 0

def execFence (scope : Scope) (m : Mods) (s : State) : Host.Outcome State Fault Refusal :=
  let i : Instr := .fence scope m
  s.run i fun s =>
    if s.active i = 0 then .done s []
    else
      let s := s.drainFirst
      if s.fenceDone scope then
        .done (match scope with
          | .grp | .team => s.markReleased s.curTeam s.curGroup s.net.length
          | _ => s) []
      else .wait s .engine

/-! ### Tags (R203-R205) -/

def execTagget (o : OpDA) (cl : Bool) (s : State) : Host.Outcome State Fault Refusal :=
  let i : Instr := .tagget o cl
  s.access i fun s =>
    let r := sortChecks ((lanesOf (s.active i)).map fun l =>
      let p := if cl then s.cg.rg64 o.a l else (s.cg.rg o.a l).toNat
      (l, match s.place s.ct s.cg (if cl then .cl else .tm) p 1 with
        | some (.tm loc) => (.ok loc : Chk TmLoc)
        | _ => .error (codeRange, p)))
    let ws := r.1.flatMap fun x => regWrites (writeNames i) x.1 [(s.tmTag x.2).setWidth 32]
    .done (s.writeLater (writeNames i) (lanesMask r.1) ws) r.2

/-- `tagset`: the write goes straight to the home (R204). -/
def execTagset (b : BitVec 7) (ad : Addr) (m : Mods) (s : State) : Host.Outcome State Fault Refusal :=
  let i : Instr := .tagset b ad m
  s.run i fun s =>
    if s.cg.acquiring (s.active i) then .wait s .release
    else
      let r := sortChecks ((lanesOf (s.active i)).map fun l =>
        let p := eaOf ad s.cg l
        (l, if p % 32 ≠ 0 then (.error (codeMisaligned, p) : Chk TmLoc)
          else match s.place s.ct s.cg ad.sp p 32 with
            | some (.tm loc) => .ok loc
            | _ => .error (codeRange, p)))
      let g := s.cg
      .done (foldS (fun s x =>
        s.send s.fresh s.ct s.curGroup x.2 (.tagSet ((g.rg b x.1).setWidth 4)) none none none) s r.1) r.2

def execTagptr (o : OpDAB) (s : State) :=
  s.aluLong (.tagptr o) fun g l =>
    [(g.rg o.a l &&& 0x0FFFFFFF) ||| (((g.rg o.b l).setWidth 4).setWidth 32 <<< 28)]

/-! ### Events -/

/-- After a packet of a team has been performed: phases that waited for it complete, and the team may
end (R144, R24). -/
def State.afterPacket (s : State) (p : Packet) : State :=
  let s := (s.closePhases p.team).settle p.team
  if p.loc.team = p.team then s else s.settle p.loc.team

/-- HOME_PERFORM of a packet: it is performed, or its home holds it (R144, R162). -/
def State.packetStep (s : State) (i : Nat) : Host.Outcome State Fault Refusal :=
  match s.net[i]? with
  | none => .fault .notEnabled
  | some p =>
    if p.held || s.promoted p || !s.mayPerform i then .fault .notEnabled
    else if s.mustHold p then .next { s with net := s.net.set i { p with held := true } }
    else .next ((s.performAt i).afterPacket p)

/-- HELD_ENTRY_PERFORMED: the line is present, and the range no longer read (R144, R257). -/
def execHeldEntryPerformed (i : Nat) (s : State) : Host.Outcome State Fault Refusal :=
  match s.net[i]? with
  | none => .fault .notEnabled
  | some p =>
    if p.held && s.mayPerform i && !s.mustHold p && !s.promoted p then
      .next ((s.performAt i).afterPacket p)
    else .fault .notEnabled

/-- PROMOTED_ACQUIRE: everything that the home core's resident groups had released has been performed (R172); a
release of a group that is not resident there is not waited for, although the rule's last sentence lets the acquire
synchronise with it (DESIGN CHOICE, log 101). -/
def execPromotedAcquire (i : Nat) (s : State) : Host.Outcome State Fault Refusal :=
  match s.net[i]? with
  | none => .fault .notEnabled
  | some p =>
    if s.promoted p && s.mayPerform i && !s.mustHold p &&
        s.net.all (fun q => !(q.released && q.core == s.homeCore p)) then
      .next ((s.performAt i).afterPacket p)
    else .fault .notEnabled

/-- The instruction a group is held at. -/
def State.heldAt (s : State) (t g : Nat) : Option Instr :=
  let c := (s.group t g).cl
  match decodeWords c.word.toNat (c.words.getD (c.slot + 1) 0).toNat with
  | .ok i => some i
  | .error _ => none

/-- PARKED_LD_RELEASE: every line read is present (R144). -/
def execParkedLdRelease (t g : Nat) (s : State) : Host.Outcome State Fault Refusal :=
  let here := { s with curTeam := t, curGroup := g }
  let blocked := match s.heldAt t g with
    | some (.ld d ad ty v acq pro m) => here.ldBlocked (.ld d ad ty v acq pro m) ad (ty.size * v.count)
    | some (.ldu d ad ty v m) =>
      (match here.lduCheck (.ldu d ad ty v m) ad (ty.size * v.count) with
       | .ok (.tm l) => !here.present l (ty.size * v.count)
       | _ => false)
    | _ => false
  s.endWait t g (fun p => p == .ld && !blocked) fun s => s.modGroup t g fun x => { x with park := .retry }

/-- PWAIT_RELEASE: every line of the ranges is present (R199). -/
def execPwaitRelease (t g : Nat) (s : State) : Host.Outcome State Fault Refusal :=
  let here := { s with curTeam := t, curGroup := g }
  let blocked := match s.heldAt t g with
    | some (.pwait b ad m) => here.pwaitBlocked (.pwait b ad m) ad b
    | _ => false
  s.endWait t g (fun p => p == .pwait && !blocked) fun s => s.modGroup t g fun x => { x with park := .retry }

end Sys2Proof.Machine
end

