-- ==== Sys2Proof/Machine/Copy.lean ====
section
/-! DEFINITION. The copy family and completion words (R144, R147, R151, R174-R176, R206-R214, R393). -/

namespace Sys2Proof.Machine

/-! ### Requests of one lane -/

/-- One side of a request: a scratchpad pointer, or a main-memory pointer. -/
inductive SideSpec where
  | sp (cl : Bool) (p : Nat)
  | mm (p : Nat)
  deriving DecidableEq, Repr

def SideSpec.ptr : SideSpec → Nat
  | .sp _ p => p | .mm p => p

/-- A range of a request: its side, length, and the kinds of access. -/
structure ReqRange where
  side : SideSpec
  len : Nat
  rd : Bool
  wr : Bool
  deriving DecidableEq, Repr

/-- What a lane asks of the copy engine: the limits of R208 as breached or not, the ranges of operands
A, B and D, and the completion word. -/
structure CopyReq where
  kind : CopyKind
  limits : List (Bool × Nat × Nat)
  a : ReqRange
  b : Option ReqRange
  d : ReqRange
  count : Nat
  ordered : Bool
  cw : Option (Bool × Nat)
  deriving DecidableEq, Repr

/-- The completion word of layout EC (R206). -/
def copyCw (g : Group) (x : CopyX) : Option (Bool × Nat) :=
  match x.cws with
  | .none => none
  | .tm => some (false, ((g.rs x.cwb).toNat + 8 * x.cwoff.toNat) % 2 ^ 32)
  | .cl => some (true, (g.rs64 x.cwb + 8 * x.cwoff.toNat) % 2 ^ 64)

/-- A scratchpad side of layout EC. -/
def spSide (g : Group) (cl : Bool) (r : BitVec 6) : SideSpec :=
  .sp cl (if cl then g.rs64 r else (g.rs r).toNat)

/-- The last limit of R208: the completion word's address. -/
def cwLimit (cw : Option (Bool × Nat)) : Bool × Nat × Nat :=
  match cw with
  | none => (false, 0, 0)
  | some (_, p) => (p % 8 != 0, codeMisaligned, p)

/-- Addresses that must be a multiple (R208). -/
def alignLimit (p n : Nat) : Bool × Nat × Nat := (p % n != 0, codeMisaligned, p)

/-- Where a team's memory begins in the scratchpad windows of its peloton (R21, R140): its core, and the parts of
the members before it. -/
def State.windowBase (s : State) (t : Team) : Nat :=
  t.core / 128 * 2 ^ 28 + t.core % 128 * 2 ^ 21 +
    (((s.window t t.core).takeWhile fun u => u.key != t.key).map fun u => round4k u.tmSize).sum

/-- Ranges that overlap: addresses without tags; `base` is where the team's own memory begins. -/
def overlaps (a b : SideSpec) (n : Nat) (base : Nat) : Bool :=
  let key (x : SideSpec) : Nat × Nat := match x with
    | .mm p => (2, p % 2 ^ 52)
    | .sp true p => (1, p / 2 ^ 32 % 16 * 2 ^ 28 + p % 2 ^ 28)
    | .sp false p => (1, base + p % 2 ^ 21)
  (key a).1 == (key b).1 && decide ((key a).2 < (key b).2 + n) && decide ((key b).2 < (key a).2 + n)

/-- A plain copy (R207, R208). -/
def plainReq (a d : SideSpec) (n : Nat) (x : CopyX) (cw : Option (Bool × Nat)) (apart : Bool) (base : Nat) :
    CopyReq :=
  { kind := .plain
    limits := [(decide (2 ^ 24 < n) || n % 4 != 0, codeOperand, 0), alignLimit a.ptr 4,
      alignLimit d.ptr 4, (apart && overlaps a d n base, codeOperand, 0), cwLimit cw]
    a := { side := a, len := n, rd := true, wr := false }, b := none
    d := { side := d, len := n, rd := false, wr := true }
    count := n, ordered := x.ord, cw := cw }

/-- A transposing copy (R207, R208), whose addresses have no limit of their own. (DEDUCED, log 23) -/
def transReq (a d : SideSpec) (w : Word) (t16 : Bool) (x : CopyX) (cw : Option (Bool × Nat)) : CopyReq :=
  let rows := w.toNat % 65536
  let cols := w.toNat / 65536
  let e := if t16 then 2 else 1
  let q := if t16 then 2 else 4
  let n := rows * cols * e
  let bad := rows == 0 || cols == 0 || decide (4096 < rows) || decide (4096 < cols) || rows % q != 0 ||
    cols % q != 0 || decide (2 ^ 24 < n)
  { kind := .transpose rows cols e
    limits := [(bad, codeOperand, 0), cwLimit cw]
    a := { side := a, len := n, rd := true, wr := false }, b := none
    d := { side := d, len := n, rd := false, wr := true }
    count := n, ordered := x.ord, cw := cw }

/-- Element size and window of `gather` and `scatter` (R207). -/
def elemSize (o : OpGather) : Nat := 4 * 2 ^ o.esz.toNat
def windowLen (o : OpGather) : Nat := 2 ^ (o.win.toNat + 16)

/-- A gather (R207, R208); the index list is range B. -/
def gatherReq (g : Group) (o : OpGather) (l : Nat) (scatter : Bool) : CopyReq :=
  let n := (g.rs o.x.cnt).toNat
  let e := elemSize o
  let cw := copyCw g o.x
  let win : SideSpec := .mm (g.rg64 o.mm l)
  let idx : SideSpec := .mm (g.rg64 o.idx l)
  let pad := spSide g o.x.cl o.sp
  let limits := [(decide (65536 < n), codeOperand, 0), alignLimit win.ptr e, alignLimit idx.ptr 4, cwLimit cw]
  let w := if n = 0 then 0 else windowLen o
  if scatter then
    { kind := .scatter e (windowLen o) (.hbm 0 [] 0), limits := limits
      a := { side := pad, len := n * e, rd := true, wr := false }
      b := some { side := idx, len := 4 * n, rd := true, wr := false }
      d := { side := win, len := w, rd := false, wr := true }, count := n, ordered := false, cw := cw }
  else
    { kind := .gather e (windowLen o) (.hbm 0 [] 0), limits := limits
      a := { side := win, len := w, rd := true, wr := false }
      b := some { side := idx, len := 4 * n, rd := true, wr := false }
      d := { side := pad, len := n * e, rd := false, wr := true }, count := n, ordered := false, cw := cw }

/-- `copytag` (R207, R208): only the destination has a range. -/
def tagReq (d : SideSpec) (tag : BitVec 4) (n : Nat) (cw : Option (Bool × Nat)) : CopyReq :=
  { kind := .copytag tag
    limits := [(n % 32 != 0, codeMisaligned, d.ptr), alignLimit d.ptr 32, cwLimit cw]
    a := { side := d, len := 0, rd := false, wr := false }, b := none
    d := { side := d, len := n, rd := false, wr := true }, count := n, ordered := false, cw := cw }

/-! ### Checks and acceptance (R151, R209) -/

/-- The first limit breached (R208). (DEDUCED, log 75) -/
def firstLimit (l : List (Bool × Nat × Nat)) : Option (Nat × Nat) :=
  (l.find? fun x => x.1).map fun x => x.2

/-- Scratchpad range of a request: R142 steps 2 to 4. (DEDUCED, log 75) -/
def State.checkSp (s : State) (lane : Nat) (r : ReqRange) : Chk (Option TmLoc) :=
  match r.side with
  | .mm _ => .ok none
  | .sp cl p =>
    if r.len = 0 then .ok none
    else
      match s.checkSteps s.ct s.cg lane (if cl then .cl else .tm) p r.len true r.rd r.wr with
      | .ok (.tm l) => .ok (some l)
      | .ok (.sk _) => .error (codeRange, p)
      | .error e => .error e

/-- A replay grid of the context is live, and the page holds a part of its buffer (R178). -/
def State.replayPage (s : State) (ctx page : Nat) : Bool :=
  let f := s.ctxFunc ctx
  let base := f.replaybuf.toNat / 2 ^ 16 % 2 ^ 36
  let size := f.replaybuf.toNat / 2 ^ 52
  decide (base ≤ page) && decide (page < base + size) &&
    s.grids.any fun g => g.ctx == ctx && g.replay == some true

/-- Translates the pages of a main-memory range in ascending order (R151). -/
def State.translatePages (s : State) (lane va : Nat) (use : PageUse) (first : Nat) (pages : List Nat) :
    State × Except Why (List PageMap) :=
  match pages with
  | [] => (s, .ok [])
  | p :: rest =>
    let t := s.ct
    let at_ := if p = first then va else p * pageSize
    if s.replayPage t.ctx p then (s, .error (.trap codePermission at_))
    else
      match s.translate t.core t.ctx (p * pageSize) use
          (some { team := s.curTeam, group := s.curGroup, lane := lane }) with
      | (.page m, s) =>
        match State.translatePages s lane va use first rest with
        | (s, .ok l) => (s, .ok ({ vpage := p, ppage := m.ppage, tag := m.tag } :: l))
        | r => r
      | (.mig, s) => (s, .error (.mig at_))
      | (.trap code, s) =>
        match s.faultWhy s.curTeam s.curGroup lane code at_ s.cl.here with
        | (s, w) => (s, .error w)

/-- Translates a main-memory range (R148, R151): its side. A range of no bytes has no page, and its pointer's
bits 59:52 are not looked at (DESIGN CHOICE, log 95). Its watchpoints are compared before the next range is
translated (DESIGN CHOICE, log 96). (DEDUCED, log 25, 75) -/
def State.checkMm (s : State) (lane : Nat) (r : ReqRange) : State × Except Why (Option Side) :=
  match r.side with
  | .sp _ _ => (s, .ok none)
  | .mm p =>
    if r.len = 0 then (s, .ok none)
    else if p / 2 ^ 52 % 256 ≠ 0 then (s, .error (.trap codePermission p))
    else
      let va := p % 2 ^ 52
      let n := (va % pageSize + r.len + pageSize - 1) / pageSize
      let first := va / pageSize
      let pages := (List.range n).map fun k => (first + k) % 2 ^ 36
      match s.translatePages lane va (if r.wr then .wr else .rd) first pages with
      | (s, .error w) => (s, .error w)
      | (s, .ok l) =>
        match s.watchHit s.ct s.cg lane .hbm r.rd r.wr p r.len with
        | some k => (s, .error (.trap codeWatch (p % 2 ^ 60 + k)))
        | none => (s, .ok (some (.hbm va l (BitVec.ofNat 4 (p / 2 ^ 60)))))

/-- A side of an accepted operation from its checks; an empty range names a place it never reads. -/
def sideOf (sp : Option TmLoc) (mm : Option Side) : Side :=
  match mm, sp with
  | some x, _ => x
  | none, some l => .tm l
  | none, none => .hbm 0 [] 0

/-- The address of the first byte of a side. -/
def Side.start : Side → Nat
  | .tm l => l.addr
  | .hbm va _ _ => va

/-- Physical page of an offset on a main-memory side. -/
def Side.page (x : Side) (o : Nat) : Option PageMap :=
  match x with
  | .tm _ => none
  | .hbm va pages _ => pages.find? fun p => p.vpage == (va + o) / pageSize % 2 ^ 36

/-- A function's causeway windows are usable (R382): both lie in its segment, CSLOT is a power of two from
1 to 4,096, and the receive window holds a slot. (DEDUCED, log 9) -/
def Func.windowsOk (f : Func) : Bool :=
  let fits (base size : Word) : Bool := decide (base.toNat + size.toNat ≤ f.segsize.toNat)
  fits f.csendbase f.csendsize && fits f.crecvbase f.crecvsize &&
    (List.range 13).any (fun k => f.cslot.toNat == 2 ^ k) &&
    decide (f.cslot.toNat * 4096 ≤ f.crecvsize.toNat * pageSize)

/-- Pages of a side that lie in the send window (R393). (DEDUCED, log 67) -/
def State.sendPages (s : State) (ctx : Nat) (x : Side) : Nat × Nat :=
  let f := s.ctxFunc ctx
  match x with
  | .tm _ => (0, 1)
  | .hbm _ pages _ =>
    let hit (p : PageMap) : Bool :=
      let ia := p.ppage - f.segbase.toNat
      decide (f.csendbase.toNat ≤ ia) && decide (ia < f.csendbase.toNat + f.csendsize.toNat)
    (pages.countP hit, pages.length)

/-- Units of an operation: blocks of its destination, elements of a scatter, granules of `copytag`.
(DEDUCED, log 23) -/
def unitCount (kind : CopyKind) (dst : Side) (len count : Nat) : Nat :=
  match kind with
  | .scatter _ _ _ => count
  | .copytag _ => (blockStarts 32 dst.start len).length
  | .send => 1
  | _ => (blockStarts 64 dst.start len).length

/-- One lane's issue of a copy-family instruction (R209): the operation, or why the lane stops. (DEDUCED, log 75) -/
def State.copyLane (s : State) (lane : Nat) (q : CopyReq) : State × Except Why CopyOp :=
  match firstLimit q.limits with
  | some (code, a) => (s, .error (.trap code a))
  | none =>
    let cwR : Option ReqRange := q.cw.map fun x => { side := .sp x.1 x.2, len := 8, rd := false, wr := true }
    let sp := do
      let a ← s.checkSp lane q.a
      let d ← s.checkSp lane q.d
      let c ← match cwR with | some r => s.checkSp lane r | none => .ok none
      Except.ok (a, d, c)
    match sp with
    | .error e => (s, .error (.trap e.1 e.2))
    | .ok (la, ld, lc) =>
      match s.checkMm lane q.a with
      | (s, .error w) => (s, .error w)
      | (s, .ok ma) =>
        match (match q.b with | some r => s.checkMm lane r | none => (s, .ok none)) with
        | (s, .error w) => (s, .error w)
        | (s, .ok mb) =>
          match s.checkMm lane q.d with
          | (s, .error w) => (s, .error w)
          | (s, .ok md) =>
            let t := s.ct
            let dst := sideOf ld md
            let idx := sideOf none mb
            let kind := match q.kind with
              | .gather e w _ => CopyKind.gather e w idx
              | .scatter e w _ => CopyKind.scatter e w idx
              | .plain => if 0 < (s.sendPages t.ctx dst).1 then .send else .plain
              | k => k
            (s, .ok { id := s.fresh, team := s.curTeam, group := s.curGroup, lane := lane,
                      pc := s.cl.here, slotgen := s.cg.grpslot, ctx := t.ctx, core := t.core,
                      kind := kind, src := sideOf la ma, dst := dst, count := q.count,
                      todo := if q.count = 0 then []
                        else List.range (unitCount kind dst q.d.len q.count),
                      ordered := q.ordered, cw := lc, waitingPeer := false, sampled := none,
                      xlat := s.fresh, noted := [] })

/-- A tracker entry is free: 16 per group, 64 per core (R209). (DEDUCED, log 74) -/
def State.trackerFree (s : State) (k g core : Nat) : Bool :=
  decide ((s.copies.countP fun o => o.team == k && o.group == g) < 16) &&
    decide ((s.copies.countP fun o => o.core == core) < 64)

/-- Adds to a completion word at its home (R175). -/
def State.signal (s : State) (cw : Option TmLoc) : State :=
  match cw with
  | none => s
  | some l => s.tmPuts l 0 (leBytes 8 (leNat (s.tmBytes l 8) + 1))

/-- Sends the signal of an operation that accesses nothing (R209). -/
def State.signalNow (s : State) (o : CopyOp) : State :=
  match o.cw with
  | none => s
  | some l => s.send s.fresh s.ct o.group l (.add64 1) (some .sys) none none

/-- Acceptance (R209): the tracker entry, the presence of the destination lines (R143), and the sample
(R330); a count of 0 signals at once. -/
def State.accept (s : State) (o : CopyOp) : State :=
  let o := { o with id := s.fresh }
  let s := s.next
  if o.count = 0 then s.signalNow o
  else
    let s := match o.kind, o.dst with
      | .copytag _, _ => s
      | _, .tm l => s.holdLines o.op l o.dstLen
      | _, .hbm _ _ _ => s
    { s with copies := s.copies ++ [o] }

/-- Lanes of an accept loop: those dealt with join the mask. (DEDUCED, log 74) -/
def State.dealt (s : State) (l : Nat) : State :=
  s.modCg fun g => { g with accepted := setBit g.accepted l true }

/-- Stops of the lanes dealt with so far, when the loop must wait: they leave the issue set now, and the
word then releases nothing (R43, R209). (DEDUCED, log 74) -/
def State.stopEarly (s : State) (stops : List LaneStop) : State :=
  if stops.isEmpty then s
  else
    let c := s.cl
    let left := c.issue &&& ~~~stopMask stops
    let keep : Word := ~~~(3#32 <<< (2 * c.slot))
    let s' := s.modCg fun g =>
      { g.stopLanes c stops with clause := some { c with issue := left, rel := c.rel &&& keep } }
    if s.cg.inSup && stops.any (fun x => x.why.isTrap) then
      s'.nestedFault s.curTeam s.curGroup c stops
    else s'

/-- The pointer that the first read of a request names (R330, R332): the index list's, or the source's; one that
reads nothing is known by its destination. (DESIGN CHOICE, log 60) -/
def CopyReq.firstPtr (q : CopyReq) : Nat :=
  match q.b, q.kind with
  | some r, _ => r.side.ptr
  | none, .copytag _ => q.d.side.ptr
  | none, _ => q.a.side.ptr

/-- The operation of a lane: the one that was checked before the group was held for a tracker entry, or the
lane's checks now (R209); and the sample of one that accesses something. (DEDUCED, log 74) -/
def State.laneOp (s : State) (i : Instr) (req : Group → Nat → CopyReq) (l : Nat) : State × Except Why CopyOp :=
  match s.cg.heldOp.filter fun o => o.lane == l with
  | some o => (s.modCg fun g => { g with heldOp := none }, .ok o)
  | none =>
    let q := req s.cg l
    match s.copyLane l q with
    | (s, .error w) => (s, .error w)
    | (s, .ok o) =>
      (s.next, .ok { o with sampled := if o.count = 0 then none else s.takeSample i l q.firstPtr })

/-- The accept loop over lanes in ascending order (R209): every lane waits for a tracker entry, with its checks
and translations made. (DEDUCED, log 74) -/
def State.acceptLoop (s : State) (i : Instr) (req : Group → Nat → CopyReq) (lanes : List Nat)
    (stops : List LaneStop) : Eff :=
  match lanes with
  | [] => .done s stops
  | l :: rest =>
    if s.cg.accepted.getLsbD l then State.acceptLoop s i req rest stops
    else
      match s.laneOp i req l with
      | (s, .error w) => State.acceptLoop (s.dealt l) i req rest (stops ++ [{ lane := l, why := w }])
      | (s, .ok o) =>
        if s.trackerFree s.curTeam s.curGroup o.core then
          State.acceptLoop (((s.accept o).dealt l).clearSample o.sampled.isSome) i req rest stops
        else .wait ((s.stopEarly stops).modCg fun g => { g with heldOp := some o }) .tracker

/-- A copy-family instruction. (DEDUCED, log 74) -/
def State.copyFamily (s : State) (i : Instr) (req : Group → Nat → CopyReq) :
    Host.Outcome State Fault Refusal :=
  s.draining i fun s => s.acceptLoop i req (lanesOf (s.active i)) []

def execCopyIn (o : OpCopyMm) (s : State) :=
  s.copyFamily (.copyIn o) fun g l =>
    plainReq (.mm (g.rg64 o.mm l)) (spSide g o.x.cl o.sp) (g.rs o.x.cnt).toNat o.x (copyCw g o.x) false 0
def execCopyOut (o : OpCopyMm) (s : State) :=
  s.copyFamily (.copyOut o) fun g l =>
    plainReq (spSide g o.x.cl o.sp) (.mm (g.rg64 o.mm l)) (g.rs o.x.cnt).toNat o.x (copyCw g o.x) false 0
def execCopySs (d a : BitVec 6) (x : CopyX) (srcCl : Bool) (m : Mods) (s : State) :=
  s.copyFamily (.copySs d a x srcCl m) fun g _ =>
    plainReq (spSide g srcCl a) (spSide g x.cl d) (g.rs x.cnt).toNat x (copyCw g x) true (s.windowBase s.ct)
def execCopyMm (d a : BitVec 7) (x : CopyX) (m : Mods) (s : State) :=
  s.copyFamily (.copyMm d a x m) fun g l =>
    plainReq (.mm (g.rg64 a l)) (.mm (g.rg64 d l)) (g.rs x.cnt).toNat x (copyCw g x) true 0
def execCopyt (o : OpCopyMm) (out t16 : Bool) (s : State) :=
  s.copyFamily (.copyt o out t16) fun g l =>
    let pad := spSide g o.x.cl o.sp
    let mm : SideSpec := .mm (g.rg64 o.mm l)
    transReq (if out then pad else mm) (if out then mm else pad) (g.rs o.x.cnt) t16 o.x (copyCw g o.x)
def execGather (o : OpGather) (s : State) :=
  s.copyFamily (.gather o) fun g l => gatherReq g o l false
def execScatter (o : OpGather) (s : State) :=
  s.copyFamily (.scatter o) fun g l => gatherReq g o l true
def execCopytag (d a : BitVec 7) (mm : Bool) (x : CopyX) (m : Mods) (s : State) :=
  s.copyFamily (.copytag d a mm x m) fun g l =>
    tagReq (if mm then .mm (g.rg64 d l) else spSide g x.cl (d.setWidth 6)) ((g.rg a l).setWidth 4)
      (g.rs x.cnt).toNat (copyCw g x)

/-! ### Performing an operation -/

/-- What an accepted operation has captured for a record (R212). -/
def State.opBase (s : State) (o : CopyOp) : FaultRec :=
  let t := s.team o.team
  { code := 0, lane := o.lane, flags := 0, pc := o.pc, addr := 0, grpslot := o.slotgen, x := t.x, y := t.y,
    z := t.z, group := o.group }

/-- A record of an accepted operation (R212): code and address, with what the tracker captured. -/
def State.opRecord (s : State) (o : CopyOp) (code addr : Nat) : State :=
  s.raiseErrors o.team o.ctx (s.opBase o) [(code, addr)]

/-- Reads the byte at an offset of a side: the byte, and the code of a mismatching or uncorrectable
granule, which delivers 0 (R158, R212), or of a poisoned one (R301). (DESIGN CHOICE, log 28) -/
def State.readSide (s : State) (x : Side) (o : Nat) : Byte × Option Nat :=
  match x with
  | .tm l => s.engineByte l o
  | .hbm va _ tag =>
    match x.page o with
    | none => (0, none)
    | some p =>
      let pa := p.ppage * pageSize + (va + o) % pageSize
      if p.tag && s.hbmTag (pa / 32) != tag then (0, some codeTagAsync)
      else if s.eccHbm.contains (pa / 32) then (0, some codeEcc)
      else if s.poisonHbm.contains (pa / 32) then (Config.poisonedByte s.tick pa, some codePoison)
      else (s.hbmByte pa, none)

/-- Writes the byte at an offset of a side; a mismatching granule keeps its bytes (R158). -/
def State.writeSide (s : State) (x : Side) (o : Nat) (b : Byte) : State × Option Nat :=
  match x with
  | .tm l => (s.tmPut l o b, none)
  | .hbm va _ tag =>
    match x.page o with
    | none => (s, none)
    | some p =>
      let pa := p.ppage * pageSize + (va + o) % pageSize
      if p.tag && s.hbmTag (pa / 32) != tag then (s, some codeTagAsync) else (s.hbmPut pa b, none)

/-- A record of an operation that it makes once for a key. (DEDUCED, log 23) -/
def State.noteOnce (s : State) (o : CopyOp) (key : Nat × Nat) (code addr : Nat) : State :=
  if s.copies.any fun p => p.id == o.id && p.noted.contains key then s
  else
    { s.opRecord o code addr with copies := s.copies.map fun p =>
        if p.id = o.id then { p with noted := key :: p.noted } else p }

/-- A record for a granule that an operation meets an error in, once for each granule and code: it names the
lowest byte of it that the operation has met (R158, R212). (DEDUCED, log 23) -/
def State.note (s : State) (o : CopyOp) (x : Side) (off : Nat) (code : Option Nat) : State :=
  match code with
  | none => s
  | some c =>
    let a := x.start + off
    let key := (c, 2 * (a / 32) + (match x with | .tm _ => 0 | .hbm _ _ _ => 1))
    s.noteOnce o key c a

/-- The index of an element in an index list (R211). -/
def State.readIndex (s : State) (o : CopyOp) (idx : Side) (n : Nat) : State × Nat :=
  let bs := (List.range 4).map fun i => s.readSide idx (4 * n + i)
  let s := foldS (fun s i => s.note o idx (4 * n + i) ((bs.getD i (0, none)).2)) s (List.range 4)
  (s, leNat (bs.map (·.1)))

/-- The source byte of a destination offset (R211): the state with its records, and the byte. -/
def State.sourceByte (s : State) (o : CopyOp) (off : Nat) : State × Byte :=
  let plain (p : Nat) : State × Byte :=
    let r := s.readSide o.src p
    (s.note o o.src p r.2, r.1)
  match o.kind with
  | .transpose rows cols e =>
    let q := off / e
    plain ((q % rows * cols + q / rows) * e + off % e)
  | .gather e w idx =>
    let n := off / e
    let (s', k) := s.readIndex o idx n
    let p := k * e
    if w < p + e then (s'.noteOnce o (codeSegment, n) codeSegment (o.src.start + p), 0)
    else
      let r := s'.readSide o.src (p + off % e)
      (s'.note o o.src (p + off % e) r.2, r.1)
  | _ => plain off

/-- The destination offsets of a unit that is a block. (DEDUCED, log 23) -/
def CopyOp.unitRange (o : CopyOp) (j : Nat) : List Nat :=
  let starts := blockStarts 64 o.dst.start o.dstLen
  let lo := starts.getD j 0
  let hi := starts.getD (j + 1) o.dstLen
  (List.range (hi - lo)).map fun i => lo + i

/-- Moves the bytes of a block, and the line is one operation nearer to presence (R143). (DEDUCED, log 23) -/
def State.moveBlock (s : State) (o : CopyOp) (j : Nat) : State :=
  let offs := o.unitRange j
  let s := foldS (fun s off =>
    let (s, b) := s.sourceByte o off
    let (s, code) := s.writeSide o.dst off b
    s.note o o.dst off code) s offs
  match o.dst, offs with
  | .tm l, off :: _ => s.freeLine o.op (s.byteLoc l off)
  | _, _ => s

/-- One element of a scatter (R147, R211). -/
def State.scatterElem (s : State) (o : CopyOp) (e w : Nat) (idx : Side) (n : Nat) : State :=
  let (s, k) := s.readIndex o idx n
  let p := k * e
  if w < p + e then s.opRecord o codeSegment (o.dst.start + p)
  else
    foldS (fun s i =>
      let r := s.readSide o.src (n * e + i)
      let s := s.note o o.src (n * e + i) r.2
      let (s, code) := s.writeSide o.dst (p + i) r.1
      s.note o o.dst (p + i) code) s (List.range e)

/-- One granule of `copytag` (R211). -/
def State.tagGranule (s : State) (o : CopyOp) (tag : BitVec 4) (j : Nat) : State :=
  let off := (blockStarts 32 o.dst.start o.count).getD j 0
  match o.dst with
  | .tm l => s.tmPutTag (s.byteLoc l off) tag
  | .hbm va _ ptag =>
    match o.dst.page off with
    | none => s
    | some p =>
      let pa := p.ppage * pageSize + (va + off) % pageSize
      if p.tag && s.hbmTag (pa / 32) != ptag then s.opRecord o codeTagAsync (va + off)
      else s.hbmPutTag (pa / 32) tag

/-- A causeway send (R393): the contribution goes to the peer, or is dropped; what its reads meet is recorded
(R212). (DEDUCED, log 67) -/
def State.sendUnit (s : State) (o : CopyOp) : State :=
  let bytes := (List.range o.count).map fun i => (s.readSide o.src i).1
  let s := foldS (fun s' i => s'.note o o.src i (s.readSide o.src i).2) s (List.range o.count)
  let hdr := bytes.take 64
  let link := fieldLe hdr 0 1
  let fn := fieldLe hdr 1 1
  let len := fieldLe hdr 8 4
  let w := s.sendPages o.ctx o.dst
  let slotOk := match Config.peerSlot s.tick link fn with
    | some n => decide (64 + len ≤ n)
    | none => false
  let ok := (s.ctxFunc o.ctx).windowsOk && w.1 == w.2 && o.count == 64 + len && (hdr.drop 12).all (· == 0) && decide (link < 12) &&
    decide (fn < 64) && s.linkUp.getLsbD link && slotOk
  if ok then
    { s with sent := s.sent ++ [(link, fn, bytes)] }
  else s.modCtx o.ctx fun f => { f with dropped := min 0x7FFFFFFF (f.dropped + 1) }

/-- Source lines of a unit are present (R144). -/
def State.sourcePresent (s : State) (o : CopyOp) (j : Nat) : Bool :=
  match o.src with
  | .hbm _ _ _ => true
  | .tm l =>
    match o.kind with
    | .scatter e _ _ => s.present (s.byteLoc l (j * e)) e
    | .copytag _ => true
    | .send => s.present l o.count
    | .transpose rows cols e =>
      (o.unitRange j).all fun off =>
        let q := off / e
        !s.lineAbsent (s.byteLoc l ((q % rows * cols + q / rows) * e + off % e))
    | _ => (o.unitRange j).all fun off => !s.lineAbsent (s.byteLoc l off)

/-- The destination of a unit is not a range that a matrix operation still reads (R257). -/
def State.destFree (s : State) (o : CopyOp) (j : Nat) : Bool :=
  match o.dst, o.kind with
  | .hbm _ _ _, _ => true
  | _, .copytag _ => true
  | .tm l, _ =>
    match o.unitRange j with
    | [] => true
    | off :: r => !s.berthHeld o.id (s.byteLoc l off) (r.length + 1)

/-- Operations with the ordered-stream modifier release their units in sequence (R176). (DEDUCED, log 24) -/
def State.streamHead (s : State) (o : CopyOp) : Bool :=
  ((s.copies.find? fun x => x.ordered && x.team == o.team && x.group == o.group && !x.todo.isEmpty).map
    (·.id)) == some o.id

/-- The ranges of scratchpad that a unit reads and writes. -/
def State.unitRanges (s : State) (o : CopyOp) (j : Nat) : List (TmLoc × Nat) :=
  let part (x : Side) (offs : List Nat) : List (TmLoc × Nat) :=
    match x, offs with
    | .tm l, off :: r => [(s.byteLoc l off, r.length + 1)]
    | _, _ => []
  let src := match o.kind with
    | .scatter e _ _ => part o.src ((List.range e).map fun i => j * e + i)
    | .transpose _ _ _ => part o.src (List.range o.count)
    | .copytag _ => []
    | .send => part o.src (List.range o.count)
    | .gather _ _ _ => []
    | .plain => part o.src (o.unitRange j)
  let dst := match o.kind with
    | .copytag _ => part o.dst [(blockStarts 32 o.dst.start o.count).getD j 0]
    | .scatter _ _ _ => []
    | .send => []
    | _ => part o.dst (o.unitRange j)
  src ++ dst

/-- What must come first of the packets that had left the core before the issue (R174): those for elements of
the ranges, tags too. (DEDUCED, log 24) -/
def State.after (s : State) (o : CopyOp) : Bool :=
  let clear (x : Side) (n : Nat) (write : Bool) : Bool :=
    match x with
    | .hbm _ _ _ => true
    | .tm l => n == 0 || !(s.net.any fun p => decide (p.id < o.id) && p.core == o.core && s.touches l n p &&
        !(write && s.overtaken p))
  clear o.src o.srcLen false && clear o.dst o.dstLen true

/-- A unit may be performed now. (DEDUCED, log 24) -/
def State.unitReady (s : State) (o : CopyOp) (j : Nat) : Bool :=
  let inOrder := match o.kind with
    | .gather _ _ _ => o.todo.head? == some j
    | .scatter _ _ _ => o.todo.head? == some j
    | _ => if o.ordered then o.todo.head? == some j && s.streamHead o else o.todo.contains j
  inOrder && s.sourcePresent o j && s.destFree o j &&
    s.after o && !(s.unitRanges o j).any fun x => s.ahead o.core x.1 x.2 o.id

/-- The sides and offsets of the reads that a unit makes: one of a block, one of each element of a block that is
gathered or transposed, with its index. (DEDUCED, log 58) -/
def State.unitReads (s : State) (o : CopyOp) (j : Nat) : List (Side × Nat) :=
  let starts (e : Nat) : List Nat := (o.unitRange j).filter fun off => off % e == 0
  match o.kind with
  | .gather e w idx => (starts e).flatMap fun off =>
      let p := (s.readIndex o idx (off / e)).2 * e
      (idx, 4 * (off / e)) :: if w < p + e then [] else [(o.src, p)]
  | .scatter e _ idx => [(idx, 4 * j), (o.src, j * e)]
  | .transpose rows cols e => (starts e).map fun off => (o.src, (off / e % rows * cols + off / e / rows) * e)
  | .copytag _ => []
  | .send => [(o.src, 0)]
  | _ => ((o.unitRange j).take 1).map fun off => (o.src, off)

/-- The physical addresses of those in main memory. -/
def Side.pa? (x : Side × Nat) : Option Nat :=
  match x.1 with
  | .tm _ => none
  | .hbm va _ _ => (x.1.page x.2).map fun p => p.ppage * pageSize + (va + x.2) % pageSize

/-- Performs a unit. -/
def State.unit (s : State) (o : CopyOp) (j : Nat) : State :=
  match o.kind with
  | .scatter e w idx => s.scatterElem o e w idx j
  | .copytag tag => s.tagGranule o tag j
  | .send => s.sendUnit o
  | _ => s.moveBlock o j

/-- The side of an operation's first read (R330). -/
def CopyOp.firstSide (o : CopyOp) : Side :=
  match o.kind with
  | .gather _ _ idx => idx
  | .scatter _ _ idx => idx
  | .copytag _ => o.dst
  | _ => o.src

/-- The HBM channel of a physical address (R146, R332): the 63 GiB of each stack rotate over its 32 channels in
units of 256 bytes. (DEDUCED, log 60) -/
def channelOf (pa : Nat) : Nat := pa / (63 * 2 ^ 30) * 32 + pa % (63 * 2 ^ 30) / 256 % 32

/-- The HBM channel of an operation's first read, for a sample (R332). -/
def CopyOp.sampleChannel (o : CopyOp) : Option Nat := (Side.pa? (o.firstSide, 0)).map channelOf

/-- Writes the sample record of an operation with its first read (R330, R333). -/
def State.sampleUnit (s : State) (o : CopyOp) : State :=
  match o.sampled with
  | none => s
  | some x =>
    let home := match o.firstSide with | .tm l => (s.team l.team).core | .hbm _ _ _ => o.core
    s.tmPuts x.loc 0 (s.sampleBytes x false o.core home o.sampleChannel)

/-- The record of a sampled operation may be written: a matrix operation that is not waiting for the operation
itself reads its place (R257, R333). (DEDUCED, log 84) -/
def State.recordFree (s : State) (o : CopyOp) : Bool :=
  match o.sampled with
  | none => true
  | some x =>
    let awaited (m : MmaxOp) : Bool :=
      match o.dst with | .tm l => s.unread m l o.dstLen | .hbm _ _ _ => false
    !(s.mmaxs.any fun m => s.unread m x.loc 80 && !(decide (o.id < m.id) && awaited m))

/-- Performs unit j of the operation at a position of the list. (DEDUCED, log 24) -/
def State.copyStep (s : State) (i j : Nat) (ordered : Bool) : Host.Outcome State Fault Refusal :=
  match s.copies[i]? with
  | none => .fault .notEnabled
  | some o =>
    if o.ordered == ordered && o.todo.contains j && s.unitReady o j && s.recordFree o then
      let n := s.sent.length
      let reads := (s.unitReads o j).filterMap Side.pa?
      let s := ((s.sampleUnit o).unit o j).noteReads o.ctx reads
      .next { s with copies := s.copies.map fun x =>
        if x.id = o.id then { x with todo := x.todo.erase j, sampled := none,
                                     waitingPeer := s.sent.length != n } else x }
    else .fault .notEnabled

/-- REORDER_BUFFER_RELEASE (R176). -/
def execReorderBufferRelease (i j : Nat) (s : State) := s.copyStep i j true

/-- The completion signal of an engine operation may be written (R175): the point of R169 for its issue, the line
present, no matrix operation reading it (R257), and what has left the core for its bank has come first (R162). -/
def State.signalReady (s : State) (k g id : Nat) (cw : Option TmLoc) : Bool :=
  s.releasePoint k g .sys id &&
    (match cw with
     | none => true
     | some l => s.present l 8 && s.routeClear (s.team k).core l 8 s.fresh true &&
         !s.mmaxs.any fun o => s.unread o l 8)

/-- COPY_OPERATION_COMPLETE (R175): every access has been performed, and everything the group did before
the issue; the completion word receives the add. -/
def execCopyOperationComplete (i : Nat) (s : State) : Host.Outcome State Fault Refusal :=
  match s.copies[i]? with
  | none => .fault .notEnabled
  | some o =>
    if o.todo.isEmpty && s.signalReady o.team o.group o.id o.cw then
      let s := { s with copies := s.copies.eraseIdx i }
      .next ((s.signal o.cw).settle o.team)
    else .fault .notEnabled

/-- TRACKER_ENTRY_FREE: the accept loop goes on (R209). -/
def execTrackerEntryFree (t g : Nat) (s : State) : Host.Outcome State Fault Refusal :=
  let x := s.group t g
  if (s.team? t).isSome && x.park == .tracker && s.trackerFree t g (s.team t).core then
    .next (s.modGroup t g fun y => { y with park := .retry })
  else .fault .notEnabled

/-! ### Completion words (R213, R214) -/

/-- Address of a completion word (R213). -/
def cwAddr (g : Group) (o : OpCw) : Nat :=
  if o.cl then (g.rs64 o.a + o.off.toNat) % 2 ^ 64 else ((g.rs o.a).toNat + o.off.toNat) % 2 ^ 32

/-- Value operand of a completion-word instruction. -/
def cwVal (g : Group) (o : OpCw) : Nat := if o.w64 then g.rs64 o.b else (g.rs o.b).toNat

/-- The checks, made once (R214). (DEDUCED, log 18) -/
def State.cwCheck (s : State) (i : Instr) (o : OpCw) (rd wr : Bool) : Chk TmLoc :=
  let p := cwAddr s.cg o
  if p % 8 ≠ 0 then .error (codeMisaligned, p)
  else
    match s.checkRange s.ct s.cg ((lanesOf (s.active i)).headD 0) (if o.cl then .cl else .tm) p 8 false rd wr with
    | .ok (.tm l) => .ok l
    | .ok (.sk _) => .error (codeRange, p)
    | .error e => .error e

/-- A completion-word instruction that takes effect when some lane is active. -/
def State.cwOp (s : State) (i : Instr) (o : OpCw) (rd wr : Bool) (f : State → TmLoc → Eff) : Eff :=
  let act := s.active i
  if act = 0 then .done s []
  else
    match s.cwCheck i o rd wr with
    | .error e => .done s (trapLanes act e.1 e.2)
    | .ok l => f s l

def execCwinit (o : OpCw) (s : State) :=
  s.draining (.cwinit o) fun s => s.cwOp (.cwinit o) o false true fun s l =>
    .done (s.send s.fresh s.ct s.curGroup l (.put64 (BitVec.ofNat 64 (cwVal s.cg o))) (some .sys) none none) []
def execCwadd (o : OpCw) (s : State) :=
  s.draining (.cwadd o) fun s => s.cwOp (.cwadd o) o false true fun s l =>
    .done (s.send s.fresh s.ct s.curGroup l (.add64 (BitVec.ofNat 64 (cwVal s.cg o))) (some .sys) none none) []

/-- The word meets its value: its lines are present, it is read in the order of the core's accesses (R162), and it
is not below the value (R214). -/
def State.cwMet (s : State) (l : TmLoc) (v : Nat) : Bool :=
  s.engineReads s.ct.core l 8 s.fresh && decide (v ≤ leNat (s.tmBytes l 8))

/-- `cwwait`: parks the group until the word meets its value (R214). -/
def execCwwait (o : OpCw) (s : State) :=
  s.access (.cwwait o) fun s => s.cwOp (.cwwait o) o true false fun s l =>
    if s.cwMet l (cwVal s.cg o) then .done s [] else .wait s (.cwwait o.cl)

/-- `cwtest` (R214): it reads the word once, in the order of its core's accesses to it, and is false while a line
of the word is absent. -/
def execCwtest (p : BitVec 6) (o : OpCw) (s : State) :=
  let i : Instr := .cwtest p o
  s.access i fun s => s.cwOp i o true false fun s l =>
    if s.present l 8 then
      let act := s.active i
      let s' := s.next.modCg fun g => g.await s.fresh (writeNames i) act act [] false false false
      .done (s'.send s.fresh s.ct s.curGroup l
        (.test s.fresh act (.p p.toNat) (BitVec.ofNat 64 (cwVal s.cg o))) none none none) []
    else .done (s.writeLater (writeNames i) (s.active i) (s.lanewise i fun _ _ => [predWord false])) []

/-- CWWAIT_RELEASE (R214). -/
def execCwwaitRelease (t g : Nat) (s : State) : Host.Outcome State Fault Refusal :=
  let here := { s with curTeam := t, curGroup := g }
  let met := match s.heldAt t g with
    | some (.cwwait o) =>
      (match here.cwCheck (.cwwait o) o true false with
       | .ok l => here.cwMet l (cwVal here.cg o)
       | .error _ => true)
    | _ => true
  let cw := match (s.group t g).park with | .cwwait _ => true | _ => false
  s.endWait t g (fun _ => cw && met) fun s => s.modGroup t g fun x => { x with park := .retry }

/-- A page is in migration (R155). -/
def State.migrating (s : State) (ctx va : Nat) : Bool :=
  match s.walk (s.ctxFunc ctx) (va % 2 ^ 52) .rd with | .mig => true | _ => false

/-- MIG_CLEAR_RETRY: lanes parked at a page whose migration is over translate again (R155). -/
def execMigClearRetry (t g : Nat) (s : State) : Host.Outcome State Fault Refusal :=
  let x := s.group t g
  let ctx := (s.team t).ctx
  let parked := x.lanesIn fun st => match st with
    | .parked (.mig va) => !s.migrating ctx va
    | _ => false
  if (s.team? t).isSome && parked != 0 then
    .next (s.modGroup t g fun x => x.modLanes parked fun _ y => { y with st := .ready })
  else .fault .notEnabled

end Sys2Proof.Machine
end

