-- ==== Sys2Proof/Machine/Ferry.lean ====
section
/-! DEFINITION. Ferry: landing entries, slips, routing, reassembly, timeouts (R215-R231). -/

namespace Sys2Proof.Machine

/-! ### Landing entries (R216, R221-R223) -/

def State.landing? (s : State) (core e : Nat) : Option Landing := tfind (s.core core).landing e

/-- Changes a landing entry. -/
def State.modLanding (s : State) (core e : Nat) (f : Landing → Landing) : State :=
  s.modCore core fun c => { c with landing := c.landing.map fun x => if x.1 = e then (e, f x.2) else x }

/-- A place of the owner's team memory that a pointer of the parameter block names. -/
def Landing.loc (x : Landing) (p : Word) : TmLoc := { team := x.team, addr := p.toNat % 2 ^ 21 }

/-- Status of a slot (R221): 0 SENT. -/
def Landing.stat (x : Landing) (q : Nat) : Nat := x.status.getD q 0

/-- Makes a slot final. -/
def Landing.decide_ (x : Landing) (q st : Nat) : Landing :=
  { x with status := x.status.set q st, answered := x.answered.set q true }

/-- Slots of a row. -/
def Landing.slotsOf (x : Landing) (i : Nat) : List Nat := (List.range x.par.k).map fun kk => i * x.par.k + kk

/-- Every slot of row i is final (R222). -/
def Landing.rowFinal (x : Landing) (i : Nat) : Bool := (x.slotsOf i).all fun q => x.stat q != 0

/-- The FP32 pattern of element j of a row (R222): BF16 widens exactly. -/
def elemF32 (bf16 : Bool) (bs : List Byte) (j : Nat) : Nat :=
  if bf16 then leNat ((bs.drop (2 * j)).take 2) * 65536 else leNat ((bs.drop (4 * j)).take 4)

/-- One element of an output row (R222): terms of the slots, none where ZERO drops one. -/
def reassemble (ws : List Word) (vs : List (Option Nat)) (bf16 : Bool) : Nat × Nat :=
  let r0 := match vs.headD none with
    | some v => fpMul .f32 .rne (ws.headD 0).toNat v
    | none => (0, 0)
  let r1 := match vs.getD 1 none with
    | some v =>
      let r := fpFma .f32 .rne (ws.getD 1 0).toNat v r0.1
      (r.1, r0.2 ||| r.2)
    | none => r0
  if bf16 then
    let r := fpCvt (.fp .bf16) (.fp .f32) .rne false r1.1
    (r.1 % 65536, r1.2 ||| r.2)
  else r1

/-- The bytes of an output row with the flags its elements raise (R222), given the source row. -/
def Landing.rowBytes (x : Landing) (i : Nat) (src : List Byte) : List Byte × Nat :=
  let e := if x.par.bf16 then 2 else 4
  let ws := (x.slotsOf i).map fun q => x.weights.getD q 0
  let rows := (x.slotsOf i).map fun q =>
    if x.stat q = 1 then some (((x.landed.find? fun r => r.1 == q).map (·.2)).getD [])
    else if x.par.pass then some src else none
  let els := (List.range (x.par.rowLen / e)).map fun j =>
    reassemble ws (rows.map fun r => r.map fun bs => elemF32 x.par.bf16 bs j) x.par.bf16
  (els.flatMap fun v => leBytes e v.1, els.foldl (fun n v => n ||| v.2) 0)

/-- Row i reads its source: a slot that did not land takes it under PASS. -/
def Landing.readsSource (x : Landing) (i : Nat) : Bool :=
  x.par.pass && (x.slotsOf i).any fun q => x.stat q != 1

/-- Row i may be written now (R222, R257, R174): final, not written, its source readable, what had left the core
for it before the ferry performed. (DEDUCED, log 32) -/
def State.rowReady (s : State) (core : Nat) (x : Landing) (i : Nat) : Bool :=
  !x.complete && !x.written.getD i true && x.rowFinal i &&
    (!x.readsSource i || s.engineReads core (x.rowLoc x.par.src i) x.par.rowLen x.id) &&
    !s.berthHeld x.id (x.rowLoc x.par.out i) x.par.rowLen &&
    s.routeClear core (x.rowLoc x.par.out i) x.par.rowLen x.id true

/-- What a ferry has captured for a record (R301). -/
def State.ferryBase (s : State) (x : Landing) : FaultRec :=
  let t := s.team x.team
  mkFault t (t.group x.group) 0 x.lane 0 x.pc 0

/-- Writes output row i (R222): bytes, presence, and the flags of the issuing group while it lives.
(DEDUCED, log 32) -/
def State.writeRow (s : State) (core e i : Nat) : State :=
  match s.landing? core e with
  | none => s
  | some x =>
    if s.rowReady core x i then
      let src := x.rowLoc x.par.src i
      let r := x.rowBytes i (s.engineBytes src x.par.rowLen)
      let out := x.rowLoc x.par.out i
      let s := if x.readsSource i then
          s.raiseErrors x.team (s.team x.team).ctx (s.ferryBase x) (s.engineErrors src x.par.rowLen)
        else s
      let s := ((s.tmPuts out 0 r.1).freeLines x.op out x.par.rowLen).modGroup x.team x.group fun g =>
        if g.ended then g else { g with fpflags := g.fpflags ||| BitVec.ofNat 32 (r.2 % 32) }
      s.modLanding core e fun x => { x with written := x.written.set i true }
    else s

/-- An entry whose slots are final and rows written completes and signals its word, as a release at system scope
(R223, R175). -/
def State.completeEntry (s : State) (core e : Nat) : State :=
  match s.landing? core e with
  | none => s
  | some x =>
    let cw := x.loc x.par.cw
    if !x.complete && x.status.all (fun q => q != 0) && x.written.all id &&
        s.signalReady x.team x.group x.id (some cw) then
      let s := s.tmPuts cw 0 (leBytes 8 (leNat (s.tmBytes cw 8) + 1))
      s.modLanding core e fun x => { x with complete := true }
    else s

/-- The rows of an entry that are ready are written, and the entry completes when it is due. -/
def State.advanceEntry (s : State) (core e : Nat) : State :=
  let n := ((s.landing? core e).map fun x => x.par.rows).getD 0
  (foldS (fun s i => s.writeRow core e i) s (List.range n)).completeEntry core e

/-- Every SENT slot becomes final with a status (R227, R229). -/
def Landing.force (x : Landing) (st : Nat) : Landing :=
  { x with status := x.status.map fun q => if q = 0 then st else q, answered := x.answered.map fun _ => true }

/-! ### ferry (R219, R220) -/

/-- Length of the ranges that a parameter block names (R219). -/
def FerryParams.tileLen (p : FerryParams) : Nat := p.rows * p.rowLen
def FerryParams.slots (p : FerryParams) : Nat := p.rows * p.k

/-- The parameter block (printed with P2): the fields, and whether they lie in the limits of R219 step
2; with the landing entry. -/
def parseFerry (bs : List Byte) : FerryParams × Nat × Bool :=
  let f (o n : Nat) : Nat := leNat ((bs.drop o).take n)
  let w (o : Nat) : Word := BitVec.ofNat 32 (f o 4)
  let ok := decide (f 0x14 1 ≤ 1) && (f 0x15 1 == 1 || f 0x15 1 == 2) && decide (f 0x16 1 ≤ 1) &&
    decide (f 0x17 1 ≤ 15) && decide (f 0x10 2 ≤ 256) && decide (16 ≤ f 0x12 2) &&
    decide (f 0x12 2 ≤ 1024) && f 0x12 2 % 16 == 0
  ({ src := w 0, out := w 4, routing := w 8, routes := w 0xC, rows := f 0x10 2, rowLen := f 0x12 2,
     bf16 := f 0x14 1 == 1, k := f 0x15 1, pass := f 0x16 1 == 1, timeout := f 0x18 4, cw := w 0x1C },
   f 0x17 1, ok)

/-- Checks a range of `ferry`: a multiple, then R142 steps 2 to 4; an empty range has no bytes. -/
def State.ferryRange (s : State) (lane : Nat) (p : Word) (len align : Nat) (wr : Bool) : Chk Unit :=
  if p.toNat % align ≠ 0 then .error (codeMisaligned, p.toNat)
  else if len = 0 then .ok ()
  else
    match s.checkSteps s.ct s.cg lane .tm p.toNat len true (!wr) wr with
    | .ok _ => .ok ()
    | .error e => .error e

/-- The parameter block, which the instruction itself reads (R219 step 1, R301). -/
def State.ferryBlock (s : State) (lane : Nat) (p : Word) : Chk Unit :=
  if p.toNat % 32 ≠ 0 then .error (codeMisaligned, p.toNat)
  else
    match s.checkRange s.ct s.cg lane .tm p.toNat 32 true true false with
    | .ok _ => .ok ()
    | .error e => .error e

/-- Two ranges of team memory overlap. -/
def rangesMeet (a n b m : Nat) : Bool := decide (0 < n) && decide (0 < m) && decide (a < b + m) && decide (b < a + n)

/-- The output tile overlaps one of the other five ranges (R219 step 7). -/
def FerryParams.clash (p : FerryParams) (block : Nat) : Bool :=
  let o (w : Word) : Nat := w.toNat % 2 ^ 21
  let hit (b m : Nat) : Bool := rangesMeet (o p.out) p.tileLen b m
  hit (block % 2 ^ 21) 32 || hit (o p.src) p.tileLen || hit (o p.routing) (p.slots * 8) ||
    hit (o p.routes) 256 || hit (o p.cw) 8

/-- Steps 2 to 7 of R219 for a parameter block that has been read. -/
def State.ferryChecks (s : State) (lane block : Nat) (q : FerryParams × Nat × Bool) : Chk Unit :=
  let p := q.1
  let fault : Chk Unit := .error (codeFerry, block)
  if !q.2.2 then fault
  else if (s.landing? s.ct.core q.2.1).isSome then fault
  else do
    s.ferryRange lane p.src p.tileLen 16 false
    s.ferryRange lane p.routing (p.slots * 8) 8 false
    s.ferryRange lane p.routes 256 4 false
    s.ferryRange lane p.out p.tileLen 16 true
    s.ferryRange lane p.cw 8 8 true
    if p.clash block then fault else .ok ()

/-- A valid route (R215): SID and the target core. -/
def route (w : Nat) : Option (Nat × Nat) :=
  if w / 2 ^ 31 % 2 = 1 ∧ w / 2 ^ 16 % 2 ^ 15 = 0 ∧ w / 2 ^ 11 % 2 = 0 ∧ w % 128 ≤ 95 then
    some (w / 2 ^ 12 % 16, w % 2 ^ 11)
  else none

/-- The route of a routing entry: expert index and table. -/
def State.routeOf (s : State) (routes : TmLoc) (x : Nat) : Option (Nat × Nat) :=
  if 63 < x then none else route (leNat (s.engineBytes { routes with addr := routes.addr + 4 * x } 4))

/-- A row handed to the network in send order (R220), or the slot DROP_INVALID. (DEDUCED, log 31) -/
def State.sendRow (s : State) (lane e : Nat) (x : Landing) (entry : Nat) (q : Nat) : State :=
  let t := s.ct
  match s.routeOf (x.loc x.par.routes) (entry % 2 ^ 32) with
  | none => s.modLanding t.core e fun x => x.decide_ q 4
  | some (sid, core) =>
    { s with rowsInFlight := s.rowsInFlight ++
        [{ ferry := x.id, ret := { core := t.core, entry := e, gen := x.gen, slot := q, serial := t.serial },
           team := t.key, ctx := t.ctx, grid := if t.peloton then some t.grid else none,
           record := mkFault t s.cg codeTagAsync lane 0 x.pc 0, core := core, sid := sid,
           src := x.rowLoc x.par.src (q / x.par.k), len := x.par.rowLen, bytes := none }] }

/-- The effect of a lane that passes the checks (R220). (DEDUCED, log 31) -/
def State.openEntry (s : State) (lane : Nat) (p : FerryParams) (e : Nat) : State :=
  let t := s.ct
  let gen : BitVec 16 := tget 0 (s.core t.core).landGens e + 1
  let l (w : Word) : TmLoc := { team := t.key, addr := w.toNat % 2 ^ 21 }
  let rbytes := s.engineBytes (l p.routing) (8 * p.slots)
  let routing := (List.range p.slots).map fun q => leNat ((rbytes.drop (8 * q)).take 8)
  let x : Landing :=
    { id := s.fresh, complete := false, team := t.key, group := s.curGroup, lane := lane, pc := s.cl.here, gen := gen,
      par := p, timer := if p.timeout = 0 then none else some p.timeout,
      status := List.replicate p.slots 0, answered := List.replicate p.slots false,
      weights := routing.map fun r => BitVec.ofNat 32 (r / 2 ^ 32), landed := [],
      written := List.replicate p.rows false }
  let s := s.next.modCore t.core fun c =>
    { c with landing := tins c.landing e x, landGens := tput 0 c.landGens e gen }
  let s := s.raiseErrors t.key t.ctx (s.ferryBase x)
    (s.engineErrors (l p.routing) (8 * p.slots) ++ s.engineErrors (l p.routes) 256)
  let s := foldS (fun s i => s.holdLines x.op (x.rowLoc p.out i) p.rowLen) s (List.range p.rows)
  let s := foldS (fun s (r : Nat × Nat) => s.sendRow lane e x r.1 r.2) s routing.zipIdx
  s.advanceEntry t.core e

/-- The lanes of `ferry` in ascending order; a lane waits while a block it must read at issue has not
been written yet (R174). (DEDUCED, log 31) -/
def State.ferryLoop (s : State) (a : BitVec 7) (lanes : List Nat) (stops : List LaneStop) : Eff :=
  match lanes with
  | [] => .done s stops
  | l :: rest =>
    if s.cg.accepted.getLsbD l then State.ferryLoop s a rest stops
    else
      let block := (s.cg.rg a l).toNat
      let loc (w : Nat) : TmLoc := { team := s.curTeam, addr := w % 2 ^ 21 }
      let core := s.ct.core
      let stop (e : Nat × Nat) : LaneStop := { lane := l, why := .trap e.1 e.2 }
      match s.ferryBlock l (BitVec.ofNat 32 block) with
      | .error e => State.ferryLoop (s.dealt l) a rest (stops ++ [stop e])
      | .ok _ =>
        if !s.engineReads core (loc block) 32 s.fresh then .wait (s.stopEarly stops) .engine
        else
          let q := parseFerry (s.tmBytes (loc block) 32)
          match s.ferryChecks l block q with
          | .error e => State.ferryLoop (s.dealt l) a rest (stops ++ [stop e])
          | .ok _ =>
            if s.engineReads core (loc q.1.routing.toNat) (q.1.slots * 8) s.fresh &&
                s.engineReads core (loc q.1.routes.toNat) 256 s.fresh then
              State.ferryLoop ((s.openEntry l q.1 q.2.1).dealt l) a rest stops
            else .wait (s.stopEarly stops) .engine

def execFerry (o : OpA) (s : State) : Host.Outcome State Fault Refusal :=
  s.draining (.ferry o) fun s => s.ferryLoop o.a (lanesOf (s.active (.ferry o))) []

/-! ### Slips (R217, R224, R225) -/

def State.slip? (s : State) (core sid : Nat) : Option Slip := tfind (s.core core).slips sid

/-- Sets a slip record. -/
def State.setSlip (s : State) (core sid : Nat) (x : Slip) : State :=
  s.modCore core fun c => { c with slips := tins c.slips sid x }

/-- A slip record of the issuing team. (DEDUCED, log 33) -/
def State.ownSlip (s : State) (sid : Nat) : Option Slip :=
  (s.slip? s.ct.core sid).filter fun x => x.team == s.curTeam

/-- The place of a slot. -/
def Slip.slotLoc (x : Slip) (n : Nat) : TmLoc := { team := x.team, addr := x.base.toNat % 2 ^ 21 + n * x.rowLen }

/-- A slot is in flight. -/
def Slip.busy (x : Slip) : Bool := x.slots.any fun y => y != .free

/-- An instruction that executes once for the group (R124), its traps with the slip number. (DEDUCED, log 18) -/
def State.once (s : State) (i : Instr) (sid : Nat) (f : State → Except Nat Eff) : Eff :=
  let act := s.active i
  if act = 0 then .done s []
  else match f s with
    | .ok e => e
    | .error code => .done s (trapLanes act code sid)

def execSlip (sid : BitVec 4) (cap1 rb1 : BitVec 6) (a : BitVec 6) (m : Mods) (s : State) :
    Host.Outcome State Fault Refusal :=
  let i : Instr := .slip sid cap1 rb1 a m
  s.run i fun s => s.once i sid.toNat fun s =>
    let p := s.cg.rs a
    let cap := cap1.toNat + 1
    let rb := 16 * (rb1.toNat + 1)
    match s.place s.ct s.cg .tm p.toNat 1 with
    | none => .error codeRange
    | some _ =>
      if p.toNat % 16 ≠ 0 then .error codeMisaligned
      else if s.ct.tmSize < p.toNat % 2 ^ 21 + cap * rb then .error codeRange
      else
        let bad := match s.slip? s.ct.core sid.toNat with
          | none => false
          | some x => x.team != s.curTeam || !x.closed || x.busy
        if bad then .error codeFerry
        else .ok (.done (s.setSlip s.ct.core sid.toNat
          { closed := false, team := s.curTeam, base := p, rowLen := rb,
            slots := List.replicate cap .free, queue := [] }) [])

def execSlipcl (o : OpSA) (s : State) : Host.Outcome State Fault Refusal :=
  let i : Instr := .slipcl o
  s.run i fun s =>
    let sid := (s.cg.rs o.a).toNat
    s.once i sid fun s =>
      if 15 < sid then .error codeOperand
      else match s.ownSlip sid with
        | none => .error codeFerry
        | some x => .ok (.done (s.setSlip s.ct.core sid { x with closed := true }) [])

/-- The check of a slot's range with the record's tag (R142 steps 3 and 4), as of a read, also for `take`, which reads
no byte of it (DESIGN CHOICE, log 33). -/
def State.slotCheck (s : State) (i : Instr) (x : Slip) (n : Nat) : Chk Place :=
  s.checkPlace s.ct s.cg ((lanesOf (s.active i)).headD 0) .tm (.tm (x.slotLoc n)) (x.base.toNat + n * x.rowLen)
    x.rowLen true true false

def execTake (d : BitVec 6) (sid : BitVec 4) (m : Mods) (s : State) : Host.Outcome State Fault Refusal :=
  let i : Instr := .take d sid m
  s.access i fun s => s.once i sid.toNat fun s =>
    match s.ownSlip sid.toNat with
    | none => .error codeFerry
    | some x =>
      let answer (s : State) (w : Word) : Eff :=
        .done (s.writeLater (writeNames i) 1 (regWrites (writeNames i) 0 [w])) []
      match x.queue with
      | [] => .ok (answer s 0xFFFFFFFF)
      | n :: rest =>
        match s.slotCheck i x n with
        | .error e => .error e.1
        | .ok _ =>
          let slots := match x.slots.getD n .free with
            | .arrived r => x.slots.set n (.taken r)
            | _ => x.slots
          .ok (answer (s.setSlip s.ct.core sid.toNat { x with slots := slots, queue := rest })
            (BitVec.ofNat 32 n))

def execLand (sid : BitVec 4) (a : BitVec 6) (m : Mods) (s : State) : Host.Outcome State Fault Refusal :=
  let i : Instr := .land sid a m
  s.draining i fun s => s.once i sid.toNat fun s =>
    match s.ownSlip sid.toNat with
    | none => .error codeFerry
    | some x =>
      let n := (s.cg.rs a).toNat
      match x.slots.getD n .free with
      | .taken r =>
        match s.slotCheck i x n with
        | .error e => .error e.1
        | .ok _ =>
          if s.engineReads s.ct.core (x.slotLoc n) x.rowLen s.fresh then
            let msg : LandMsg :=
              { ret := r, team := s.curTeam, group := s.curGroup, bytes := s.engineBytes (x.slotLoc n) x.rowLen }
            let low := (lanesOf (s.active i)).headD 0
            let s := s.raiseErrors s.curTeam s.ct.ctx (mkFault s.ct s.cg 0 low 0 s.cl.here 0)
              (s.engineErrors (x.slotLoc n) x.rowLen)
            let s := s.setSlip s.ct.core sid.toNat { x with slots := x.slots.set n .free }
            .ok (.done { s with lands := s.lands ++ [msg] } [])
          else .ok (.wait s .engine)
      | _ => .error codeFerry

/-! ### Landing-table instructions (R226) -/

def execLtstat (o : OpDAB) (s : State) : Host.Outcome State Fault Refusal :=
  let i : Instr := .ltstat o
  s.run i fun s =>
    let r := sortChecks ((lanesOf (s.active i)).map fun l =>
      let e := (s.cg.rg o.a l).toNat
      let q := (s.cg.rg o.b l).toNat
      (l, if 15 < e then (.error (codeOperand, 0) : Chk Word)
        else match s.landing? s.ct.core e with
          | none => .ok 0xFFFFFFFF
          | some x =>
            if x.par.slots ≤ q then .ok 0xFFFFFFFF
            else if x.team ≠ s.curTeam then .error (codeFerry, e)
            else .ok (BitVec.ofNat 32 (x.stat q))))
    .done (s.writeLater (writeNames i) (lanesMask r.1)
      (r.1.flatMap fun x => regWrites (writeNames i) x.1 [x.2])) r.2

/-- `ltfree` in one lane. (DEDUCED, log 33) -/
def State.freeEntry (s : State) (a : BitVec 7) (l : Nat) : State × List LaneStop :=
  let e := (s.cg.rg a l).toNat
  let stop (code addr : Nat) : State × List LaneStop := (s, [{ lane := l, why := .trap code addr }])
  if 15 < e then stop codeOperand 0
  else match s.landing? s.ct.core e with
    | none => (s, [])
    | some x =>
      if x.team ≠ s.curTeam ∨ x.complete = false then stop codeFerry e
      else (s.modCore s.ct.core fun c => { c with landing := tdel c.landing e }, [])

def execLtfree (o : OpA) (s : State) : Host.Outcome State Fault Refusal :=
  s.run (.ltfree o) fun s =>
    let r := overLanes s (lanesOf (s.active (.ltfree o))) fun s l => s.freeEntry o.a l
    .done r.1 r.2

/-! ### Arrivals, answers, landings, timeouts -/

/-- Rows of one stream arrive in send order (R176, R220). -/
def FerryRow.sameStream (a b : FerryRow) : Bool :=
  a.ret.core == b.ret.core && a.ret.entry == b.ret.entry && a.ret.gen == b.ret.gen && a.core == b.core &&
    a.sid == b.sid

/-- The granule tags of a slot differ from the record's pointer tag where the owner checks (R218). -/
def State.slotTagBad (s : State) (x : Slip) (n : Nat) : Bool :=
  !s.tagsMatch (ptrTag x.base.toNat) (x.slotLoc n) x.rowLen

/-- What a row meets at its slip (R218): the status of a refusal with its record, or the slot. (DEDUCED, log 31) -/
def State.admitRow (s : State) (r : FerryRow) : Except (Nat × Option Nat) (Slip × Nat) :=
  match s.slip? r.core r.sid with
  | none => .error (3, none)
  | some x =>
    match s.team? x.team with
    | none => .error (3, none)
    | some t =>
      if x.closed || t.stop != .none then .error (3, none)
      else if !(t.key == r.team || (t.peloton && t.ctx == r.ctx && r.grid == some t.grid)) then
        .error (4, none)
      else if r.len ≠ x.rowLen then .error (4, none)
      else
        match x.slots.findIdx? (fun y => y == .free) with
        | none => .error (2, none)
        | some n =>
          if s.slotTagBad x n then .error (4, some (x.slotLoc n).addr) else .ok (x, n)

/-- FERRY_ROW_ARRIVAL (R218): the row is admitted or refused, and the answer goes back. -/
def execFerryRowArrival (i : Nat) (s : State) : Host.Outcome State Fault Refusal :=
  match s.rowsInFlight[i]? with
  | none => .fault .notEnabled
  | some r =>
    let ready := r.bytes.isSome || s.engineReads r.ret.core r.src r.len r.ferry
    if !ready || (s.rowsInFlight.take i).any (fun q => q.sameStream r) then .fault .notEnabled
    else
      let bs := r.bytes.getD (s.engineBytes r.src r.len)
      let errs := if r.bytes.isSome then [] else s.engineErrors r.src r.len
      let s := ({ s with rowsInFlight := s.rowsInFlight.eraseIdx i } : State).raiseErrors r.team r.ctx r.record errs
      match s.admitRow r with
      | .error (st, addr) =>
        let s := match addr with
          | none => s
          | some a => { s with faults := s.faults ++
              [(r.team, r.ctx, { r.record with addr := BitVec.ofNat 64 a })] }
        .next { s with answers := s.answers ++ [{ ret := r.ret, status := st }] }
      | .ok (x, n) =>
        let s := s.setSlip r.core r.sid
          { x with slots := x.slots.set n (.arrived r.ret), queue := x.queue ++ [n] }
        let w : RowWrite :=
          { id := s.fresh, ferry := r.ferry, core := r.ret.core, team := r.team, group := r.record.group, sid := r.sid,
            loc := x.slotLoc n, bytes := bs }
        let s := s.holdLines w.op (x.slotLoc n) x.rowLen
        .next { s.next with
          rowWrites := s.rowWrites ++ [w]
          answers := s.answers ++ [{ ret := r.ret, status := 0 }] }

/-- The OPEN entry that a return address names (R217, R228). -/
def State.openFor (s : State) (r : RetAddr) : Option Landing :=
  (s.landing? r.core r.entry).filter fun x => !x.complete && x.gen == r.gen

/-- SLIP_ANSWER (R218): a refusal makes a SENT slot final; an answer for a final slot changes nothing. -/
def execSlipAnswer (i : Nat) (s : State) : Host.Outcome State Fault Refusal :=
  match s.answers[i]? with
  | none => .fault .notEnabled
  | some a =>
    let s := { s with answers := s.answers.eraseIdx i }
    match s.openFor a.ret with
    | none => .next s
    | some x =>
      let s := s.modLanding a.ret.core a.ret.entry fun x =>
        if a.status ≠ 0 ∧ x.stat a.ret.slot = 0 then x.decide_ a.ret.slot a.status
        else { x with answered := x.answered.set a.ret.slot true }
      .next ((s.advanceEntry a.ret.core a.ret.entry).settle x.team)

/-- A late landing is counted for the sending team, where it is resident (R228). (DEDUCED, log 33) -/
def State.countLate (s : State) (r : RetAddr) : State :=
  { s with teams := s.teams.map fun t =>
      if t.core = r.core ∧ t.serial = r.serial then
        { t with ferrylate := if t.ferrylate = 0xFFFFFFFF then t.ferrylate else t.ferrylate + 1 }
      else t }

/-- LAND_DELIVERY (R221, R228). -/
def execLandDelivery (i : Nat) (s : State) : Host.Outcome State Fault Refusal :=
  match s.lands[i]? with
  | none => .fault .notEnabled
  | some l =>
    let s := { s with lands := s.lands.eraseIdx i }
    let sent := (s.openFor l.ret).filter fun x => x.stat l.ret.slot == 0
    match sent with
    | none => .next ((s.countLate l.ret).settle l.team)
    | some x =>
      let s := s.modLanding l.ret.core l.ret.entry fun x =>
        { x.decide_ l.ret.slot 1 with landed := x.landed ++ [(l.ret.slot, l.bytes)] }
      .next (((s.advanceEntry l.ret.core l.ret.entry).settle x.team).settle l.team)

/-- Rows of an expired entry (R227): those sent travel on with the bytes they were sent with, the others
are never sent. How many have been sent is open; a row whose source cannot be read has not been. -/
def State.keepSent (s : State) (core e : Nat) (gen : BitVec 16) : State :=
  let mine (r : FerryRow) : Bool := r.ret.core == core && r.ret.entry == e && r.ret.gen == gen
  let rows := s.rowsInFlight.filter mine
  let sent := ((rows.take (Config.rowsSent s.tick)).takeWhile fun r => s.engineReads core r.src r.len r.ferry).map
    fun r => { r with bytes := some (s.engineBytes r.src r.len) }
  let s := foldS (fun s' r => if (rows.any fun q => q.ret == r.ret && q.bytes.isNone) then
      s'.raiseErrors r.team r.ctx r.record (s.engineErrors r.src r.len) else s') s sent
  { s with rowsInFlight := (s.rowsInFlight.filter fun r => !mine r) ++ sent }

/-- LANDING_TIMEOUT (R227). -/
def execLandingTimeout (core e : Nat) (s : State) : Host.Outcome State Fault Refusal :=
  match s.landing? core e with
  | none => .fault .notEnabled
  | some x =>
    if x.complete || x.timer != some 0 || !(s.team? x.team).isSome then .fault .notEnabled
    else
      let s := (s.keepSent core e x.gen).modLanding core e fun x => x.force 5
      .next ((s.advanceEntry core e).settle x.team)

/-- A row or an entry that waits for its source, a berth or its completion word goes on (R222). (DEDUCED, log 32) -/
def State.entryStep (s : State) (n : Nat) : Host.Outcome State Fault Refusal :=
  let all := s.cores.flatMap fun c => c.2.landing.map fun e => (c.1, e.1)
  match all[n]? with
  | none => .fault .notEnabled
  | some (core, e) =>
    let t := ((s.landing? core e).map fun x => x.team).getD 0
    let s' := s.advanceEntry core e
    if s'.landing? core e = s.landing? core e then .fault .notEnabled else .next (s'.settle t)

/-- An earlier admitted row of the same stream is on its way to a bank of the row at a position: the reorder buffer
has released it first (R176, R162). What its home holds for a berth has reached it (R257). (DESIGN CHOICE, log 93) -/
def State.rowBehind (s : State) (i : Nat) (w : RowWrite) : Bool :=
  (s.rowWrites.take i).any fun v => v.ferry == w.ferry && v.sid == w.sid && !s.berthHeld v.id v.loc v.bytes.length &&
    s.sameBank v.loc v.bytes.length w.loc w.bytes.length

/-- An admitted ferry row's bytes reach their slot (R218, R143), after what had left the sending core for its banks
before the ferry (R174) and the earlier rows of its stream (R176). (DEDUCED, log 31) -/
def State.rowStep (s : State) (i : Nat) : Host.Outcome State Fault Refusal :=
  match s.rowWrites[i]? with
  | none => .fault .notEnabled
  | some w =>
    if s.berthHeld w.id w.loc w.bytes.length || s.rowBehind i w ||
        !s.routeClear w.core w.loc w.bytes.length w.ferry true then
      .fault .notEnabled
    else
      let s := { s with rowWrites := s.rowWrites.eraseIdx i }
      .next ((s.tmPuts w.loc 0 w.bytes).freeLines w.op w.loc w.bytes.length)

/-- HOME_PERFORM (R162): position i counts the packets, then the copy-family operations, of which a
unit j is performed, then the ferry rows at their slips, then the landing entries. -/
def execHomePerform (i j : Nat) (s : State) : Host.Outcome State Fault Refusal :=
  let n := s.net.length
  let c := n + s.copies.length
  let r := c + s.rowWrites.length
  if i < n then s.packetStep i
  else if i < c then s.copyStep (i - n) j false
  else if i < r then s.rowStep (i - c)
  else s.entryStep (i - r)

end Sys2Proof.Machine
end

