-- ==== Sys2Proof/Machine/Tile.lean ====
section
/-! DEFINITION. Arithmetic of the matrix engine and of `cvtb`: group sums in a fixed order (R243-R246),
4-bit blocks (R239, R240) and their quantisation (R281). -/

namespace Sys2Proof.Machine

/-! ### Operand formats (R254, R243) -/

/-- The floating format of a berth format code. -/
def berthFloat (f : Nat) : Option FTy :=
  match f with
  | 0 => some .bf16 | 1 => some .f16 | 2 => some .e4m3 | 3 => some .e5m2 | _ => none

/-- Elements of a line that stand in a number of bytes: two codes of `.q4` share a byte. -/
def lineBytes (f n : Nat) : Nat :=
  match f with
  | 0 => 2 * n | 1 => 2 * n | 4 => n / 2 | _ => n

/-- Group length (R243): 16 for the 16-bit formats, 32 for the 8-bit ones, BL for `.q4`. -/
def groupLen (f bl : Nat) : Nat := if f < 2 then 16 else if f = 4 then bl else 32

/-- Formats that pair, with the block lengths (R243). -/
def pairs (fa fb bla blb : Nat) : Bool :=
  (fa < 2 && fb < 2) || ((fa == 2 || fa == 3) && (fb == 2 || fb == 3)) || (fa == 5 && fb == 5) ||
    (fa == 4 && fb == 4 && bla == blb)

/-! ### Group sums (R244) -/

/-- What a list of products amounts to: NaN and its flags, infinities seen, the exact finite sum, and
whether every term was -0. -/
structure Terms where
  nan : Bool
  nv : Bool
  pinf : Bool
  ninf : Bool
  sum : Int
  exp : Int
  negz : Bool
  deriving DecidableEq, Repr

def Terms.zero : Terms :=
  { nan := false, nv := false, pinf := false, ninf := false, sum := 0, exp := 0, negz := true }

/-- One more product. (DEDUCED, log 34) -/
def Terms.add (t : Terms) (a b : FVal) : Terms :=
  match mulExact a b with
  | none => { t with nan := true, nv := true, negz := false }
  | some (.nan s) => { t with nan := true, nv := t.nv || s, negz := false }
  | some (.inf n) => { t with pinf := t.pinf || !n, ninf := t.ninf || n, negz := false }
  | some (.fin n m e) =>
    if m = 0 then { t with negz := t.negz && n }
    else
      let r := sumExact (t.sum < 0) t.sum.natAbs t.exp n m e
      { t with sum := r.1, exp := r.2, negz := false }

/-- The rounded group sum and its flags. -/
def Terms.round (t : Terms) : Nat × Nat :=
  if t.nan || (t.pinf && t.ninf) then nanF .f32 (if t.nv || (t.pinf && t.ninf) then 1 else 0)
  else if t.pinf || t.ninf then (signPat .f32 t.ninf + infPat .f32, 0)
  else if t.sum = 0 then (signPat .f32 t.negz, 0)
  else roundF .f32 .rne false (t.sum < 0) t.sum.natAbs t.exp false

/-- The sum of one group of floating products. (DEDUCED, log 34) -/
def groupFloat (ab : List (FVal × FVal)) : Nat × Nat :=
  (ab.foldl (fun t x => t.add x.1 x.2) Terms.zero).round

/-- A signed byte. -/
def signed8 (v : Nat) : Int := (BitVec.ofNat 8 v).toInt

/-- The sum of one group of integer products, exact in FP32. -/
def groupInt (ab : List (Nat × Nat)) : Nat × Nat :=
  let s := ab.foldl (fun n x => n + signed8 x.1 * signed8 x.2) (0 : Int)
  if s = 0 then (0, 0) else roundF .f32 .rne false (s < 0) s.natAbs 0 false

/-! ### 4-bit blocks (R239, R240, R245) -/

/-- Magnitudes of codes 0 to 7 in eighths, by TYPE (R240). -/
def codeMag (ty m : Nat) : Nat :=
  match ty with
  | 0 => 8 * m
  | 1 => [0, 4, 8, 12, 16, 24, 32, 48].getD m 0
  | 2 => [0, 1, 2, 4, 8, 16, 32, 64].getD m 0
  | _ => [0, 8, 16, 24, 32, 48, 64, 96].getD m 0

/-- The value of a code in eighths (R240). -/
def codeVal (ty c : Nat) : Int :=
  if c % 16 < 8 then (codeMag ty (c % 16) : Int)
  else if ty = 0 then 8 * ((c % 16 : Nat) : Int) - 128
  else -(codeMag ty (c % 16 - 8) : Int)

/-- A `.q4` element as it is read: code in bits 3 to 0, scale byte in bits 11 to 4. -/
def q4Code (w : Nat) : Nat := w % 16
def q4Type (w : Nat) : Nat := w / 2 ^ 10 % 4
def q4Exp (w : Nat) : Nat := w / 16 % 64

/-- The term of one block pair (R245): the first rounding is exact. -/
def blockTerm (ab : List (Nat × Nat)) : Nat :=
  let ea := ((ab.head?).map fun x => q4Exp x.1).getD 0
  let eb := ((ab.head?).map fun x => q4Exp x.2).getD 0
  if ea = 63 ∨ eb = 63 then canonNan .f32
  else
    let s := ab.foldl (fun n x =>
      n + codeVal (q4Type x.1) (q4Code x.1) * codeVal (q4Type x.2) (q4Code x.2)) (0 : Int)
    if s = 0 then 0
    else (roundF .f32 .rne false (s < 0) s.natAbs ((ea : Int) + eb - 70) false).1

/-! ### One output element (R244, R245) -/

/-- The sum of a group by format, with its flags. -/
def groupSum (fa fb : Nat) (ab : List (Nat × Nat)) : Nat × Nat :=
  match berthFloat fa, berthFloat fb with
  | some ta, some tb => groupFloat (ab.map fun x => (unpackF ta x.1, unpackF tb x.2))
  | _, _ => if fa = 5 then groupInt ab else (blockTerm ab, 0)

/-- Adds the groups in ascending order to the accumulator. -/
def sumGroups (fa fb : Nat) (groups : List (List (Nat × Nat))) (acc fl : Nat) : Nat × Nat :=
  match groups with
  | [] => (acc, fl)
  | g :: rest =>
    let s := groupSum fa fb g
    let r := fpAdd .f32 .rne acc s.1
    sumGroups fa fb rest r.1 (fl ||| s.2 ||| r.2)

/-- Cuts a list into pieces of n elements; `fuel` bounds their number. -/
def pieces {α : Type} (n : Nat) (l : List α) (fuel : Nat) : List (List α) :=
  match fuel with
  | 0 => []
  | fuel + 1 => if l.isEmpty then [] else l.take n :: pieces n (l.drop n) fuel

/-- An output element: the accumulator's old value, operand patterns along K. (DEDUCED, log 34) -/
def dotElem (fa fb bl acc : Nat) (ab : List (Nat × Nat)) : Nat × Nat :=
  sumGroups fa fb (pieces (groupLen fa bl) ab ab.length) acc 0

/-! ### Quantisation (R281) -/

/-- The largest code magnitude of a TYPE, in eighths. -/
def codeMax (ty : Nat) : Nat := match ty with | 0 => 56 | _ => codeMag ty 7

/-- A magnitude in eighths of the scale 2^(exp - 32), as a quotient of naturals. -/
def inEighths (m : Nat) (e : Int) (ex : Nat) : Nat × Nat :=
  let sh := e + 35 - ex
  if 0 ≤ sh then (m * 2 ^ sh.toNat, 1) else (m, 2 ^ (-sh).toNat)

/-- The block's EXP: the smallest that holds the magnitude, or 62. (DEDUCED, log 35) -/
def blockExp (ty m : Nat) (e : Int) : Nat :=
  ((List.range 63).find? fun ex =>
    let v := inEighths m e ex
    decide (v.1 ≤ codeMax ty * v.2)).getD 62

/-- The nearest code magnitude to a quotient in eighths, ties to the even code, with whether it is
exact. (DEDUCED, log 35) -/
def nearestCode (ty : Nat) (v : Nat × Nat) : Nat × Bool :=
  let dist (c : Nat) : Nat :=
    let x := codeMag ty c * v.2
    if v.1 ≤ x then x - v.1 else v.1 - x
  let best := (List.range 8).foldl (fun b c =>
    if dist c < dist b || (dist c == dist b && c % 2 == 0) then c else b) 0
  (best, dist best == 0)

/-- The code of a signed magnitude: two's complement for TYPE 0; magnitude 0 gives 0. -/
def signCode (ty : Nat) (neg : Bool) (c : Nat) : Nat :=
  if c = 0 then 0 else if !neg then c else if ty = 0 then 16 - c else 8 + c

/-- The code and flags of one value under an EXP. -/
def quantise (ty ex : Nat) (v : FVal) : Nat × Nat :=
  match v with
  | .nan _ => (0, 0)
  | .inf n => (signCode ty n 7, 10)
  | .fin n m e =>
    let q := inEighths m e ex
    if codeMax ty * q.2 < q.1 then (signCode ty n 7, 10)
    else
      let r := nearestCode ty q
      (signCode ty n r.1, if r.2 then 0 else 8)

/-- A block: its codes, its scale byte and flags. (DEDUCED, log 35) -/
def quantBlock (ty : Nat) (vs : List FVal) : List Nat × Nat × Nat :=
  if vs.any FVal.isNan then
    (vs.map fun _ => 0, ty * 64 + 63, vs.foldl (fun n v => n ||| v.snan) 0)
  else
    let ex :=
      if vs.any fun v => match v with | .inf _ => true | _ => false then 62
      else vs.foldl (fun x v => match v with
        | .fin _ m e => max x (blockExp ty m e)
        | _ => x) 0
    let r := vs.map (quantise ty ex)
    (r.map (·.1), ty * 64 + ex, r.foldl (fun n x => n ||| x.2) 0)

end Sys2Proof.Machine
end

