-- ==== Sys2Proof/Machine/Matrix.lean ====
section
/-! DEFINITION. The matrix engine, berths, accumulator rows and windows (R251-R282). -/

namespace Sys2Proof.Machine

/-! ### The accumulator store (R251-R253, R263) -/

/-- Key of a word of a team row. -/
def accKey (t : Team) (row word : Nat) : Nat := 32 * (32 * t.firstUnit + row) + word

/-- A word of a team row. -/
def State.accWord (s : State) (t : Team) (row word : Nat) : Word :=
  tget 0 (s.core t.core).acc (accKey t row word)

/-- Writes a word of a team row. -/
def State.accPut (s : State) (t : Team) (row word : Nat) (v : Word) : State :=
  s.modCore t.core fun c => { c with acc := tput 0 c.acc (accKey t row word) v }

/-- The context that owns the store (R233). -/
def Core.owner (c : Core) : Option Nat :=
  if c.accowner.getLsbD 31 then some (c.accowner.toNat % 65536) else none

/-- A team whose rows are still to be restored or cleared (R264). -/
def Team.rowsDue (t : Team) : Bool := t.restoreMark.isSome || t.clearMark

/-- The lazy save condition (R263): the store is another context's, or a mark is set. -/
def State.firstUse (s : State) (t : Team) : Bool := (s.core t.core).owner != some t.ctx || t.rowsDue

/-- Window rows r to r + n - 1 lie in the group's window (R253, R269). -/
def Group.inWindow (g : Group) (r n : Nat) : Bool := decide (g.accbase.toNat + r + n ≤ g.acclim.toNat)

/-- First window row of a row reference (R269). -/
def rowRef (g : Group) (r : Row) : Nat := (if r.ax then (g.rs r.a).toNat else 0) + r.roff.toNat

/-- Team rows that a Chain operation of the group or one of its `mmax` in flight owns (R260). -/
def State.rowsOwned (s : State) (k g row n : Nat) : Bool :=
  let meets (a m : Nat) : Bool := decide (a < row + n) && decide (row < a + m)
  (s.mmaxs.any fun o => o.team == k && o.group == g && meets o.row o.rows) ||
    (match (s.group k g).chprog with
     | none => false
     | some c => meets c.row c.n)

/-- An uncorrectable word at a word of a team row, and in some word of team rows (R301). (DESIGN CHOICE, log 28) -/
def State.wordEcc (s : State) (t : Team) (row word : Nat) : Bool :=
  s.eccRows.contains (t.core, accKey t row word)
def State.rowsEcc (s : State) (t : Team) (row n : Nat) : Bool :=
  s.eccRows.any fun x => x.1 == t.core && decide (accKey t row 0 ≤ x.2) && decide (x.2 < accKey t (row + n) 0)

/-- A touching instruction that executes once for the group: ACC_FIRST_USE, ACC_WINDOW, its own checks,
and the interlock (R268); `f` gets the first team row. (DEDUCED, log 38) -/
def State.touch (s : State) (i : Instr) (ref : Row) (n : Nat) (check : State → Option (Nat × Nat))
    (f : State → Nat → Eff) : Eff :=
  let act := s.active i
  if act = 0 then .done s []
  else if s.firstUse s.ct then .done s (trapLanes act codeFirstUse 0)
  else if !s.cg.inWindow (rowRef s.cg ref) n then .done s (trapLanes act codeAccWindow 0)
  else
    match check s with
    | some (code, a) => .done s (trapLanes act code a)
    | none =>
      let row := s.cg.accbase.toNat + rowRef s.cg ref
      if s.rowsOwned s.curTeam s.curGroup row n then .wait s .engine else f s row

/-- Window flags (R247): ORed, never trapping. -/
def State.windowFlags (s : State) (k g fl : Nat) : State :=
  s.modGroup k g fun x => if x.ended then x else { x with wflags := x.wflags ||| BitVec.ofNat 5 fl }

/-! ### accw, accz, accld, accst, accflg (R276, R277, R282) -/

def execAccw (a b c : BitVec 6) (m : Mods) (s : State) : Host.Outcome State Fault Refusal :=
  let i : Instr := .accw a b c m
  s.run i fun s =>
    let act := s.active i
    let g := s.cg
    let k := (g.rs a).toNat
    if act = 0 then .done s []
    else if s.curGroup ≠ 0 then .done s (trapLanes act codeAccWindow 0)
    else if s.ct.groups.length ≤ k then .done s (trapLanes act codeOperand 0)
    else if s.ct.rows < (g.rs b).toNat ∨ s.ct.rows < (g.rs c).toNat then
      .done s (trapLanes act codeAccWindow 0)
    else
      .done (s.modGroup s.curTeam k fun x =>
        if x.ended then x
        else { x with accbase := (g.rs b).setWidth 15, acclim := (g.rs c).setWidth 15 }) []

def execAccz (row : Row) (count : BitVec 16) (m : Mods) (s : State) : Host.Outcome State Fault Refusal :=
  let i : Instr := .accz row count m
  s.run i fun s => s.touch i row count.toNat (fun _ => none) fun s r =>
    let t := s.ct
    .done (foldS (fun s q => foldS (fun s w => s.accPut t (r + q) w 0) s (List.range 32)) s
      (List.range count.toNat)) []

def execAccld (d : BitVec 7) (row : Row) (m : Mods) (s : State) : Host.Outcome State Fault Refusal :=
  let i : Instr := .accld d row m
  s.run i fun s => s.touch i row 1 (fun _ => none) fun s r =>
    let act := s.active i
    if (lanesOf act).any fun l => s.wordEcc s.ct r l then .done s (trapLanes act codeEcc 0)
    else .done (s.writeLater (writeNames i) act (s.lanewise i fun _ l => [s.accWord s.ct r l])) []

def execAccst (row : Row) (b : BitVec 7) (m : Mods) (s : State) : Host.Outcome State Fault Refusal :=
  let i : Instr := .accst row b m
  s.run i fun s => s.touch i row 1 (fun _ => none) fun s r =>
    let t := s.ct
    let g := s.cg
    .done (foldS (fun s l => s.accPut t r l (g.rg b l)) s (lanesOf (s.active i))) []

def execAccflg (d : BitVec 6) (m : Mods) (s : State) : Host.Outcome State Fault Refusal :=
  let i : Instr := .accflg d m
  s.run i fun s =>
    if s.active i = 0 then .done s []
    else
      let v : Word := s.cg.wflags.setWidth 32
      .done ((s.modCg fun g => { g with wflags := 0 }).writeLater (writeNames i) 1
        (regWrites (writeNames i) 0 [v])) []

/-! ### accout and cvtb (R278-R281) -/

/-- A range written outside the queue may be written now: its lines are present, the core's earlier
writes to it performed, and no matrix operation reads it (R144, R174, R257). -/
def State.writable (s : State) (l : TmLoc) (n : Nat) : Bool :=
  s.engineReads s.ct.core l n s.fresh && !s.berthHeld s.fresh l n

/-- The type of an `accout` element: its CVT form and its size. -/
def outSize (t : FTy) : Nat := match t with | .f32 => 4 | .f16 => 2 | .bf16 => 2 | _ => 1

/-- One converted word of `accout` (R279): index and stream of the stochastic rounding. (DEDUCED, log 39) -/
def outWord (t : FTy) (rm : RmS) (sat : Bool) (seed stream index : Nat) (x : Word) : Nat × Nat :=
  match t, rm with
  | .f32, _ =>
    let v := unpackF .f32 x.toNat
    if v.isNan then nanF .f32 v.snan else (x.toNat, 0)
  | t, .rs => fpCvtRs t sat x.toNat (draw16 seed stream index)
  | t, .det r => fpCvt (.fp t) (.fp .f32) r sat x.toNat

/-- A pointer in an S register checked as a write: step 1, then steps 2 to 4 of R142. -/
def State.writeCheck (s : State) (i : Instr) (p n align : Nat) : Chk TmLoc :=
  if p % align ≠ 0 then .error (codeMisaligned, p)
  else
    match s.checkRange s.ct s.cg ((lanesOf (s.active i)).headD 0) .tm p n true false true with
    | .ok (.tm l) => .ok l
    | .ok (.sk _) => .error (codeRange, p)
    | .error e => .error e

/-- The error of a check. -/
def Chk.error? {α : Type} (c : Chk α) : Option (Nat × Nat) :=
  match c with | .ok _ => none | .error e => some e

def execAccout (d : BitVec 6) (row : Row) (b : BitVec 6) (t : FTy) (rm : RmS) (sat : Bool) (n1 : BitVec 8)
    (m : Mods) (s : State) : Host.Outcome State Fault Refusal :=
  let i : Instr := .accout d row b t rm sat n1 m
  let n := n1.toNat + 1
  let e := outSize t
  s.draining i fun s =>
    let dst := s.writeCheck i (s.cg.rs d).toNat (32 * n * e) 16
    s.touch i row n (fun _ => dst.error?) fun s r =>
        match dst with
        | .error _ => .done s []
        | .ok l =>
          if s.rowsEcc s.ct r n then .done s (trapLanes (s.active i) codeEcc 0)
          else if s.writable l (32 * n * e) then
            let g := s.cg
            let els := (List.range (32 * n)).map fun k =>
              outWord t rm sat g.rngseed.toNat (g.read (.s (b.toNat + 1)) 0).toNat
                (((g.rs b).toNat + k) % 2 ^ 32) (s.accWord s.ct (r + k / 32) (k % 32))
            let s := s.tmPuts l 0 (els.flatMap fun x => leBytes e x.1)
            .done (s.windowFlags s.curTeam s.curGroup (els.foldl (fun f x => f ||| x.2) 0)) []
          else .wait s .engine

/-- The blocks of `cvtb`: codes, scale byte and flags of each. (DEDUCED, log 35) -/
def cvtbBlocks (g : Group) (act : Mask) (a : BitVec 7) (ty bl : Nat) : List (List Nat × Nat × Nat) :=
  (List.range (32 / bl)).map fun b =>
    quantBlock ty ((List.range bl).map fun j =>
      let l := bl * b + j
      if act.getLsbD l then unpackF .f32 (g.rg a l).toNat else .fin false 0 0)

/-- Packs codes two to a byte (R239). -/
def packCodes (l : List Nat) : List Byte :=
  (List.range (l.length / 2)).map fun n =>
    BitVec.ofNat 8 (l.getD (2 * n) 0 + 16 * l.getD (2 * n + 1) 0)

def execCvtb (d : BitVec 6) (a : BitVec 7) (b : BitVec 6) (ty : BitVec 2) (bl32 : Bool) (m : Mods)
    (s : State) : Host.Outcome State Fault Refusal :=
  let i : Instr := .cvtb d a b ty bl32 m
  let bl := if bl32 then 32 else 16
  let nb := if bl32 then 1 else 2
  s.draining i fun s =>
    let act := s.active i
    if act = 0 then .done s []
    else
      match s.writeCheck i (s.cg.rs d).toNat 16 16 with
      | .error (code, p) => .done s (trapLanes act code p)
      | .ok lc =>
        match s.writeCheck i (s.cg.rs b).toNat nb nb with
        | .error (code, p) => .done s (trapLanes act code p)
        | .ok ls =>
          if lc.addr < ls.addr + nb ∧ ls.addr < lc.addr + 16 then .done s (trapLanes act codeOperand 0)
          else if s.writable lc 16 && s.writable ls nb then
            let blocks := cvtbBlocks s.cg act a ty.toNat bl
            let s := s.tmPuts lc 0 (packCodes (blocks.flatMap fun x => x.1))
            let s := s.tmPuts ls 0 (blocks.map fun x => BitVec.ofNat 8 x.2.1)
            .done (s.windowFlags s.curTeam s.curGroup (blocks.foldl (fun f x => f ||| x.2.2) 0)) []
          else .wait s .engine

/-! ### Berths (R254-R256, R270, R271) -/

def State.berth? (s : State) (core n : Nat) : Option Berth := tfind (s.core core).berths n

/-- An operation in flight that still reads a record (R256). -/
def State.berthBusy (s : State) (core n : Nat) : Bool :=
  s.mmaxs.any fun o => o.core == core && !o.readDone && (o.a == n || o.b == n)

/-- A descriptor (the layout printed with P3), owned by a group. -/
def parseBerth (team group : Nat) (bs : List Byte) : Berth :=
  let f (o n : Nat) : Nat := leNat ((bs.drop o).take n)
  { team := team, group := group, base := BitVec.ofNat 32 (f 0 4), length := f 4 4, rows := f 8 2,
    cols := f 0xA 2, stride := f 0xC 4, fmt := f 0x10 1, layout := f 0x11 1, bl := f 0x12 1,
    scale := f 0x14 4 }

/-- Lines and elements of a line (R254). -/
def Berth.lines (b : Berth) : Nat := if b.layout = 0 then b.rows else b.cols
def Berth.lineLen (b : Berth) : Nat := if b.layout = 0 then b.cols else b.rows

/-- Bytes of a line, and of the data (R254). -/
def Berth.lineBytes (b : Berth) : Nat := Sys2Proof.Machine.lineBytes b.fmt b.lineLen
def Berth.extent (b : Berth) : Nat := (b.lines - 1) * b.stride + b.lineBytes
def Berth.scaleLen (b : Berth) : Nat := if b.fmt = 4 then b.lines * (b.lineLen / b.bl) else 0

/-- The limits of R254 up to the length, in the order of its table: whether one is breached. A `.q4` scale region in the
gaps that the stride leaves between lines counts as overlapping the data (DESIGN CHOICE, log 106). -/
def Berth.bad (b : Berth) (reserved : Bool) : Bool :=
  let q4 := b.fmt == 4
  decide (5 < b.fmt) || decide (1 < b.layout) || b.rows == 0 || decide (8192 < b.rows) || b.cols == 0 ||
    decide (8192 < b.cols) || b.stride % 16 != 0 || decide (b.stride < b.lineBytes) ||
    (if q4 then b.bl != 16 && b.bl != 32 else b.bl != 0) || (q4 && b.lineLen % b.bl != 0) ||
    (if q4 then decide (b.length < b.scale + b.scaleLen) || decide (b.scale < b.extent) else b.scale != 0) ||
    reserved || decide (b.length < b.extent)

/-- The checks of a descriptor (R254, R270). -/
def State.berthCheck (s : State) (i : Instr) (b : Berth) (reserved : Bool) : Option (Nat × Nat) :=
  let p := b.base.toNat
  if p % 16 ≠ 0 then some (codeMisaligned, p)
  else if (s.place s.ct s.cg .tm p 1).isNone then some (codeRange, p)
  else if b.bad reserved then some (codeBerth, 0)
  else if s.ct.tmSize < p % 2 ^ 21 + b.length then some (codeRange, p)
  else (s.checkSteps s.ct s.cg ((lanesOf (s.active i)).headD 0) .tm p b.length true true false).error?

/-- The bytes at a place as the lowest active lane reads them (R164, R270). -/
def State.laneBytes (s : State) (lane : Nat) (l : TmLoc) (n : Nat) : List Byte :=
  ((s.cg.forwards lane l n).zip (s.tmBytes l n)).map fun x => x.1.getD x.2

def execBerth (a : BitVec 6) (n : BitVec 5) (m : Mods) (s : State) : Host.Outcome State Fault Refusal :=
  let i : Instr := .berth a n m
  s.access i fun s =>
    let act := s.active i
    let low := (lanesOf act).headD 0
    let p := (s.cg.rs a).toNat
    if act = 0 then .done s []
    else
      match s.checkElem s.ct s.cg low .tm p 32 true false with
      | .error (code, x) => .done s (trapLanes act code x)
      | .ok (.sk _) => .done s (trapLanes act codeRange p)
      | .ok (.tm l) =>
        let core := s.ct.core
        let foreign := match s.berth? core n.toNat with
          | none => false
          | some r => r.team != s.curTeam || r.group != s.curGroup
        if !s.engineReads core l 32 s.fresh then .wait s .engine
        else if foreign then .done s (trapLanes act codeBerth 0)
        else if s.berthBusy core n.toNat then .wait s .engine
        else
          let bs := s.laneBytes low l 32
          let b := parseBerth s.curTeam s.curGroup bs
          let reserved := (bs.getD 0x13 0 != 0) || (bs.drop 0x18).any (· != 0)
          match s.berthCheck i b reserved with
          | some (code, x) => .done s (trapLanes act code x)
          | none => .done (s.modCore core fun c => { c with berths := tins c.berths n.toNat b }) []

def execUnberth (o : OpSA) (s : State) : Host.Outcome State Fault Refusal :=
  let i : Instr := .unberth o
  s.run i fun s =>
    let act := s.active i
    let n := (s.cg.rs o.a).toNat
    if act = 0 then .done s []
    else if 31 < n then .done s (trapLanes act codeOperand 0)
    else
      match s.berth? s.ct.core n with
      | none => .done s []
      | some r =>
        if r.team ≠ s.curTeam ∨ r.group ≠ s.curGroup then .done s (trapLanes act codeBerth 0)
        else if s.berthBusy s.ct.core n then .wait s .engine
        else .done (s.modCore s.ct.core fun c => { c with berths := tdel c.berths n }) []

/-- An element of a berth as it is read (R255): a pattern, or a `.q4` code with its scale byte. -/
def State.berthElem (s : State) (b : Berth) (r c : Nat) : Word :=
  let line := if b.layout = 0 then r else c
  let pos := if b.layout = 0 then c else r
  let at_ (off : Nat) : TmLoc := { team := b.team, addr := b.base.toNat % 2 ^ 21 + off }
  let v := match b.fmt with
    | 0 => leNat (s.tmBytes (at_ (line * b.stride + 2 * pos)) 2)
    | 1 => leNat (s.tmBytes (at_ (line * b.stride + 2 * pos)) 2)
    | 4 =>
      let code := (s.tmByte (at_ (line * b.stride + pos / 2)) 0).toNat / 16 ^ (pos % 2) % 16
      let sc := (s.tmByte (at_ (b.scale + line * (b.lineLen / b.bl) + pos / b.bl)) 0).toNat
      code + 16 * sc
    | _ => (s.tmByte (at_ (line * b.stride + pos)) 0).toNat
  BitVec.ofNat 32 v

/-! ### mmas (R262, R272, R273) -/

/-- The format of an `mmas` operand. -/
def MmTy.fty : MmTy → FTy
  | .f16 => .f16 | .bf16 => .bf16 | .e4m3 => .e4m3 | .e5m2 => .e5m2

/-- Berth code of the same format. -/
def MmTy.code : MmTy → Nat
  | .bf16 => 0 | .f16 => 1 | .e4m3 => 2 | .e5m2 => 3

/-- Element (i, k) of a fragment: K runs along the two lanes of a row (R262). -/
def fragElem (g : Group) (base : BitVec 7) (wide : Bool) (i k : Nat) : Nat :=
  let half := if wide then 8 else 16
  let per := if wide then 2 else 4
  let lane := 2 * i + k / half
  let o := k % half
  let w := (g.read (.g (base.toNat + o / per)) lane).toNat
  if wide then w / 2 ^ (16 * (o % 2)) % 2 ^ 16 else w / 2 ^ (8 * (o % 4)) % 2 ^ 8

/-- Element (i, j) of D with its flags. -/
def mmasElem (g : Group) (o : OpDABC) (ta tb : MmTy) (i j : Nat) : Nat × Nat :=
  let wide := ta.code < 2
  let n := if wide then 16 else 32
  let acc := (g.read (.g (o.c.toNat + j % 8)) (2 * i + j / 8)).toNat
  dotElem ta.code tb.code 0 acc
    ((List.range n).map fun k => (fragElem g o.a wide i k, fragElem g o.b wide j k))

def execMmas (o : OpDABC) (ta tb : MmTy) (s : State) : Host.Outcome State Fault Refusal :=
  let i : Instr := .mmas o ta tb
  s.run i fun s =>
    let act := s.active i
    if act ≠ fullMask then .done s (trapLanes act codeOperand 0)
    else
      let g := s.cg
      let els := (List.range 32).map fun l => (l, (List.range 8).map fun q =>
        mmasElem g o ta tb (l / 2) (l % 2 * 8 + q))
      let fl := els.foldl (fun n x => x.2.foldl (fun n y => n ||| y.2) n) 0
      let s := s.modCg fun g => g.raiseFlags fl
      let s := (s.modCore s.ct.core fun c => { c with msteps := c.msteps + 1 }).spend s.ct.core 1 1
      if s.cg.trapsOn fl then .done s (trapLanes act codeFp 0)
      else
        .done (s.writeLater (writeNames i) act
          (els.flatMap fun x => regWrites (writeNames i) x.1 (x.2.map fun y => w32 y.1))) []

/-! ### mmax (R258-R260, R274) -/

/-- The parameter block (the layout printed with P3). -/
structure MmaxParams where
  a : Nat
  b : Nat
  operator : Nat
  row : Nat
  vr : Nat
  vc : Nat
  cw : Nat
  reserved : Bool
  deriving DecidableEq, Repr

def parseMmax (bs : List Byte) : MmaxParams :=
  let f (o n : Nat) : Nat := leNat ((bs.drop o).take n)
  { a := f 0 1, b := f 1 1, operator := f 2 1, row := f 4 4, vr := f 8 2, vc := f 0xA 2, cw := f 0xC 4,
    reserved := f 3 1 != 0 || (bs.drop 0x10).any (· != 0) }

/-- Rows of the footprint (R259). -/
def footprint (operator m n : Nat) : Nat := if operator = 2 then m else (n + 31) / 32 * m

/-- Steps 3 to 6 of R258. -/
def State.mmaxChecks (s : State) (lane : Nat) (q : MmaxParams) : Chk (Berth × Berth) :=
  let t := s.ct
  let own (n : Nat) : Option Berth := (s.berth? t.core n).filter fun b => n < 32 && b.team == t.key
  match own q.a, own q.b with
  | some a, some b =>
    if !pairs a.fmt b.fmt a.bl b.bl || (a.fmt == 4 && (a.layout != 0 || b.layout != 1)) then
      .error (codeBerth, 0)
    else if b.rows ≠ a.cols ∨ 256 < a.rows ∨ 256 < b.cols ∨ 8192 < a.cols ∨ 2 < q.operator ∨
        (q.operator = 2 ∧ 16 < b.cols) ∨ a.rows < q.vr ∨ b.cols < q.vc ∨ q.reserved = true then
      .error (codeShape, 0)
    else if !s.cg.inWindow q.row (footprint q.operator a.rows b.cols) then .error (codeAccWindow, 0)
    else if q.cw % 8 ≠ 0 then .error (codeMisaligned, q.cw)
    else
      match s.checkRange t s.cg lane .tm q.cw 8 true false true with
      | .error e => .error e
      | .ok _ => .ok (a, b)
  | _, _ => .error (codeBerth, 0)

/-- The byte ranges a berth names. -/
def Berth.range (b : Berth) : Nat × Nat := (b.base.toNat % 2 ^ 21, b.length)

/-- The accepted operation. -/
def State.mmaxOp (s : State) (lane : Nat) (q : MmaxParams) (a b : Berth) : MmaxOp :=
  { id := s.fresh, team := s.curTeam, group := s.curGroup, core := s.ct.core, lane := lane, pc := s.cl.here,
    slotgen := s.cg.grpslot, seq := s.cg.seq, a := q.a, b := q.b,
    m := a.rows, k := a.cols, n := b.cols, operator := q.operator,
    row := s.cg.accbase.toNat + q.row, rows := footprint q.operator a.rows b.cols, vr := q.vr, vc := q.vc,
    fa := a.fmt, fb := b.fmt, bl := a.bl, ranges := [a.range, b.range], aElems := [], bElems := [],
    readDone := false, cw := { team := s.curTeam, addr := q.cw % 2 ^ 21 } }

/-- Room for one more operation (R258): 4 per group, 32 per core. (DEDUCED, log 36) -/
def State.mmaxRoom (s : State) : Bool :=
  decide ((s.mmaxs.countP fun o => o.team == s.curTeam && o.group == s.curGroup) < 4) &&
    decide ((s.mmaxs.countP fun o => o.core == s.ct.core) < 32)

/-- A word that waits inside its loop over lanes has begun (R274): a stop lets it go on. -/
def State.beginWord (s : State) : State := s.modCg fun g => { g with since := some (g.since.getD s.fresh) }

/-- The lanes of `mmax` in ascending order (R274, R275), a waiting lane before the ones above it, although the file's
fifth outcome lets a later one go first (DESIGN CHOICE, log 100); operations of one execution that name one completion
word wait for each other (R275). (DEDUCED, log 36) -/
def State.mmaxLoop (s : State) (a : BitVec 7) (lanes : List Nat) (stops : List LaneStop) : Eff :=
  match lanes with
  | [] => .done s stops
  | l :: rest =>
    if s.cg.accepted.getLsbD l then State.mmaxLoop s a rest stops
    else
      let p := (s.cg.rg a l).toNat
      let stop (e : Nat × Nat) : Eff :=
        State.mmaxLoop (s.dealt l) a rest (stops ++ [{ lane := l, why := .trap e.1 e.2 }])
      if s.firstUse s.ct then stop (codeFirstUse, 0)
      else
        match s.checkElem s.ct s.cg l .tm p 32 true false with
        | .error e => stop e
        | .ok (.sk _) => stop (codeRange, p)
        | .ok (.tm loc) =>
          if !s.engineReads s.ct.core loc 32 s.fresh then .wait (s.stopEarly stops).beginWord .engine
          else
            let q := parseMmax (s.tmBytes loc 32)
            match s.mmaxChecks l q with
            | .error e => stop e
            | .ok (ba, bb) =>
              let o := s.mmaxOp l q ba bb
              if !s.mmaxRoom || s.rowsOwned s.curTeam s.curGroup o.row o.rows ||
                  s.mmaxs.any (fun x => x.team == o.team && x.group == o.group && x.seq == o.seq && x.pc == o.pc &&
                    x.cw == o.cw) then
                .wait (s.stopEarly stops).beginWord .engine
              else
                let s' : State := { s.next with mmaxs := s.mmaxs ++ [o] }
                State.mmaxLoop (s'.dealt l) a rest stops

def execMmax (o : OpA) (s : State) : Host.Outcome State Fault Refusal :=
  s.draining (.mmax o) fun s => s.mmaxLoop o.a (lanesOf (s.active (.mmax o))) []

/-- A range stands as it did at the operation's issue (R257): what its group had drained is performed, the lines that
an older operation fills are present, and what had left the core before the issue for the banks of the range has
reached them (R162, R174). (DEDUCED, log 36) -/
def State.rangeStands (s : State) (o : MmaxOp) (r : Nat × Nat) : Bool :=
  let l : TmLoc := { team := o.team, addr := r.1 }
  !(s.net.any fun p => decide (p.id < o.id) && p.team == o.team && p.group == o.group && p.writes &&
      s.meetsAt p.loc p.len o.team r.1 r.2) &&
    !(s.fillers.any fun f => decide (f.id < o.id) && s.fills f l r.2) && !s.ahead o.core l r.2 o.id

/-- What an operation has captured for a record (R301). -/
def State.mmaxBase (s : State) (o : MmaxOp) : FaultRec :=
  let t := s.team o.team
  { code := 0, lane := o.lane, flags := 0, pc := o.pc, addr := 0, grpslot := o.slotgen, x := t.x, y := t.y,
    z := t.z, group := o.group }

/-- BERTH_READ_DONE (R257): the operation has read both berths; what it could not read well it records, and goes
on (R301; DESIGN CHOICE, log 28). -/
def execBerthReadDone (i : Nat) (s : State) : Host.Outcome State Fault Refusal :=
  match s.mmaxs[i]? with
  | none => .fault .notEnabled
  | some o =>
    match s.berth? o.core o.a, s.berth? o.core o.b with
    | some a, some b =>
      if o.readDone || !o.ranges.all (s.rangeStands o) then .fault .notEnabled
      else
        let errs (r : Nat × Nat) : List (Nat × Nat) := s.engineErrors { team := o.team, addr := r.1 } r.2
        let el (x : Berth) (rows cols : Nat) : List Word :=
          let good := (errs x.range).isEmpty
          (List.range (rows * cols)).map fun n =>
            if good then s.berthElem x (n / cols) (n % cols) else Config.lostElement s.tick n
        let o' : MmaxOp := { o with readDone := true, aElems := el a o.m o.k, bElems := el b o.k o.n }
        .next (({ s with mmaxs := s.mmaxs.set i o' } : State).raiseErrors o.team (s.team o.team).ctx (s.mmaxBase o)
          (o.ranges.flatMap errs))
    | _, _ => .fault .notEnabled

/-- Where an output element goes (R259): team row and word. -/
def MmaxOp.place (o : MmaxOp) (i j : Nat) : Nat × Nat :=
  if o.operator = 2 then (o.row + i, 2 * j + 1) else (o.row + j / 32 * o.m + i, j % 32)

/-- Computes and writes one output element: the state, and its flags. -/
def State.mmaxElem (s : State) (o : MmaxOp) (i j : Nat) : State × Nat :=
  let t := s.team o.team
  let p := o.place i j
  let old := if s.wordEcc t p.1 p.2 then Config.lostElement s.tick (accKey t p.1 p.2) else s.accWord t p.1 p.2
  let acc := if o.operator = 1 then old.toNat else 0
  let r := dotElem o.fa o.fb o.bl acc ((List.range o.k).map fun x =>
    ((o.aElems.getD (i * o.k + x) 0).toNat, (o.bElems.getD (x * o.n + j) 0).toNat))
  (s.accPut t p.1 p.2 (w32 r.1), r.2)

/-- Every valid element (R246). (DEDUCED, log 36) -/
def State.mmaxAll (s : State) (o : MmaxOp) : State × Nat :=
  (List.range (o.vr * o.vc)).foldl (fun acc n =>
    let r := acc.1.mmaxElem o (n / o.vc) (n % o.vc)
    (r.1, acc.2 ||| r.2)) (s, 0)

/-- Steps of an operation (R261). -/
def MmaxOp.steps (o : MmaxOp) : Nat :=
  let depth := if o.fa < 2 then 16 else if o.fa = 4 then 64 else 32
  (o.m + 31) / 32 * ((o.n + 31) / 32) * ((o.k + depth - 1) / depth)

/-- The records of an operation that adds to words which cannot be corrected (R301). (DESIGN CHOICE, log 28) -/
def State.mmaxErrors (s : State) (o : MmaxOp) : List (Nat × Nat) :=
  let t := s.team o.team
  if o.operator = 1 && (List.range (o.vr * o.vc)).any fun n =>
      let p := o.place (n / o.vc) (n % o.vc)
      s.wordEcc t p.1 p.2
  then [(codeEcc, 0)] else []

/-- MMAX_OPERATION_COMPLETE (R258-R260, R247): elements, flags, then the completion word, as a release at system
scope (R175). -/
def execMmaxOperationComplete (i : Nat) (s : State) : Host.Outcome State Fault Refusal :=
  match s.mmaxs[i]? with
  | none => .fault .notEnabled
  | some o =>
    if o.readDone && s.signalReady o.team o.group o.id (some o.cw) then
      let r := (s.raiseErrors o.team (s.team o.team).ctx (s.mmaxBase o) (s.mmaxErrors o)).mmaxAll o
      let s := r.1.windowFlags o.team o.group r.2
      let s := (s.modCore o.core fun c => { c with msteps := c.msteps + o.steps }).spend o.core 1 o.steps
      let s := { s with mmaxs := s.mmaxs.eraseIdx i }
      .next ((s.signal (some o.cw)).settle o.team)
    else .fault .notEnabled

end Sys2Proof.Machine
end

