-- ==== Sys2Proof/Machine/Chain.lean ====
section
/-! DEFINITION. Chain: affine composition, the scan in chunks, carries (R285-R296). -/

namespace Sys2Proof.Machine

/-- A (gain, offset) pair of FP32 patterns. -/
abbrev GPair := Nat × Nat

/-- A pattern is +0 or -0. -/
def isZeroPat (x : Nat) : Bool := x % 2 ^ 31 == 0

/-- A pair as a Chain operation reads it from a row (R285): a subnormal gain is a zero, with GU. (DEDUCED, log 37) -/
def readPair (g o : Nat) : GPair × Nat :=
  if g / 2 ^ 23 % 256 = 0 ∧ g % 2 ^ 23 ≠ 0 then ((g / 2 ^ 31 * 2 ^ 31, o), 16) else ((g, o), 0)

/-- A product's rounded gain (R286): below the normal range it is a signed zero, with GU alone. (DEDUCED, log 37) -/
def composeGain (g2 g1 : Nat) : Nat × Nat :=
  match mulExact (unpackF .f32 g2) (unpackF .f32 g1) with
  | none => nanF .f32 1
  | some (.fin n m e) =>
    let r := roundF .f32 .rne false n m e false
    if m ≠ 0 ∧ r.1 % 2 ^ 31 < 2 ^ 23 then (signPat .f32 n, 16) else r
  | some v => roundV .f32 .rne false v

/-- comp(later, earlier) (R286): a zero gain keeps the later pair without a computation, so that its offset sets no
flag, a signalling NaN too. (DEDUCED, log 37) -/
def comp (l e : GPair) : GPair × Nat :=
  if isZeroPat l.1 then (l, 0)
  else
    let g := composeGain l.1 e.1
    let o := fpFma .f32 .rne l.1 e.2 l.2
    ((g.1, o.1), g.2 ||| o.2)

/-- One Kogge-Stone stage at distance d (R287), with the flags it raises. -/
def scanStage (x : List GPair × Nat) (d : Nat) : List GPair × Nat :=
  let ys := x.1
  let zs := ys.mapIdx fun i y => if i < d then (y, 0) else comp y (ys.getD (i - d) (0, 0))
  (zs.map (·.1), zs.foldl (fun n z => n ||| z.2) x.2)

/-- A column of a chunk (R287): the composed rows, and flags. The rows past the chunk's end never
reach a written row, so they take no part. -/
def scanColumn (rows : List (GPair × Nat)) (carry : GPair) : List GPair × Nat :=
  let x0 : List GPair × Nat := (rows.map (·.1), rows.foldl (fun n r => n ||| r.2) 0)
  let x := [1, 2, 4, 8, 16].foldl scanStage x0
  let zs := x.1.map fun y => comp y carry
  (zs.map (·.1), zs.foldl (fun n z => n ||| z.2) x.2)

/-- One element of `chapply` (R295): the state and flags. (DEDUCED, log 37) -/
def applyPair (p : GPair × Nat) (h0 : Nat) : Nat × Nat :=
  if isZeroPat p.1.1 then (p.1.2, p.2)
  else
    let r := fpFma .f32 .rne p.1.1 h0 p.1.2
    (r.1, r.2 ||| p.2)

/-! ### The recorded operation (R290) -/

/-- Chunks of an operation. (DEDUCED, log 38) -/
def ChainOp.chunks (o : ChainOp) : Nat := (o.n + 31) / 32

/-- `%chprog` (R290). -/
def Group.chprogWord (g : Group) : Word :=
  match g.chprog with
  | some o =>
    match o.kind with
    | .chain => BitVec.ofNat 32 (2 ^ 31 + o.carry * 2 ^ 20 + o.chunks * 2 ^ 12 + o.chunk)
    | _ => 0
  | none => 0

/-- A word of a carry register. -/
def Group.carryWord (g : Group) (k w : Nat) : Word := g.peek (.c k) w

/-- The carry that a Chain instruction reads where the latest write of the register is of its own clause
execution (R92): the one before that write; but a `chst` stores what a `chain` before it leaves (DESIGN CHOICE,
log 99). -/
def Group.olderCarry (g : Group) (k : Nat) (store : Bool) : Option (List Word) :=
  ((g.older.find? fun o => o.k == k).filter fun o => !(store && o.byChain)).map (·.words)

/-- A word of the carry that an operation reads: a `chain` goes on from what it has written itself (R287). -/
def Group.carryOf (g : Group) (o : ChainOp) (w : Nat) : Word :=
  match o.carryIn with
  | some ws => if o.kind = .chain ∧ o.chunk ≠ 0 then g.carryWord o.carry w else ws.getD w 0
  | none => g.carryWord o.carry w

/-- An operation of the running clause execution is about to write its carry register (R92). -/
def Group.keepCarry (g : Group) (o : ChainOp) : Group :=
  if o.seq = g.seq then
    { g with older := { k := o.carry, byChain := decide (o.kind = .chain),
                        words := (List.range 32).map (g.carryWord o.carry) } :: g.older }
  else g

/-- A Chain operation of the group is in flight or stopped (R293). (DEDUCED, log 37) -/
def State.chainBusy (s : State) : Bool := s.cg.chprog.isSome

/-! ### Issue (R293-R296) -/

/-- Records an accepted operation. (DEDUCED, log 37) -/
def State.startChain (s : State) (o : ChainOp) : State :=
  s.next.modCg fun g => { g with chprog := some { o with id := s.fresh, pc := s.cl.here, seq := g.seq } }

/-- An operation with every field blank. -/
def ChainOp.blank : ChainOp :=
  { id := 0, kind := .chldId, b := 0, row := 0, n := 0, mask := 0, carry := 0, chunk := 0, pc := 0,
    stopped := false, failed := false, handler := none, seq := 0, carryIn := none }

/-- `chain` and `chapply`: the checks of R293 in order, then acceptance. -/
def State.scan (s : State) (i : Instr) (kind : ChainKind) (k : BitVec 3) (row : Row) (b : BitVec 6)
    (mask : State → Word) : Host.Outcome State Fault Refusal :=
  s.draining i fun s =>
    let act := s.active i
    let n := (s.cg.rs b).toNat
    if act = 0 then .done s []
    else if s.chainBusy then .wait s .engine
    else if s.firstUse s.ct then .done s (trapLanes act codeFirstUse 0)
    else if n = 0 ∨ 4096 < n ∨ (mask s).toNat / 65536 ≠ 0 then .done s (trapLanes act codeChain n)
    else if !s.cg.inWindow (rowRef s.cg row) n then .done s (trapLanes act codeAccWindow 0)
    else
      let r := s.cg.accbase.toNat + rowRef s.cg row
      if s.rowsOwned s.curTeam s.curGroup r n then .wait s .engine
      else .done (s.startChain { ChainOp.blank with
        kind := kind, b := rowRef s.cg row, row := r, n := n, mask := (mask s).setWidth 16, carry := k.toNat,
        carryIn := s.cg.olderCarry k.toNat false }) []

def execChain (k : BitVec 3) (row : Row) (b mask : BitVec 6) (m : Mods) (s : State) :
    Host.Outcome State Fault Refusal :=
  s.scan (.chain k row b mask m) .chain k row b fun s => s.cg.rs mask

def execChapply (k : BitVec 3) (row : Row) (b : BitVec 6) (m : Mods) (s : State) :
    Host.Outcome State Fault Refusal :=
  s.scan (.chapply k row b m) .chapply k row b fun _ => 0xFFFF

/-- `chld` and `chst`: the address checks (R296); a load waits for its lines. -/
def State.carryMove (s : State) (i : Instr) (k : BitVec 3) (a : BitVec 6) (off : BitVec 11) (store : Bool) :
    Host.Outcome State Fault Refusal :=
  s.draining i fun s =>
    let act := s.active i
    let p := ((s.cg.rs a) + off.signExtend 32).toNat
    if act = 0 then .done s []
    else if s.chainBusy then .wait s .engine
    else if p % 16 ≠ 0 then .done s (trapLanes act codeMisaligned p)
    else
      match s.checkSteps s.ct s.cg ((lanesOf act).headD 0) .tm p 128 true (!store) store with
      | .error (code, x) => .done s (trapLanes act code x)
      | .ok (.sk _) => .done s (trapLanes act codeRange p)
      | .ok (.tm l) =>
        if !store && !s.present l 128 then .wait s .engine
        else .done (s.startChain { ChainOp.blank with
          kind := if store then .chst l.addr else .chld l.addr, carry := k.toNat,
          carryIn := s.cg.olderCarry k.toNat store }) []

def execChld (k : BitVec 3) (a : BitVec 6) (off : BitVec 11) (m : Mods) (s : State) :
    Host.Outcome State Fault Refusal := s.carryMove (.chld k a off m) k a off false

def execChst (k : BitVec 3) (a : BitVec 6) (off : BitVec 11) (m : Mods) (s : State) :
    Host.Outcome State Fault Refusal := s.carryMove (.chst k a off m) k a off true

def execChldId (k : BitVec 3) (m : Mods) (s : State) : Host.Outcome State Fault Refusal :=
  let i : Instr := .chldId k m
  s.draining i fun s =>
    if s.active i = 0 then .done s []
    else if s.chainBusy then .wait s .engine
    else .done (s.startChain { ChainOp.blank with kind := .chldId, carry := k.toNat }) []

/-! ### Chunks and carry moves -/

/-- Pair p of a team row as Chain reads it. -/
def State.rowPair (s : State) (t : Team) (row p : Nat) : GPair × Nat :=
  readPair (s.accWord t row (2 * p)).toNat (s.accWord t row (2 * p + 1)).toNat

/-- Flags of a Chain chunk (R288): the window flags, and GU also in `%fpflags`. -/
def State.chainFlags (s : State) (k g fl : Nat) : State :=
  (s.windowFlags k g fl).modGroup k g fun x => if x.ended then x else x.raiseFlags (fl / 16 * 16)

/-- One column of a chunk: its written rows, its carry, and flags. -/
def State.chunkColumn (s : State) (t : Team) (g : Group) (o : ChainOp) (p : Nat) : List GPair × GPair × Nat :=
  let base := o.row + 32 * o.chunk
  let len := min 32 (o.n - 32 * o.chunk)
  let rows := (List.range len).map fun i => s.rowPair t (base + i) p
  let c : GPair := ((g.carryOf o (2 * p)).toNat, (g.carryOf o (2 * p + 1)).toNat)
  match o.kind with
  | .chapply =>
    let hs := rows.map fun r => applyPair r c.2
    (hs.map fun h => (0, h.1), c, hs.foldl (fun n h => n ||| h.2) 0)
  | _ =>
    let r := scanColumn rows c
    (r.1, r.1.getLastD c, r.2)

/-- Writes a column of a chunk, and the pair of the carry register a `chain` leaves (R287, R295). -/
def State.writeColumn (s : State) (k g : Nat) (o : ChainOp) (p : Nat) (r : List GPair × GPair × Nat) :
    State :=
  let t := s.team k
  let s := foldS (fun s (x : GPair × Nat) =>
    let row := o.row + 32 * o.chunk + x.2
    (s.accPut t row (2 * p) (w32 x.1.1)).accPut t row (2 * p + 1) (w32 x.1.2)) s r.1.zipIdx
  match o.kind with
  | .chain =>
    s.modGroup k g fun y =>
      (y.poke { name := .c o.carry, lane := 2 * p, val := w32 r.2.1.1 }).poke
        { name := .c o.carry, lane := 2 * p + 1, val := w32 r.2.1.2 }
  | _ => s

/-- Runs a chunk in one step (R287). (DEDUCED, log 38) -/
def State.runChunk (s : State) (k g : Nat) (o : ChainOp) : State :=
  let cols := ((List.range 16).filter fun p => o.mask.getLsbD p).map fun p =>
    (p, s.chunkColumn (s.team k) (s.group k g) o p)
  let s' := if o.kind = .chain ∧ o.chunk = 0 then s.modGroup k g fun x => x.keepCarry o else s
  let s' := foldS (fun s' x => s'.writeColumn k g o x.1 x.2) s' cols
  let s' := s'.chainFlags k g (cols.foldl (fun n x => n ||| x.2.2.2) 0)
  ((s'.modCore (s.team k).core fun c => { c with chunks := c.chunks + 1 }).spend (s.team k).core 2 1).modGroup k g
    fun x => { x with chprog := if o.chunk + 1 < o.chunks then some { o with chunk := o.chunk + 1 } else none }

/-- Some row of the chunk has an uncorrectable word in a column that the operation reads (R287, R291).
(DESIGN CHOICE, log 28) -/
def State.chunkBad (s : State) (t : Team) (o : ChainOp) : Bool :=
  (List.range (min 32 (o.n - 32 * o.chunk))).any fun i => (List.range 16).any fun p =>
    o.mask.getLsbD p && (s.wordEcc t (o.row + 32 * o.chunk + i) (2 * p) ||
      s.wordEcc t (o.row + 32 * o.chunk + i) (2 * p + 1))

/-- An uncorrectable word in the chunk (R291): the operation stops there, with a record for the group.
(DESIGN CHOICE, log 28, 38) -/
def State.chunkEcc (s : State) (k g : Nat) (o : ChainOp) : State :=
  let t := s.team k
  let s := s.modGroup k g fun x => { x with chprog := some { o with failed := true, handler := none } }
  { s with faults := s.faults ++ [(k, t.ctx, mkFault t (t.group g) codeEcc 0 0 o.pc 0)] }

/-- CHAIN_CHUNK_COMPLETE (R287, R295). A resumed operation waits until the rows of its team have been restored
(R264, R266). -/
def execChainChunkComplete (t g : Nat) (s : State) : Host.Outcome State Fault Refusal :=
  match (s.group t g).chprog with
  | none => .fault .notEnabled
  | some o =>
    let scan := match o.kind with | .chain => true | .chapply => true | _ => false
    if !(s.team? t).isSome || o.stopped || o.failed || (s.group t g).hasHalted || (s.team t).rowsDue || !scan then
      .fault .notEnabled
    else if s.chunkBad (s.team t) o then .next (s.chunkEcc t g o)
    else .next ((s.runChunk t g o).settle t)

/-- Sets all 32 words of a carry register. -/
def Group.setCarry (g : Group) (k : Nat) (f : Nat → Word) : Group :=
  (List.range 32).foldl (fun g w => g.poke { name := .c k, lane := w, val := f w }) g

/-- CARRY_MOVE_COMPLETE (R296). -/
def execCarryMoveComplete (t g : Nat) (s : State) : Host.Outcome State Fault Refusal :=
  match (s.group t g).chprog with
  | none => .fault .notEnabled
  | some o =>
    let core := (s.team t).core
    let finish (s : State) : Host.Outcome State Fault Refusal :=
      let s := (s.modCore core fun c => { c with chunks := c.chunks + 1 }).spend core 2 1
      .next ((s.modGroup t g fun x => { x with chprog := none }).settle t)
    if !(s.team? t).isSome || o.stopped then .fault .notEnabled
    else
      match o.kind with
      | .chldId =>
        finish (s.modGroup t g fun x => (x.keepCarry o).setCarry o.carry fun w => if w % 2 = 0 then 0x3F800000 else 0)
      | .chld a =>
        let l : TmLoc := { team := t, addr := a }
        if !s.engineReads core l 128 o.id then .fault .notEnabled
        else
          let bs := s.engineBytes l 128
          let u := s.team t
          let s := s.raiseErrors t u.ctx (mkFault u (u.group g) 0 0 0 o.pc 0) (s.engineErrors l 128)
          finish (s.modGroup t g fun x => (x.keepCarry o).setCarry o.carry fun w => BitVec.ofNat 32 (leNat ((bs.drop (4 * w)).take 4)))
      | .chst a =>
        let l : TmLoc := { team := t, addr := a }
        if !s.engineReads core l 128 o.id || s.berthHeld o.id l 128 then .fault .notEnabled
        else
          let x := s.group t g
          finish (s.tmPuts l 0 ((List.range 32).flatMap fun w => leBytes 4 (x.carryOf o w).toNat))
      | _ => .fault .notEnabled

end Sys2Proof.Machine
end

