-- ==== Sys2Proof/Machine/Host.lean ====
section
/-! DEFINITION. The register spaces of a function as they are read (R361, R363, R381-R386, R389, R392). -/

namespace Sys2Proof.Machine

/-- A capability's header word (R385). (DESIGN CHOICE, log 61) -/
def capHeader (next len id : Nat) : Word := BitVec.ofNat 32 (next * 2 ^ 16 + len * 2 ^ 8 + 2 ^ 4 + id)

/-- A word of a 64-bit register: low half, or high half. -/
def half (hi : Bool) (v : DWord) : Word := if hi then (v >>> 32).setWidth 32 else v.setWidth 32

/-- Replaces one half of a 64-bit register. -/
def putHalf (hi : Bool) (v : DWord) (w : Word) : DWord :=
  if hi then (w ++ v.setWidth 32 : DWord) else ((v >>> 32).setWidth 32 ++ w : DWord)

/-- The administration block of a function, a word at an offset (R382). -/
def Func.adminWord (f : Func) (o : Nat) : Word :=
  match o with
  | 0x00 => f.segbase | 0x04 => f.segsize | 0x08 => f.flags | 0x0C => f.clusters | 0x10 => f.svtabReg
  | 0x18 => half false f.fqbase | 0x1C => half true f.fqbase | 0x20 => f.fqsize | 0x24 => f.fqhead
  | 0x28 => f.fqtail | 0x2C => f.fqlost
  | 0x38 => half false f.ptbaseReg | 0x3C => half true f.ptbaseReg
  | 0x40 => half false f.codebaseReg | 0x44 => half true f.codebaseReg
  | 0x48 => f.csendbase | 0x4C => f.csendsize | 0x50 => f.crecvbase | 0x54 => f.crecvsize | 0x58 => f.cslot
  | _ => 0

/-- A knob binding, none set (R374). -/
def Binding.blank : Binding := { kind := 0, tenant := 0, lo := 0, hi := 0, dflt := 0 }

def State.binding (s : State) (n : Nat) : Binding := tget Binding.blank s.bindings n

/-- A binding's word at an offset (R384). -/
def Binding.word (b : Binding) (o : Nat) : Word :=
  match o with
  | 0 => BitVec.ofNat 32 (b.kind + 256 * b.tenant)
  | 4 => b.lo | 8 => b.hi | _ => b.dflt

/-- A word of measurement slot i (R385, R388). -/
def Boot.slotWord (b : Boot) (i w : Nat) : Word :=
  BitVec.ofNat 32 (leNat (((b.mslots.getD i []).drop (4 * w)).take 4))

/-- The boot-status words (R392). -/
def Boot.statusWord (b : Boot) : Word := BitVec.ofNat 32 ((if b.minimal then 2 ^ 30 else 0) + b.count % 256)
def Boot.reasonWord (b : Boot) : Word := b.reason.setWidth 32

/-- The host links: speed code and width of link 0 in the low half, of link 1 in the high half (R385).
(DEDUCED, log 61) -/
def Boot.linkWord (b : Boot) : Word :=
  let half (n : Nat) : Nat := let x := b.links.getD n (0, 0); x.1 + x.2 * 256
  BitVec.ofNat 32 (half 0 + half 1 * 65536)

/-- The capability list (R385, R386): a word at an offset below 0x300. (DESIGN CHOICE, log 61) -/
def State.capWord (s : State) (fn o : Nat) : Word :=
  let f := s.func fn
  let pf := fn == 0
  match o with
  | 0x100 => capHeader 0x120 5 1
  | 0x104 => Config.siliconRevision | 0x108 => s.boot.clusters.setWidth 32 | 0x10C => 2700
  | 0x110 => Config.usableMemory
  | 0x120 => capHeader 0x140 3 2 | 0x124 => s.boot.linkWord | 0x128 => s.linkUp.setWidth 32
  | 0x140 => capHeader 0x160 3 3 | 0x144 => s.boot.statusWord | 0x148 => s.boot.reasonWord
  | 0x160 => capHeader 0x280 65 4
  | 0x280 => capHeader (if pf then 0x2A0 else 0) 8 5
  | 0x284 => f.csendbase | 0x288 => f.csendsize | 0x28C => f.crecvbase | 0x290 => f.crecvsize
  | 0x294 => f.cslot | 0x298 => BitVec.ofNat 32 f.stragglers
  | 0x29C => BitVec.ofNat 32 (2 * f.dropped + (if f.stalled then 1 else 0))
  | 0x2A0 => if pf then capHeader 0x2C0 2 6 else 0
  | 0x2A4 => if pf then 0x00010000 else 0
  | 0x2C0 => if pf then capHeader 0 4 7 else 0
  | 0x2C4 => if pf then f.dbgCtx else 0
  | 0x2C8 => if pf then f.dbgXY else 0
  | o => if 0x164 ≤ o ∧ o < 0x264 then s.boot.slotWord ((o - 0x164) / 32) ((o - 0x164) % 32 / 4) else 0

/-- The measurement-extend registers answer (R389). -/
def State.extendLive (s : State) (fn : Nat) : Bool := fn == 0 && s.boot.isReady && !s.boot.minimal

/-- A word of base address register 0 space (R381): any other offset reads 0. -/
def State.bar0Read (s : State) (fn o : Nat) : Word :=
  if o < 0x300 then s.capWord fn o
  else if fn ≠ 0 then 0
  else if 0xF000 ≤ o ∧ o < 0xF100 then (s.binding ((o - 0xF000) / 16)).word (o % 16)
  else if 0x10000 ≤ o ∧ o < 0x14000 then (s.func ((o - 0x10000) / 256)).adminWord (o % 256)
  else if o = 0xE020 then (if s.extendLive fn && s.boot.busy then 1 else 0)
  else if o = 0xE024 then (if s.extendLive fn then BitVec.ofNat 32 s.boot.extends_ else 0)
  else 0

/-- The depths of four launch queues in one word (R363). -/
def State.depthWord (s : State) (fn q : Nat) : Word :=
  BitVec.ofNat 32 ((List.range 4).foldl (fun n i => n + s.depth (fn + 1) (q + i) * 2 ^ (7 * i)) 0)

/-- A word of base address register 2 space: the launch status, the same in every aperture (R361,
R363). -/
def State.bar2Read (s : State) (fn o : Nat) : Word :=
  let f := s.func fn
  match o % 4096 with
  | 0xF80 => BitVec.ofNat 32 ((if f.overflow then 2 ^ 31 else 0) + (if f.refused then 2 ^ 30 else 0) + f.drops)
  | 0xF84 => s.depthWord fn 0
  | 0xF88 => s.depthWord fn 4
  | 0xF90 => half false f.lostSeq | 0xF94 => half true f.lostSeq
  | 0xF98 => half false f.refusedSeq | 0xF9C => half true f.refusedSeq
  | _ => 0

end Sys2Proof.Machine
end

