-- ==== Sys2Proof/Machine/System.lean ====
section
/-! DEFINITION. System registers, software traps, watchpoints, stops, translation sweeps, samples,
counters and Pilot access (R299, R324-R333, R338-R347, R350-R354). -/

namespace Sys2Proof.Machine

/-! ### Common rules (R338, R339) -/

/-- An instruction that executes once for the group (R124, R338): with no active lane it does nothing,
a code it may not run with traps in every active lane. (DEDUCED, log 40) -/
def State.sysOnce (s : State) (i : Instr) (refuse : State → Option Nat) (f : State → Mask → Eff) : Eff :=
  let act := s.active i
  if act = 0 then .done s []
  else match refuse s with
    | some code => .done s (trapLanes act code 0)
    | none => f s act

/-- Privileged code only (R338). -/
def State.needPriv (s : State) : Option Nat := if s.privileged then none else some codePrivilege

/-- A supervisor handler only (R338). -/
def State.needSup (s : State) : Option Nat := if s.cg.inSup then none else some codePrivilege

/-! ### Registers by number (R340, R341) -/

/-- The code offset `%lanepc` reads (R27, R306): the interrupted lane's in a handler. (DEDUCED, log 13) -/
def State.lanePc (s : State) (l : Nat) : Word :=
  match s.cg.frames with
  | [] => s.cl.here
  | f :: _ => (f.lanes.getD l (Lane.placed 0 0)).pc

/-- The value of a system register for a lane; uniform registers ignore the lane (R340). -/
def State.sysGet (s : State) (r : SysReg) (l : Nat) : Word :=
  let g := s.cg
  let t := s.ct
  let f := s.ctxFunc t.ctx
  let n (x : Nat) : Word := BitVec.ofNat 32 x
  match r with
  | .lanenum => n l
  | .grpid => n g.index | .role => n g.role | .teamgrps => n t.groups.length
  | .teamx => n t.x | .teamy => n t.y | .teamz => n t.z
  | .gridx => n t.gx | .gridy => n t.gy | .gridz => n t.gz
  | .coreid => n t.core | .grpslot => g.grpslot | .ctxnum => n t.ctx
  | .capsel => g.capsel.setWidth 32 <<< 2
  | .capptr => s.bar0Read (t.ctx - 1) (4 * g.capsel.toNat)
  | .lanepc => s.lanePc l
  | .exmask => g.exmask
  | .lsp => (g.lane l).lsp.setWidth 32 <<< 2
  | .cadence => g.limit.setWidth 32 | .fpflags => g.fpflags
  | .qovf => if g.qovf then 1 else 0
  | .rngseedlo => half false g.rngseed | .rngseedhi => half true g.rngseed
  | .accbase => g.accbase.setWidth 32 | .acclim => g.acclim.setWidth 32
  | .accflags => g.wflags.setWidth 32
  | .chprog => g.chprogWord
  | .ferrylate => t.ferrylate
  | .tagctl => if t.tmchk then 1 else 0
  | .tvec => t.tvec
  | .tcode => n g.trapRegs.code | .tinfo => g.trapRegs.info
  | .tmaskAct => g.trapRegs.act | .tmaskFlt => g.trapRegs.flt
  | .taddrlo => half false (tget 0 g.trapRegs.addr l) | .taddrhi => half true (tget 0 g.trapRegs.addr l)
  | .tinstr => g.trapRegs.instr | .tpc => g.trapRegs.pc
  | .tdeleg => f.tdeleg | .svtab => f.svtab | .memmode => f.memmode
  | .replaybuflo => half false f.replaybuf | .replaybufhi => half true f.replaybuf
  | .ptbaselo => half false f.ptbase | .ptbasehi => half true f.ptbase
  | .vfsegbase => f.segbase | .vfsegsize => f.segsize
  | .accowner => (s.core t.core).accowner
  | .ctxbuflo => half false f.ctxbuf | .ctxbufhi => half true f.ctxbuf
  | .ctxaltlo => half false f.ctxalt | .ctxalthi => half true f.ctxalt
  | .hangwd => f.hangwd | .tracectl => f.tracectl
  | .tracebuflo => half false f.tracebuf | .tracebufhi => half true f.tracebuf
  | .tracepos => f.tracepos
  | .codebaselo => half false f.codebase | .codebasehi => half true f.codebase

/-- Registers whose read is privileged (R340). (DEDUCED, log 40) -/
def svRead : SysReg → Bool
  | .svtab | .replaybuflo | .replaybufhi | .ptbaselo | .ptbasehi | .vfsegbase | .vfsegsize | .accowner
  | .ctxbuflo | .ctxbufhi | .ctxaltlo | .ctxalthi | .hangwd | .tracectl | .tracebuflo | .tracebufhi
  | .tracepos => true
  | _ => false

/-- Registers whose write is privileged (R340). (DEDUCED, log 40) -/
def svWrite : SysReg → Bool
  | .chprog | .tagctl | .tdeleg | .memmode | .replaybuflo | .replaybufhi | .ptbaselo | .ptbasehi
  | .accowner | .ctxbuflo | .ctxbufhi | .ctxaltlo | .ctxalthi | .hangwd | .tracectl | .tracebuflo
  | .tracebufhi | .tracepos => true
  | _ => false

/-- A k operand outside a handler (R339). (DEDUCED, log 40) -/
def State.needHandler (s : State) (k : Bool) : Option Nat :=
  if k && !s.cg.inHandler then some codeOperand else none

def regIsK : RegOp → Bool
  | .k _ => true | _ => false

/-- The value of the operand of `swrite` in a lane. -/
def regValue (r : RegOp) (g : Group) (l : Nat) : Word :=
  match r with
  | .g n => g.rg n l
  | .s n => g.rs n
  | .k n => g.read (.k n.toNat) 0

/-- `sread` (R342, R343): one value for each active lane, or one for the group. -/
def execSread (rd : RegOp) (sys : SysReg) (m : Mods) (s : State) : Host.Outcome State Fault Refusal :=
  let i : Instr := .sread rd sys m
  s.run i fun s =>
    s.sysOnce i (fun s => (s.needHandler (regIsK rd)).orElse fun _ => if svRead sys then s.needPriv else none)
      fun s act =>
        match rd with
        | .g _ => .done (s.writeLater (writeNames i) act (s.lanewise i fun _ l => [s.sysGet sys l])) []
        | _ => .done (s.writeLater (writeNames i) 1 (regWrites (writeNames i) 0
            [s.sysGet sys ((lanesOf act).headD 0)])) []

/-! ### Writes -/

/-- A write to a register of the group for one lane; uniform registers ignore the lane (R5, R27, R33,
R102, R105, R122, R165, R290, R341). (DEDUCED, log 40) -/
def Group.sysPut (g : Group) (r : SysReg) (l : Nat) (v : Word) : Group :=
  match r with
  | .capsel => { g with capsel := (v >>> 2).setWidth 14 }
  | .lanepc =>
    (match g.frames with
     | [] => g
     | f :: rest =>
       { g with frames := { f with lanes := f.lanes.modify l fun x => { x with pc := v &&& 0xFFFFFFFC } } :: rest })
  | .lsp => g.modLane l fun x => { x with lsp := (v >>> 2).setWidth 13 }
  | .cadence => { g with limit := v.setWidth 16 }
  | .fpflags => { g with fpflags := v &&& 0x1F1F }
  | .qovf => if v.getLsbD 0 then { g with qovf := false } else g
  | .rngseedlo => { g with rngseed := putHalf false g.rngseed v }
  | .rngseedhi => { g with rngseed := putHalf true g.rngseed v }
  | .chprog =>
    { g with chprog := g.chprog.filter fun o => match o.kind with | .chain => false | _ => true }
  | _ => g

/-- A write to a register of the team (R157, R228, R302). -/
def Team.sysPut (t : Team) (r : SysReg) (v : Word) : Team :=
  match r with
  | .ferrylate => { t with ferrylate := v }
  | .tagctl => { t with tmchk := v.getLsbD 0 }
  | .tvec => { t with tvec := v &&& 0xFFFFFFFD }
  | _ => t

/-- `%memmode` with a value written (R177): MODE keeps its value when 2 or 3 is written. -/
def memmodePut (old v : Word) : Word :=
  (v &&& 4) ||| (if v.toNat % 4 < 2 then v &&& 3 else old &&& 3)

/-- `%hangwd` with a value written (R329): FIRED is cleared by 1. -/
def hangwdPut (old v : Word) : Word := (old &&& ~~~v &&& 0x80000000) ||| (v &&& 0xFFFF)

/-- A write to a register of the context (R5, R150, R178, R298, R302, R329, R334). -/
def Func.sysPut (f : Func) (r : SysReg) (v : Word) : Func :=
  let lo (old : DWord) : DWord := putHalf false old (v &&& 0xFFFF0000)
  let hi (old : DWord) : DWord := putHalf true old v
  match r with
  | .tdeleg => { f with tdeleg := v &&& 0x3F }
  | .memmode => { f with memmode := memmodePut f.memmode v }
  | .replaybuflo => { f with replaybuf := lo f.replaybuf }
  | .replaybufhi => { f with replaybuf := hi f.replaybuf }
  | .ptbaselo => { f with ptbase := lo f.ptbase }
  | .ptbasehi => { f with ptbase := putHalf true f.ptbase (v &&& 0x000FFFFF) }
  | .ctxbuflo => { f with ctxbuf := lo f.ctxbuf }
  | .ctxbufhi => { f with ctxbuf := hi f.ctxbuf }
  | .ctxaltlo => { f with ctxalt := lo f.ctxalt }
  | .ctxalthi => { f with ctxalt := hi f.ctxalt }
  | .hangwd => { f with hangwd := hangwdPut f.hangwd v }
  | .tracectl => { f with tracectl := v &&& 0x3F }
  | .tracebuflo => { f with tracebuf := lo f.tracebuf }
  | .tracebufhi => { f with tracebuf := hi f.tracebuf }
  | .tracepos => { f with tracepos := v }
  | _ => f

/-- A write to a system register (R343): of the core, the context, the team or the group. -/
def State.sysPut (s : State) (r : SysReg) (l : Nat) (v : Word) : State :=
  match r with
  | .accowner => s.modCore s.ct.core fun c => { c with accowner := v &&& 0x8000FFFF }
  | .ferrylate | .tagctl | .tvec => s.modCt fun t => t.sysPut r v
  | .capsel | .lanepc | .lsp | .cadence | .fpflags | .qovf | .rngseedlo | .rngseedhi | .chprog =>
    s.modCg fun g => g.sysPut r l v
  | _ => s.modCtx s.ct.ctx fun f => f.sysPut r v

/-- What stops a `swrite` at its issue (R27, R290, R339, R340). (DEDUCED, log 40) -/
def State.swriteRefuse (s : State) (ra : RegOp) (sys : SysReg) : Option Nat :=
  (s.needHandler (regIsK ra)).orElse fun _ =>
    if svWrite sys && !s.privileged then some codePrivilege
    else if sys == .lanepc && !s.cg.inHandler then some codePrivilege
    else if sys == .chprog && regValue ra s.cg 0 != 0 then some codeOperand
    else none

/-- `swrite` (R342, R343). -/
def execSwrite (ra : RegOp) (sys : SysReg) (m : Mods) (s : State) : Host.Outcome State Fault Refusal :=
  let i : Instr := .swrite ra sys m
  s.run i fun s =>
    s.sysOnce i (fun s => s.swriteRefuse ra sys) fun s act =>
      let g := s.cg
      match ra with
      | .g _ => .done (foldS (fun s l => s.sysPut sys l (regValue ra g l)) s (lanesOf act)) []
      | _ => .done (s.sysPut sys 0 (regValue ra g 0)) []

/-! ### trap and dbrk (R344) -/

/-- The lanes that a `trap` has parked stand at the next word, or past the clause. -/
def Group.afterTrap (g : Group) (c : Clause) (act : Mask) : Group :=
  g.modLanes act fun _ x =>
    match x.st with
    | .parked (.trapped _) =>
      if c.nextSlot < c.words.length then
        let at_ := c.hdr + BitVec.ofNat 32 (4 * (c.nextSlot + 1))
        { x with pc := at_, mid := some (c.hdr, at_) }
      else { x with pc := c.fall, mid := none }
    | _ => x

def execTrap (imm : BitVec 16) (m : Mods) (s : State) : Host.Outcome State Fault Refusal :=
  let i : Instr := .trap imm m
  let act := s.active i
  onNext (s.run i fun s => .done s (trapLanes act codeSoft imm.toNat)) fun s' =>
    s'.modGroup s.curTeam s.curGroup fun g => if s.cg.inSup then g else g.afterTrap s.cl act

def execDbrk (imm : BitVec 16) (m : Mods) (s : State) : Host.Outcome State Fault Refusal :=
  let i : Instr := .dbrk imm m
  s.run i fun s => .done s (trapLanes (s.active i) codeDbrk imm.toNat)

/-! ### Watchpoints (R159, R346, R347) -/

/-- The watchpoint of `watch` in a lane, or its trap. -/
def watchOf (g : Group) (sc : WScope) (k : WKind) (sp : WSpace) (a b : BitVec 7) (l : Nat) : Chk Watch :=
  let base := match sc with | .lane => g.rg64 a l | _ => g.rs64 a
  let len := (match sc with | .lane => g.rg b l | _ => g.rs b).toNat + 1
  let high := match sp with | .sk => true | .tm => true | _ => false
  if (high && decide (2 ^ 32 ≤ base)) || decide (2 ^ 64 < base + len) then .error (codeOperand, 0)
  else .ok { kind := k, space := sp, base := BitVec.ofNat 64 base, len := len }

/-- Arms or disarms the watchpoint of a scope at an index. -/
def State.setWatch (s : State) (sc : WScope) (idx l : Nat) (w : Option Watch) : State :=
  let put (t : Table Watch) (k : Nat) : Table Watch :=
    match w with | some x => tins t k x | none => tdel t k
  match sc with
  | .lane => s.modCg fun g => { g with watches := put g.watches (2 * l + idx) }
  | .team => s.modCt fun t => { t with watches := put t.watches idx }
  | .ctx => s.modCtx s.ct.ctx fun f => { f with watches := put f.watches idx }

/-- Context scope is privileged (R346, R347). -/
def State.watchRefuse (s : State) (sc : WScope) : Option Nat :=
  match sc with | .ctx => s.needPriv | _ => none

def execWatch (sc : WScope) (k : WKind) (sp : WSpace) (idx : BitVec 4) (a b : BitVec 7) (m : Mods)
    (s : State) : Host.Outcome State Fault Refusal :=
  let i : Instr := .watch sc k sp idx a b m
  s.run i fun s => s.sysOnce i (fun s => s.watchRefuse sc) fun s act =>
    match sc with
    | .lane =>
      let r := sortChecks ((lanesOf act).map fun l => (l, watchOf s.cg sc k sp a b l))
      .done (foldS (fun s x => s.setWatch sc idx.toNat x.1 (some x.2)) s r.1) r.2
    | _ =>
      match watchOf s.cg sc k sp a b 0 with
      | .error e => .done s (trapLanes act e.1 e.2)
      | .ok w => .done (s.setWatch sc idx.toNat 0 (some w)) []

def execUnwatch (sc : WScope) (idx : BitVec 4) (m : Mods) (s : State) : Host.Outcome State Fault Refusal :=
  let i : Instr := .unwatch sc idx m
  s.run i fun s => s.sysOnce i (fun s => s.watchRefuse sc) fun s act =>
    match sc with
    | .lane => .done (foldS (fun s l => s.setWatch sc idx.toNat l none) s (lanesOf act)) []
    | _ => .done (s.setWatch sc idx.toNat 0 none) []

/-! ### Stopping a team (R299, R324, R350) -/

/-- The engine work of a team is settled (R299): copies, matrix operations, ferries and lands have
completed, no Chain operation runs, and no other group is inside a word or has a register to write with a value that
it has (R267); every line of its memory is present (R145). (DEDUCED, log 41) -/
def State.settled (s : State) (k : Nat) (except : Option Nat) : Bool :=
  let t := s.team k
  !(s.copies.any fun o => o.team == k) && !(s.mmaxs.any fun o => o.team == k) &&
    !((s.core t.core).landing.any fun e => e.2.team == k && !e.2.complete) &&
    !(s.lands.any fun l => l.team == k) && t.absent.all (fun x => x.2.isEmpty) &&
    t.groups.all fun g =>
      (match g.chprog with
        | none => true
        | some o => o.stopped || o.failed || (g.hasHalted && match o.kind with | .chain => true | _ => false)) &&
        (g.ended || except == some g.index ||
          (!g.midWord && g.pending.all fun r => r.done || r.need != 0))

/-- Halts the other groups of the issuing group's team that run (R299, R350). (DEDUCED, log 41) -/
def State.haltOthers (s : State) : State :=
  (s.haltGroups s.curTeam (some s.curGroup)).modCt fun t => t.holdChains true

def execHaltt (m : Mods) (s : State) : Host.Outcome State Fault Refusal :=
  let i : Instr := .haltt m
  let s := if s.active i = 0 then s else s.drainFirst
  s.run i fun s => s.sysOnce i State.needPriv fun s _ =>
    let s := s.haltOthers
    if s.settled s.curTeam (some s.curGroup) then .done s [] else .wait s .engine

/-- Resumes every halted group of a team (R350). (DEDUCED, log 41) -/
def State.resumeTeam (s : State) (k : Nat) : State :=
  let which := (s.team k).groupsWhere fun g => !g.ended && g.halted
  let s := foldS (fun s i =>
    let s := s.modGroup k i fun g => { g with halted := false }
    let t := s.team k
    s.trace t { type := 7, bit := 5, group := i, barrier := 0xFF, code := 0, phase := 0, pc := 0,
                grpslot := (t.group i).grpslot.toNat }) s which
  s.modTeam k fun t => t.holdChains false

def execResumet (m : Mods) (s : State) : Host.Outcome State Fault Refusal :=
  let i : Instr := .resumet m
  s.run i fun s => s.sysOnce i State.needPriv fun s _ => .done (s.resumeTeam s.curTeam) []

/-! ### tlbinv (R153, R154, R351) -/

/-- Invalidates the instruction caches of the cores that hold a team of the context (R97). (DEDUCED, log 42) -/
def State.dropCode (s : State) (ctx : Nat) : State :=
  foldS (fun s (t : Team) => if t.ctx = ctx then s.modCore t.core fun c => { c with icache := [] } else s)
    s s.teams

/-- Copies, gathers and scatters of a context translated before a fresh name was reached (R154). (DEDUCED, log 42) -/
def State.oldCopies (s : State) (ctx before : Nat) : Bool :=
  s.copies.any (fun o => o.ctx == ctx && decide (o.xlat < before)) ||
    s.teams.any fun t => t.ctx == ctx && t.groups.any fun g =>
      (g.heldOp.map fun o => decide (o.xlat < before)).getD false

/-- Both forms of `tlbinv`: the sweep at issue, then the wait for older copies. (DEDUCED, log 42) -/
def State.tlbinv (s : State) (i : Instr) (sweep : State → Nat → State) : Host.Outcome State Fault Refusal :=
  s.run i fun s => s.sysOnce i State.needPriv fun s _ =>
    let ctx := s.ct.ctx
    match s.cg.since with
    | some n => if s.oldCopies ctx n then .wait s .engine else .done (s.dropCode ctx) []
    | none =>
      let s := sweep s ctx
      if s.oldCopies ctx s.fresh then
        .wait (s.modCg fun g => { g with since := some s.fresh }) .engine
      else .done (s.dropCode ctx) []

def execTlbinvAll (m : Mods) (s : State) : Host.Outcome State Fault Refusal := s.tlbinv (.tlbinvAll m) State.sweep
def execTlbinvPage (a : BitVec 6) (m : Mods) (s : State) : Host.Outcome State Fault Refusal :=
  s.tlbinv (.tlbinvPage a m) fun s ctx => s.sweepPage ctx (s.cg.rs64 a)

/-! ### sample and perfrd (R330, R333, R352, R353) -/

def execSample (a : BitVec 6) (off : BitVec 11) (m : Mods) (s : State) : Host.Outcome State Fault Refusal :=
  let i : Instr := .sample a off m
  s.run i fun s => s.sysOnce i (fun _ => none) fun s act =>
    match s.writeCheck i (((s.cg.rs a).toNat + sext32 off) % 2 ^ 32) 80 16 with
    | .error e => .done s (trapLanes act e.1 e.2)
    | .ok l => .done (s.modCg fun g => { g with sample := some l.addr }) []

/-- The count of a performance event (R353). -/
def State.perfCount (s : State) (ev : PerfEvent) : DWord :=
  let p := s.cg.perf
  let c := s.core s.ct.core
  match ev with
  | .slots => BitVec.ofNat 64 p.slots
  | .clauses => BitVec.ofNat 64 p.clauses
  | .cadenceTurns => BitVec.ofNat 64 p.cadence
  | .earlyDrains => BitVec.ofNat 64 p.drains
  | .bankReads => BitVec.ofNat 64 p.banks
  | .coreCycles => BitVec.ofNat 64 c.cycles
  | .matrixSteps => BitVec.ofNat 64 c.msteps
  | .chainWork => BitVec.ofNat 64 c.chunks

def perfIsK : PerfDst → Bool
  | .k _ => true | .s _ => false

def execPerfrd (d : PerfDst) (hi : Bool) (ev : PerfEvent) (m : Mods) (s : State) :
    Host.Outcome State Fault Refusal :=
  let i : Instr := .perfrd d hi ev m
  s.run i fun s => s.sysOnce i (fun s => s.needHandler (perfIsK d)) fun s _ =>
    .done (s.writeLater (writeNames i) 1 (regWrites (writeNames i) 0 [half hi (s.perfCount ev)])) []

/-! ### Pilot access (R354, R355) -/

/-- Words that a `pilotset` may write (R355). (DEDUCED, log 43) -/
def pilotRw (x : Nat) : Bool :=
  decide (x ≤ 0x000F) || (decide (0x0020 ≤ x) && decide (x ≤ 0x003F)) ||
    (decide (0x0100 ≤ x) && decide (x ≤ 0x032F)) ||
    (decide (0x0400 ≤ x) && decide (x ≤ 0x06FF)) || (decide (0x1000 ≤ x) && decide (x ≤ 0x1FFF)) ||
    (decide (0x3000 ≤ x) && decide (x ≤ 0x3FFF))

/-- The context must be marked privileged (R354). (DEDUCED, log 43) -/
def State.needPilot (s : State) : Option Nat :=
  if (s.ctxFunc s.ct.ctx).priv then none else some codePrivilege

/-- Word index of a Pilot access. (DEDUCED, log 43) -/
def pilotIndex (g : Group) (ax : Bool) (a : BitVec 6) (idx : BitVec 14) : Nat :=
  (if ax then (g.rs a).toNat else 0) + idx.toNat

/-- `pilotset`: it retires once its write is performed; in minimal mode it is discarded without a trap (R391). -/
def execPilotset (a : BitVec 6) (ax : Bool) (b : BitVec 6) (idx : BitVec 14) (m : Mods) (s : State) :
    Host.Outcome State Fault Refusal :=
  let i : Instr := .pilotset a ax b idx m
  s.run i fun s => s.sysOnce i State.needPilot fun s act =>
    let x := pilotIndex s.cg ax a idx
    match s.cg.since with
    | some _ =>
      if s.pilotNet.any fun q => q.team == s.curTeam && q.group == s.curGroup && q.set.isSome then
        .wait s .engine
      else .done s []
    | none =>
      if s.boot.minimal then .done s []
      else if !pilotRw x then .done s (trapLanes act codeOperand 0)
      else
        let msg : PilotMsg := { team := s.curTeam, group := s.curGroup, index := x,
                                set := some (s.cg.rs b), res := none }
        let s' := s.modCg fun g => { g with since := some s.fresh }
        .wait { s' with pilotNet := s'.pilotNet ++ [msg] } .engine

/-- `pilotget`: the word as it stands at its arrival; in minimal mode 0, for any index (R391). -/
def execPilotget (d a : BitVec 6) (ax : Bool) (idx : BitVec 14) (m : Mods) (s : State) :
    Host.Outcome State Fault Refusal :=
  let i : Instr := .pilotget d a ax idx m
  s.run i fun s => s.sysOnce i State.needPilot fun s act =>
    let x := pilotIndex s.cg ax a idx
    if !s.boot.minimal && decide (0x3FFF < x) then .done s (trapLanes act codeOperand 0)
    else
      let msg : PilotMsg := { team := s.curTeam, group := s.curGroup, index := x, set := none,
                              res := some s.fresh }
      let s' := s.next.modCg fun g => g.await s.fresh (writeNames i) 1 1 [] false false false
      .done { s' with pilotNet := s'.pilotNet ++ [msg] } []

end Sys2Proof.Machine
end

