-- ==== Sys2Proof/Machine/Image.lean ====
section
/-! DEFINITION. The Herdun context image: its checksum, sections, writing and reading (R71, R299,
R316-R321). -/

namespace Sys2Proof.Machine

/-! ### CRC-32C (R316) -/

/-- One bit of the reflected polynomial 0x1EDC6F41. -/
def crcBit (c : Word) : Word := if c.getLsbD 0 then (c >>> 1) ^^^ 0x82F63B78 else c >>> 1

/-- One byte. -/
def crcByte (c : Word) (b : Byte) : Word :=
  (List.range 8).foldl (fun c _ => crcBit c) (c ^^^ b.setWidth 32)

/-- CRC-32C of bytes. -/
def crc32c (bs : List Byte) : Word := ~~~(bs.foldl crcByte 0xFFFFFFFF)

/-! ### Live tables (R71, R315) -/

/-- A live-table record: masks of live names, whether the whole team memory is live, and ranges. -/
structure LiveRec where
  g : Nat
  s : Nat
  p : Nat
  c : Nat
  whole : Bool
  ranges : List (Nat × Nat)
  deriving DecidableEq, Repr

/-- Bytes of code at an offset, whole words. -/
def State.codeBytes (s : State) (ctx : Nat) (off : Word) (n : Nat) : Option (List Byte) :=
  ((List.range (n / 4)).mapM fun i => s.codeWord ctx (off + BitVec.ofNat 32 (4 * i))).map fun ws =>
    ws.flatMap fun w => leBytes 4 w.toNat

/-- The code offset of the record of a `bar`, in the index of its kernel (R71). -/
def State.liveIndex (s : State) (ctx : Nat) (kernel hdr : Word) (slot : Nat) : Option Word := do
  let h ← s.codeBytes ctx (kernel - 16) 16
  if fieldLe h 0 4 = 0x4556494C then
    let n := fieldLe h 8 4
    let ix ← s.codeBytes ctx (BitVec.ofNat 32 (fieldLe h 4 4)) (16 * n)
    ((List.range n).find? fun i => fieldLe ix (16 * i) 4 == hdr.toNat && fieldLe ix (16 * i + 4) 1 == slot).map
      fun i => BitVec.ofNat 32 (fieldLe ix (16 * i + 8) 4)
  else none

/-- The live-table record of a group's last `bar` (R315). (DEDUCED, log 77) -/
def State.liveRec (s : State) (t : Team) (g : Group) : Option LiveRec := do
  let at_ ← g.barStop
  let off ← s.liveIndex t.ctx t.kernel at_.1 at_.2
  let r ← s.codeBytes t.ctx off 48
  let n := fieldLe r 5 1
  let rs ← s.codeBytes t.ctx (off + 48) (8 * n)
  some { g := fieldLe r 8 16, s := fieldLe r 0x18 8, p := fieldLe r 0x20 8, c := fieldLe r 0x28 1,
         whole := (fieldLe r 6 1).testBit 1,
         ranges := (List.range n).map fun i => (fieldLe rs (8 * i) 4, fieldLe rs (8 * i + 4) 4) }

/-! ### What a group's section records (R299, R319) -/

/-- A group as an image records it: its lanes, the team handler it is in with its trap registers, and
the count of an entry under way. -/
structure GroupView where
  group : Group
  lanes : List Lane
  team : Option Frame
  regs : TrapRegs
  entry : Option Nat

/-- A group in a supervisor handler is recorded as interrupted (R319). -/
def Group.view (g : Group) : GroupView :=
  let g := (g.applyLanded g.pending.length).stopHere
  match g.frames with
  | [] => { group := g, lanes := g.lanes, team := none, regs := TrapRegs.zero, entry := g.entry }
  | f :: rest =>
    if f.sup then
      { group := g, lanes := f.lanes, team := rest.head?, entry := f.entry,
        regs := f.regs.getD (if f.nested then g.nestedRegs else TrapRegs.zero) }
    else { group := g, lanes := g.lanes, team := some f, regs := g.trapRegs, entry := g.entry }

def zeros (n : Nat) : List Byte := List.replicate n 0
def le4 (n : Nat) : List Byte := leBytes 4 n

/-- The clause header kept for a lane that stands inside a clause (R96). -/
def Lane.midHdr (x : Lane) : Option Word :=
  match x.mid with
  | some (h, o) => if o = x.pc then some h else none
  | none => none

/-- The 8 bytes of a lane's state: a lane that waits for the migration engine is recorded as one that
awaits service. -/
def Lane.stateBytes (x : Lane) : List Byte :=
  let mid := if x.midHdr.isSome then 1 else 0
  let row (st num code fl : Nat) (phase : Word) : List Byte :=
    [BitVec.ofNat 8 st, BitVec.ofNat 8 num, BitVec.ofNat 8 code, BitVec.ofNat 8 (fl + mid)] ++ le4 phase.toNat
  match x.st with
  | .ready => row 0 0 0 0 0
  | .rejoin j => row 1 j 0 0 0
  | .barrier b ph => row 2 b 0 0 ph
  | .parked (.trapped p) => row 3 0 p.code 0 0
  | .parked (.service _ _) => row 3 0 0 2 0
  | .parked (.mig _) => row 3 0 0 2 0
  | .exited => row 4 0 0 0 0

/-- Lane PCs, states and clause headers: the layout of 0x000 to 0x1FF. -/
def laneBlock (ls : List Lane) : List Byte :=
  ls.flatMap (fun x => le4 x.pc.toNat) ++ ls.flatMap Lane.stateBytes ++
    ls.flatMap fun x => le4 (x.midHdr.getD 0).toNat

/-- The 64 bytes of the team descriptor. -/
def Team.descriptor (t : Team) : List Byte :=
  le4 t.tmSize ++ le4 t.rows ++ le4 t.spill ++ leBytes 2 t.quantum ++ leBytes 1 t.groups.length ++
    zeros 1 ++ le4 (if t.tmchk then 1 else 0) ++ le4 t.ferrylate.toNat ++ le4 t.tvec.toNat ++ zeros 4 ++
    leBytes 2 t.x ++ leBytes 2 t.y ++ leBytes 2 t.z ++ zeros 2 ++ le4 t.serial.toNat ++ zeros 4 ++
    leBytes 8 t.grid ++ zeros 8

/-- Hold, partner and N8 of a held rendezvous. -/
def Hold.code : Hold → Nat × Nat × Nat
  | .none => (0, 0, 0) | .give p n => (1, p, n) | .take p => (2, p, 0)

/-- The Chain fields: `%chprog`, the row operand b, n and mask. -/
def Group.chainFields (g : Group) : List Byte :=
  match g.chprog with
  | none => zeros 16
  | some o => le4 g.chprogWord.toNat ++ le4 o.b ++ le4 o.n ++ le4 o.mask.toNat

/-- Offsets 0x5C0 to 0x5FF. (DEDUCED, log 45) -/
def GroupView.systemBytes (v : GroupView) : List Byte :=
  let g := v.group
  let h := g.hold.code
  le4 g.limit.toNat ++ le4 g.timer ++ le4 g.fpflags.toNat ++ le4 g.accbase.toNat ++ le4 g.acclim.toNat ++
    le4 g.wflags.toNat ++ leBytes 8 g.rngseed.toNat ++ g.chainFields ++ le4 (if g.qovf then 1 else 0) ++
    le4 g.exmask.toNat ++ leBytes 1 g.budget ++ leBytes 1 g.role ++ leBytes 1 g.index ++ leBytes 1 h.1 ++
    leBytes 1 h.2.1 ++ leBytes 1 h.2.2 ++ leBytes 2 (v.entry.getD 0)

/-- Offsets 0x640 to 0x7FF: the team handler's trap registers, 0 outside one. (DEDUCED, log 45) -/
def GroupView.handlerBytes (v : GroupView) : List Byte :=
  if v.team.isSome then
    let r := v.regs
    le4 1 ++ le4 r.act.toNat ++ le4 r.flt.toNat ++ le4 r.code ++ le4 r.info.toNat ++ le4 r.instr.toNat ++
      le4 r.pc.toNat ++ zeros (192 - 28) ++
      (List.range 32).flatMap fun l => leBytes 8 (tget 0 r.addr l).toNat
  else zeros 448

/-- A value that a slice end saves only when its name is live. -/
def liveWord (live : Option LiveRec) (mask : LiveRec → Nat) (n : Nat) (w : Word) : Word :=
  match live with
  | none => w
  | some r => if (mask r).testBit n then w else 0

/-- Predicates of a lane, bit n for pn. -/
def predBits (g : Group) (live : Option LiveRec) (l : Nat) : Nat :=
  (List.range 48).foldl (fun n q =>
    n + (if liveWord live LiveRec.p q (g.peek (.p q) l) != 0 then 2 ^ q else 0)) 0

/-- A group-state section (R319). -/
def groupSection (t : Team) (g : Group) (live : Option LiveRec) : List Byte :=
  let v := g.view
  let g := v.group
  let lw (mask : LiveRec → Nat) (n : Nat) (w : Word) : List Byte := le4 (liveWord live mask n w).toNat
  laneBlock v.lanes ++
    (List.range 32).flatMap (fun l => leBytes 8 (predBits g live l)) ++
    (List.range 32).flatMap (fun l => le4 (4 * (g.lane l).lsp.toNat)) ++
    v.lanes.flatMap (fun x => le4 x.age) ++
    (List.range 64).flatMap (fun n => lw LiveRec.s n (g.peek (.s n) 0)) ++
    (List.range 8).flatMap (fun j =>
      let r := g.slotJ j
      le4 r.members.toNat ++ le4 r.arrived.toNat ++ le4 r.target.toNat ++ zeros 4) ++
    (List.range 16).flatMap (fun n => le4 (g.peek (.k n) 0).toNat) ++
    v.systemBytes ++ t.descriptor ++ v.handlerBytes ++
    (List.range 8).flatMap (fun n =>
      (List.range 32).flatMap fun w => lw LiveRec.c n (g.peek (.c n) w)) ++
    (match v.team with | some f => laneBlock f.lanes | none => zeros 512) ++ zeros 512 ++
    (List.range g.budget).flatMap (fun n =>
      (List.range 32).flatMap fun l => lw LiveRec.g n (g.peek (.g n) l)) ++
    (List.range 32).flatMap (fun l => g.spill.readN (spillKey l 0) t.spill) ++
    (if v.team.isSome then (List.range 32).flatMap fun l => g.frame.readN (frameKey l 0) 256 else [])

/-! ### The other sections (R318, R320) -/

/-- Barrier state. -/
def barrierSection (t : Team) : List Byte :=
  (List.range 16).flatMap fun b =>
    let x := t.barrier b
    le4 x.count.toNat ++ le4 x.cur.arrived.toNat ++ leBytes 1 x.cur.booked ++ leBytes 1 x.cur.expected ++
      zeros 2 ++ le4 x.nxt.arrived.toNat ++ leBytes 1 x.nxt.booked ++ leBytes 1 x.nxt.expected ++ zeros 14

/-- The rows of a team's units. -/
def State.rowBytes (s : State) (t : Team) : List Byte :=
  (List.range t.rows).flatMap fun r => (List.range 32).flatMap fun w => le4 (s.accWord t r w).toNat

/-- Berth records of the team, each with its descriptor. -/
def State.berthSection (s : State) (t : Team) : List Byte :=
  ((s.core t.core).berths.filter fun b => b.2.team == t.key).flatMap fun b =>
    leBytes 1 b.1 ++ leBytes 1 b.2.group ++ zeros 14 ++
      le4 b.2.base.toNat ++ le4 b.2.length ++ leBytes 2 b.2.rows ++ leBytes 2 b.2.cols ++ le4 b.2.stride ++
      leBytes 1 b.2.fmt ++ leBytes 1 b.2.layout ++ leBytes 1 b.2.bl ++ zeros 1 ++ le4 b.2.scale ++ zeros 8

/-- The parameter block of a landing entry. -/
def FerryParams.block (p : FerryParams) (e : Nat) : List Byte :=
  le4 p.src.toNat ++ le4 p.out.toNat ++ le4 p.routing.toNat ++ le4 p.routes.toNat ++ leBytes 2 p.rows ++
    leBytes 2 p.rowLen ++ leBytes 1 (if p.bf16 then 1 else 0) ++ leBytes 1 p.k ++
    leBytes 1 (if p.pass then 1 else 0) ++ leBytes 1 e ++ le4 p.timeout ++ le4 p.cw.toNat

/-- Bytes up to the next multiple of 16. -/
def pad16 (bs : List Byte) : List Byte := bs ++ zeros ((16 - bs.length % 16) % 16)

/-- A landing entry. -/
def landingBytes (e : Nat) (x : Landing) : List Byte :=
  let kept := (List.range x.status.length).filter fun q =>
    x.stat q == 1 && !x.written.getD (q / x.par.k) true
  pad16 (leBytes 1 e ++ leBytes 1 (if x.complete then 2 else 1) ++ leBytes 2 x.gen.toNat ++
      le4 (x.timer.getD 0) ++ x.par.block e ++ x.status.map (BitVec.ofNat 8)) ++
    kept.flatMap fun q => ((x.landed.find? fun r => r.1 == q).map (·.2)).getD []

def State.landingSection (s : State) (t : Team) : List Byte :=
  ((s.core t.core).landing.filter fun e => e.2.team == t.key).flatMap fun e => landingBytes e.1 e.2

/-- A slip slot, with its position in the queue. -/
def slotBytes (queue : List Nat) (n : Nat) (x : SlipSlot) : List Byte :=
  let ret (st pos : Nat) (r : RetAddr) : List Byte :=
    leBytes 1 st ++ leBytes 1 pos ++ leBytes 2 r.core ++ leBytes 1 r.entry ++ zeros 1 ++
      leBytes 2 r.gen.toNat ++ leBytes 2 r.slot ++ le4 r.serial.toNat ++ zeros 2
  match x with
  | .free => leBytes 1 0 ++ leBytes 1 0xFF ++ zeros 14
  | .arrived r => ret 1 (queue.findIdx fun m => m == n) r
  | .taken r => ret 2 0xFF r

def slipBytes (sid : Nat) (x : Slip) : List Byte :=
  leBytes 1 sid ++ leBytes 1 (if x.closed then 2 else 1) ++ leBytes 2 x.slots.length ++ le4 x.base.toNat ++
    le4 x.rowLen ++ zeros 4 ++ x.slots.zipIdx.flatMap fun y => slotBytes x.queue y.2 y.1

def State.slipSection (s : State) (t : Team) : List Byte :=
  ((s.core t.core).slips.filter fun x => x.2.team == t.key).flatMap fun x => slipBytes x.1 x.2

/-- Tracker entries still in use. -/
def State.trackerSection (s : State) (t : Team) : List Byte :=
  (s.copies.filter fun o => o.team == t.key).flatMap fun o =>
    FaultRec.bytes { code := 0, lane := o.lane, flags := 0, pc := o.pc, addr := Config.trackerAddress o.id,
                     grpslot := o.slotgen, x := t.x, y := t.y, z := t.z, group := o.group }

/-- Precise codes pending or in service in lanes. -/
def laneRecords (t : Team) (g : Group) (ls : List Lane) : List FaultRec :=
  ls.zipIdx.filterMap fun x => match x.1.st with
    | .parked (.trapped p) => some (mkFault t g p.code x.2 flagPrecise p.pc p.addr)
    | .parked (.service _ p) => some (mkFault t g p.code x.2 (flagPrecise ||| flagService) p.pc p.addr)
    | _ => none

/-- Fault records pending or in service (R318). -/
def faultRecords (t : Team) : List FaultRec :=
  (t.groups.filter fun g => !g.ended).flatMap (fun g =>
    let v := g.view
    laneRecords t g v.lanes ++ (match v.team with | some f => laneRecords t g f.lanes | none => [])) ++
    t.records

/-- A watchpoint record. -/
def watchBytes (scope idx lane : Nat) (w : Watch) : List Byte :=
  let kind := match w.kind with | .r => 1 | .w => 2 | .rw => 3
  let space := match w.space with | .sk => 0 | .tm => 1 | .cl => 2 | .hbm => 3
  leBytes 1 scope ++ leBytes 1 idx ++ leBytes 1 lane ++ leBytes 1 (1 + 2 * kind + 8 * space) ++ zeros 4 ++
    leBytes 8 w.base.toNat ++ leBytes 8 w.len ++ zeros 8

/-- Armed lane, team and context watchpoints. -/
def State.watchSection (s : State) (t : Team) : List Byte :=
  ((t.groups.filter fun g => !g.ended).flatMap fun g =>
    g.watches.flatMap fun w => watchBytes 0 (w.1 % 2) (w.1 / 2) w.2) ++
    t.watches.flatMap (fun w => watchBytes 1 w.1 0 w.2) ++
    (s.ctxFunc t.ctx).watches.flatMap fun w => watchBytes 2 w.1 0 w.2

/-- A range of team memory. -/
def rangeSection (t : Team) (off len : Nat) : List Byte :=
  le4 off ++ le4 len ++ zeros 8 ++ t.tm.readN off len

/-! ### The sections of a save (R317, R318) -/

/-- A section: type, flags, index, the planned length, and its bytes, none where it is only reserved. -/
structure Sec where
  ty : Nat
  flags : Nat
  index : Nat
  planned : Nat
  bytes : Option (List Byte)

def Sec.of (ty : Nat) (bs : List Byte) : Sec :=
  { ty := ty, flags := 0, index := 0, planned := bs.length, bytes := some bs }

/-- The header and section table of an image. -/
def State.imageEntries (s : State) (ctx va : Nat) : Option (List Byte × List Byte) := do
  let h ← s.vRead ctx va 0x40
  let t ← s.vRead ctx (va + 0x40) (24 * fieldLe h 0x12 2)
  some (h, t)

/-- Index of the first section of a type in a section table. -/
def findSection (table : List Byte) (ty : Nat) : Option Nat :=
  (List.range (table.length / 24)).find? fun i => fieldLe table (24 * i) 2 == ty

/-- The bytes of a section, when they can be read and match their checksum. -/
def State.sectionBytes (s : State) (ctx va : Nat) (table : List Byte) (i : Nat) : Option (List Byte) :=
  let f (o n : Nat) : Nat := fieldLe table (24 * i + o) n
  (s.vRead ctx (va + f 8 8) (f 4 4)).filter fun bs => (crc32c bs).toNat == f 0x10 4

/-- The physical addresses of the lines of a range at a virtual address that can be read. -/
def State.lineReads (s : State) (ctx va n : Nat) : List Nat :=
  (blockStarts 64 va n).filterMap fun o =>
    match s.walk (s.ctxFunc ctx) (va + o) .rd with
    | .page p => some (p.ppage * pageSize + (va + o) % pageSize)
    | _ => none

/-- The read packets of an image (R371): the lines of its header, of its table and of the sections of some types.
(DEDUCED, log 58) -/
def State.imageReads (s : State) (ctx va : Nat) (tys : Nat → Bool) : List Nat :=
  s.lineReads ctx va 0x40 ++
    (match s.imageEntries ctx va with
     | none => []
     | some x =>
       s.lineReads ctx (va + 0x40) x.2.length ++ (List.range (x.2.length / 24)).flatMap fun i =>
         let f (o n : Nat) : Nat := fieldLe x.2 (24 * i + o) n
         if tys (f 0 2) then s.lineReads ctx (va + f 8 8) (f 4 4) else [])

/-- The core has read an image, with its sections of some types. -/
def State.noteImage (s : State) (ctx va : Nat) (tys : Nat → Bool) : State := s.noteReads ctx (s.imageReads ctx va tys)

/-- The accumulator rows that an image holds for its team (R265). (DEDUCED, log 48) -/
def State.imageRows (s : State) (ctx va : Nat) : Option (List Byte) := do
  let x ← s.imageEntries ctx va
  let i ← findSection x.2 3
  let bs ← s.sectionBytes ctx va x.2 i
  if bs.isEmpty then none else some bs

/-- A save of a team reserves its accumulator section (R318): reason 1 or 2, while its context owns the
store. -/
def State.reserves (s : State) (t : Team) (reason : Nat) : Bool :=
  (reason == 1 || reason == 2) && t.rows != 0 && (s.core t.core).owner == some t.ctx

/-- The accumulator-window section. (DEDUCED, log 48) -/
def State.rowSection (s : State) (t : Team) (reason : Nat) : Sec :=
  let n := 128 * t.rows
  let bs : Option (List Byte) :=
    if s.reserves t reason then none
    else match t.restoreMark with
      | some va => some (((s.imageRows t.ctx va).getD [] ++ zeros n).take n)
      | none => if t.clearMark then some (zeros n) else some (s.rowBytes t)
  { ty := 3, flags := 0, index := 0, planned := n, bytes := bs }

/-- Removes repeats and sorts ranges by offset. -/
def insertRange (r : Nat × Nat) (l : List (Nat × Nat)) : List (Nat × Nat) :=
  match l with
  | [] => [r]
  | x :: rest =>
    if r = x then x :: rest else if r.1 < x.1 || (r.1 == x.1 && r.2 < x.2) then r :: x :: rest
    else x :: insertRange r rest

/-- The live-table records of a team's groups, where the stop was one at their bars (R315). -/
def State.liveOf (s : State) (t : Team) (g : Group) : Option LiveRec :=
  match t.stop with
  | .handler _ true => s.liveRec t g
  | _ => none

/-- The ranges of team memory that a save writes: those of the groups' records, or all of it. -/
def State.savedRanges (s : State) (t : Team) (slice : Bool) : List (Nat × Nat) :=
  let recs := (t.groups.filter fun g => !g.ended).map fun g => if slice then s.liveOf t g else none
  let all : List (Nat × Nat) := if t.tmSize = 0 then [] else [(0, t.tmSize)]
  if recs.all fun r => match r with | some x => !x.whole | none => false then
    (recs.flatMap fun r => match r with | some x => x.ranges | none => []).foldl
      (fun l r => insertRange r l) []
  else all

/-- Every section of a save, in the order of the image (R317). (DEDUCED, log 45) -/
def State.sections (s : State) (t : Team) (reason : Nat) : List Sec :=
  let slice := reason == 2
  let groups := (t.groups.filter fun g => !g.ended).map fun g =>
    let live := if slice then s.liveOf t g else none
    let bs := groupSection t g live
    { ty := 1, index := g.index, planned := bs.length, bytes := some bs,
      flags := (if live.isSome then 2 else 0) + (if g.view.team.isSome then 4 else 0) : Sec }
  let some_ (ty : Nat) (bs : List Byte) : List Sec := if bs.isEmpty then [] else [Sec.of ty bs]
  groups ++ [Sec.of 2 (barrierSection t)] ++ (if t.rows = 0 then [] else [s.rowSection t reason]) ++
    some_ 4 (s.berthSection t) ++ some_ 5 (s.landingSection t) ++ some_ 6 (s.slipSection t) ++
    some_ 7 (s.trackerSection t) ++ some_ 8 ((faultRecords t).flatMap FaultRec.bytes) ++
    some_ 9 (s.watchSection t) ++
    (s.savedRanges t slice).map fun r => Sec.of 10 (rangeSection t r.1 r.2)

/-! ### Writing (R299) -/

/-- Next multiple of 256. -/
def up256 (n : Nat) : Nat := (n + 255) / 256 * 256

/-- Offsets of the sections from a first offset on. -/
def secOffsets (at_ : Nat) (l : List Sec) : List Nat :=
  match l with
  | [] => []
  | x :: r => at_ :: secOffsets (up256 (at_ + x.planned)) r

/-- Writes bytes at system scope until one fails translation or the room is used: the state, how many
were written, and the failure's code, 0 where the room ended. A page in migration fails as one that is not present
(DESIGN CHOICE, log 104). -/
def State.vFill (s : State) (ctx va room : Nat) (bs : List Byte) : State × Nat × Option Nat :=
  match bs with
  | [] => (s, 0, none)
  | b :: r =>
    match room with
    | 0 => (s, 0, some 0)
    | room + 1 =>
      match s.walk (s.ctxFunc ctx) (va % 2 ^ 52) .wr with
      | .page p =>
        let x := State.vFill (s.hbmPut (p.ppage * pageSize + va % pageSize) b) ctx (va + 1) room r
        (x.1, x.2.1 + 1, x.2.2)
      | .trap c => (s, 0, some c)
      | .mig => (s, 0, some codeNotPresent)

/-- What writing the sections has done: the lengths written, the failure (code, section, address), and
the end of the last byte written. -/
structure Written where
  st : State
  lens : List Nat
  fault : Option (Nat × Nat × Nat)
  size : Nat

/-- Writes the next section. -/
def Written.add (w : Written) (ctx va room off : Nat) (x : Sec) : Written :=
  match w.fault, x.bytes with
  | none, some bs =>
    let r := w.st.vFill ctx (va + off) (room - off) bs
    { st := r.1, lens := w.lens ++ [r.2.1],
      fault := r.2.2.map fun c => (c, w.lens.length, va + off + r.2.1),
      size := if r.2.1 = 0 then w.size else max w.size (off + r.2.1) }
  | _, _ => { w with lens := w.lens ++ [0] }

/-- A section-table entry (R317). -/
def entryBytes (x : Sec) (off len : Nat) : List Byte :=
  let bs := (x.bytes.getD []).take len
  let partial_ := x.bytes.isSome && decide (len < x.planned)
  leBytes 2 x.ty ++ leBytes 1 (x.flags + (if partial_ then 1 else 0)) ++ leBytes 1 x.index ++ le4 len ++
    leBytes 8 off ++ le4 (crc32c bs).toNat ++ le4 x.planned

/-- The first 48 bytes of the header (R316). -/
def headerBytes (t : Team) (reason state count size : Nat) (fault : Nat × Nat × Nat) : List Byte :=
  le4 0x31494348 ++ leBytes 2 1 ++ leBytes 2 0 ++ leBytes 8 size ++ leBytes 1 reason ++ leBytes 1 state ++
    leBytes 2 count ++ leBytes 2 t.ctx ++ leBytes 2 t.core ++ leBytes 2 t.x ++ leBytes 2 t.y ++
    leBytes 2 t.z ++ zeros 2 ++ leBytes 1 fault.1 ++ leBytes 1 fault.2.1 ++ zeros 6 ++ leBytes 8 fault.2.2

/-- Base and size of the buffer that `%ctxbuf` names (R298). -/
def bufBase (b : DWord) : Nat := b.toNat / 2 ^ 16 % 2 ^ 36 * 2 ^ 16
def bufSize (b : DWord) : Nat := b.toNat / 2 ^ 52 * 65536

/-- Whether a virtual address can be written. -/
def State.canWrite (s : State) (ctx va : Nat) : Bool :=
  match s.walk (s.ctxFunc ctx) va .wr with | .page _ => true | _ => false

/-- Writes an image of a team into `%ctxbuf` (R299): whether it is COMPLETE. The bytes between the table and the
sections are not written (DESIGN CHOICE, log 105). (DEDUCED, log 45) -/
def State.saveImage (s : State) (k reason : Nat) : State × Bool :=
  let t := s.team k
  let buf := (s.ctxFunc t.ctx).ctxbuf
  let va := bufBase buf
  let room := bufSize buf
  if room = 0 || !s.canWrite t.ctx va then (s, false)
  else
    let secs := s.sections t reason
    let s := match t.restoreMark with
      | some img => if s.reserves t reason then s else s.noteImage t.ctx img fun ty => ty == 3
      | none => s
    let offs := secOffsets (up256 (0x40 + 24 * secs.length)) secs
    let w := (secs.zip offs).foldl (fun (w : Written) x => w.add t.ctx va room x.2 x.1)
      { st := s, lens := [], fault := none, size := 0x40 + 24 * secs.length }
    let table := ((secs.zip offs).zip w.lens).flatMap fun x => entryBytes x.1.1 x.1.2 x.2
    let h := headerBytes t reason (if w.fault.isNone then 1 else 2) secs.length w.size (w.fault.getD (0, 0, 0))
    let head := h ++ le4 (crc32c (h ++ table)).toNat ++ zeros 12
    ((w.st.vFill t.ctx va room (head ++ table)).1, w.fault.isNone)

/-- Requests of the team's lanes end with a save, and the lanes repeat their translation when the team
goes on (R310). (DEDUCED, log 45) -/
def Lane.endService (x : Lane) : Lane :=
  match x.st with
  | .parked (.service _ _) => { x with st := .ready }
  | _ => x

def State.endService (s : State) (k : Nat) : State :=
  let t := s.team k
  let s := s.modTeam k fun t => { t with groups := t.groups.map fun g =>
    { g with lanes := g.lanes.map Lane.endService
             frames := g.frames.map fun f => { f with lanes := f.lanes.map Lane.endService } } }
  s.modCtx t.ctx fun f => { f with requests := f.requests.filter fun r => r.2.1 != k }

end Sys2Proof.Machine
end

