-- ==== Sys2Proof/Machine/Save.lean ====
section
/-! DEFINITION. `ctxsave` and `ctxload` (R234, R264, R265, R299, R321, R348, R349). -/

namespace Sys2Proof.Machine

/-! ### Held accumulator units (R264, R265) -/

/-- Key of the first word of a unit. -/
def unitKey (u : Nat) : Nat := 1024 * u

/-- The bytes of a unit's 32 rows. -/
def Core.unitBytes (c : Core) (u : Nat) : List Byte :=
  (List.range 1024).flatMap fun w => le4 (tget 0 c.acc (unitKey u + w)).toNat

/-- Changes the held marks of a core. -/
def State.modHeld (s : State) (core : Nat) (f : Table HeldUnit → Table HeldUnit) : State :=
  s.modCore core fun c => { c with held := f c.held }

/-- A unit is held for this departed team. -/
def HeldUnit.isFor (h : HeldUnit) (serial : Word) (ctx : Nat) : Bool := h.serial == serial && h.ctx == ctx

/-- Writes the rows of units into an image's section: the state, or none when a byte fails. -/
def State.writeUnits (s : State) (core at_ : Nat) (us : List (Nat × HeldUnit)) : State × Bool :=
  match us with
  | [] => (s, true)
  | (u, h) :: r =>
    let bs := (s.core core).unitBytes u
    let x := s.vFill h.ctx (at_ + 4096 * h.place) bs.length bs
    if x.2.2.isSome then (x.1, false) else State.writeUnits x.1 core at_ r

/-- Completes an image whose rows have all been written (R265): the entry's LENGTH and CHECKSUM, SIZE,
and the header's CRC; none when a byte fails. -/
def State.completeImage (s : State) (ctx va i : Nat) : Option State := do
  let x ← s.imageEntries ctx va
  let f (o n : Nat) : Nat := fieldLe x.2 (24 * i + o) n
  let bs ← s.vRead ctx (va + f 8 8) (f 0x14 4)
  let s := s.noteReads ctx (s.lineReads ctx (va + f 8 8) (f 0x14 4))
  let table := x.2.take (24 * i + 4) ++ le4 (f 0x14 4) ++ leBytes 8 (f 8 8) ++ le4 (crc32c bs).toNat ++
    x.2.drop (24 * i + 0x14)
  let size := max (fieldLe x.1 8 8) (f 8 8 + f 0x14 4)
  let h := x.1.take 8 ++ leBytes 8 size ++ (x.1.drop 16).take 32
  s.vWrite ctx va (h ++ le4 (crc32c (h ++ table)).toNat ++ x.1.drop 52 ++ table)

/-- Writes held units of one departed team (R265): they stop being held, and the image completes with
the last; when a byte fails, the team's units stay held with their kept bits set. (DEDUCED, log 48) -/
def State.writeTeamUnits (s : State) (core : Nat) (us : List (Nat × HeldUnit)) : State × Bool :=
  match us with
  | [] => (s, true)
  | (_, h) :: _ =>
    let s := s.noteImage h.ctx h.image fun _ => false
    let keep : State × Bool :=
      (s.modHeld core fun t => t.map fun x =>
        if x.2.isFor h.serial h.ctx then (x.1, { x.2 with kept := true }) else x, false)
    match s.imageEntries h.ctx h.image with
    | none => keep
    | some x =>
      match findSection x.2 3 with
      | none => keep
      | some i =>
        let r := s.writeUnits core (h.image + fieldLe x.2 (24 * i + 8) 8) us
        let failed : State × Bool :=
          (r.1.modHeld core fun t => t.map fun x =>
            if x.2.isFor h.serial h.ctx then (x.1, { x.2 with kept := true }) else x, false)
        if !r.2 then failed
        else
          let gone := us.map (·.1)
          let s' := r.1.modHeld core fun t => t.filter fun x => !gone.contains x.1
          if (s'.core core).held.any fun x => x.2.isFor h.serial h.ctx then (s', true)
          else match s'.completeImage h.ctx h.image i with
            | some s'' => (s'', true)
            | none => failed

/-- Writes held units of a core that satisfy a condition, team by team. -/
def State.writeHeld (s : State) (core : Nat) (p : Nat → Bool) : State × Bool :=
  let us := (s.core core).held.filter fun x => p x.1
  let teams := (us.map fun x => (x.2.serial, x.2.ctx)).eraseDups
  teams.foldl (fun (acc : State × Bool) q =>
    let r := acc.1.writeTeamUnits core (us.filter fun x => x.2.isFor q.1 q.2)
    (r.1, acc.2 && r.2)) (s, true)

/-- A unit lies in a team's allocation. -/
def Team.hasUnit (t : Team) (u : Nat) : Bool :=
  decide (t.firstUnit ≤ u) && decide (u < t.firstUnit + t.rows / 32)

/-- Sets every row of a team's allocation from bytes; the bytes that lack read as +0.0. -/
def State.setRows (s : State) (t : Team) (bs : List Byte) : State :=
  foldS (fun s w => s.accPut t (w / 32) (w % 32) (BitVec.ofNat 32 (fieldLe bs (4 * w) 4))) s
    (List.range (32 * t.rows))

/-- Some unit of a team's allocation is still held. -/
def State.unitsHeld (s : State) (t : Team) : Bool := (s.core t.core).held.any fun x => t.hasUnit x.1

/-- Steps 2 and 3 of `ctxload.acc` for one resident team (R265). (DEDUCED, log 48) -/
def State.loadRows (s : State) (k : Nat) : State × Bool :=
  let t := s.team k
  if s.unitsHeld t then (s, true)
  else match t.restoreMark with
    | some va =>
      let s' := (s.noteImage t.ctx va fun ty => ty == 3).modTeam k fun t => { t with restoreMark := none }
      (match s.imageRows t.ctx va with
       | some bs => (s'.setRows t bs, true)
       | none => (s'.setRows t [], false))
    | none =>
      if t.clearMark then ((s.modTeam k fun t => { t with clearMark := false }).setRows t [], true)
      else (s, true)

/-- The predicate result of `ctxsave` and `ctxload` in the active lanes. -/
def State.answer (s : State) (i : Instr) (act : Mask) (ok : Bool) : Eff :=
  .done (s.writeLater (writeNames i) act (s.lanewise i fun _ _ => [if ok then 1 else 0])) []

def execCtxsaveAcc (o : OpCtx) (s : State) : Host.Outcome State Fault Refusal :=
  let i : Instr := .ctxsaveAcc o
  s.run i fun s => s.sysOnce i State.needSup fun s act =>
    let r := s.writeHeld s.ct.core fun _ => true
    r.1.answer i act r.2

def execCtxloadAcc (o : OpCtx) (s : State) : Host.Outcome State Fault Refusal :=
  let i : Instr := .ctxloadAcc o
  s.run i fun s => s.sysOnce i State.needSup fun s act =>
    let t := s.ct
    let mine := s.teams.filter fun u => u.core == t.core && u.ctx == t.ctx
    let r := s.writeHeld t.core fun u => mine.any fun q => q.hasUnit u
    let r := mine.foldl (fun (acc : State × Bool) q =>
      let x := acc.1.loadRows q.key
      (x.1, acc.2 && x.2)) r
    (r.1.modCore t.core fun c => { c with accowner := 0x80000000 ||| BitVec.ofNat 32 (t.ctx % 65536) }).answer
      i act r.2

/-! ### Images (R348) -/

/-- Every register result of the team's groups has landed. -/
def State.teamLanded (s : State) (k : Nat) : Bool :=
  (s.team k).groups.all fun g => g.ended || g.regsDone

/-- Saves the issuing group's team with a reason. (DEDUCED, log 79) -/
def State.saveTeam (s : State) (i : Instr) (act : Mask) (reason : Nat) : Eff :=
  if !s.teamLanded s.curTeam then .wait s .engine
  else
    let t := s.ct
    let r := s.saveImage s.curTeam reason
    let s' := r.1.endService s.curTeam
    let mark := (bufBase (s.ctxFunc t.ctx).ctxbuf, s.reserves t reason)
    let s' := if r.2 && reason != 4 then s'.modCg fun g => { g with saved := some mark } else s'
    s'.answer i act r.2

/-- A save that its entry's code permits (R348). (DEDUCED, log 79) -/
def State.saveStop (s : State) (i : Instr) (code reason : Nat) : Host.Outcome State Fault Refusal :=
  s.run i fun s =>
    s.sysOnce i (fun s => s.needSup.orElse fun _ =>
        if s.cg.trapRegs.code = code then none else some codeOperand) fun s act =>
      s.saveTeam i act reason

/-- A save that halts the team's other groups first (R348); records on their way to the team are delivered
to it before, so that its image holds them (R311, R318). (DEDUCED, log 79) -/
def State.saveHalted (s : State) (i : Instr) (reason : Nat) : Host.Outcome State Fault Refusal :=
  s.run i fun s => s.sysOnce i State.needSup fun s act =>
    let running := s.ct.groups.any fun g => !g.ended && g.index != s.curGroup && !g.halted
    let begun := running || s.cg.since.isSome
    let s := if running then (s.haltOthers).modCg fun g => { g with since := some s.fresh } else s
    if (begun && !s.settled s.curTeam (some s.curGroup)) || s.faults.any (fun x => x.1 == s.curTeam) then
      .wait s .engine
    else s.saveTeam i act reason

def execCtxsavePre (o : OpCtx) (s : State) : Host.Outcome State Fault Refusal :=
  s.saveStop (.ctxsavePre o) codePreempt 1
def execCtxsaveSlice (o : OpCtx) (s : State) : Host.Outcome State Fault Refusal :=
  s.saveStop (.ctxsaveSlice o) codeSliceEnd 2
def execCtxsaveMig (o : OpCtx) (s : State) : Host.Outcome State Fault Refusal :=
  s.saveHalted (.ctxsaveMig o) 3
def execCtxsaveDump (o : OpCtx) (s : State) : Host.Outcome State Fault Refusal :=
  s.saveHalted (.ctxsaveDump o) 4

/-! ### Reading an image (R321) -/

/-- A section as an image holds it: type, flags, index, planned length and bytes. -/
structure Found where
  ty : Nat
  flags : Nat
  index : Nat
  planned : Nat
  bytes : List Byte

/-- An image that is restorable for a context (R321, R349): its header and sections. -/
def State.readImage (s : State) (ctx va : Nat) : Option (List Byte × List Found) := do
  let x ← s.imageEntries ctx va
  let h := x.1
  let n := fieldLe h 0x12 2
  let secs ← (List.range n).mapM fun i => do
    let f (o m : Nat) : Nat := fieldLe x.2 (24 * i + o) m
    let bs ← s.sectionBytes ctx va x.2 i
    some { ty := f 0 2, flags := f 2 1, index := f 3 1, planned := f 0x14 4, bytes := bs : Found }
  if fieldLe h 0 4 = 0x31494348 ∧ fieldLe h 4 2 = 1 ∧ fieldLe h 6 2 = 0 ∧ fieldLe h 0x11 1 = 1 ∧
      (crc32c (h.take 48 ++ x.2)).toNat = fieldLe h 0x30 4 ∧ fieldLe h 0x14 2 = ctx ∧
      secs.all (fun y => decide (1 ≤ y.ty) && decide (y.ty ≤ 10) && y.ty != 7) = true then
    some (h, secs)
  else none

/-- Sections of a type. -/
def ofType (l : List Found) (ty : Nat) : List Found := l.filter fun y => y.ty == ty

/-- The group sections of an image. -/
def groupsOf (l : List Found) : List Found := ofType l 1

/-- A field of the team descriptor of an image. -/
def descField (l : List Found) (o n : Nat) : Nat :=
  match (groupsOf l).head? with
  | some y => fieldLe y.bytes (0x600 + o) n
  | none => 0

/-- The image's team shape is the placed team's (R349): `total` is the sum of the budgets it was placed with,
since registers move between groups (R133); a group that has ended is not of the shape. (DEDUCED, log 79) -/
def shapeMatches (t : Team) (total : Nat) (l : List Found) : Bool :=
  let d (o n : Nat) : Nat := descField l o n
  let budget (y : Found) : Nat := fieldLe y.bytes 0x5F8 1
  !(groupsOf l).isEmpty && d 0 4 == t.tmSize && d 4 4 == t.rows && d 8 4 == t.spill && d 0xC 2 == t.quantum &&
    d 0xE 1 == t.groups.length &&
    (groupsOf l).all (fun y => decide (y.index < t.groups.length) && !(t.group y.index).ended &&
      fieldLe y.bytes 0x5F9 1 == (t.group y.index).role) &&
    decide (((groupsOf l).map budget).sum ≤ total)

/-- Registers of a thread that the RESUME record of a team gives it (R360). -/
def State.placedBudget (s : State) (t : Team) : Nat :=
  match s.grid? t.ownGrid with
  | some g => (g.record.used.map fun x => x.1 * x.2).sum
  | none => 0

/-! ### Restoring (R349) -/

/-- A word of a section. -/
def wordAt (bs : List Byte) (o : Nat) : Word := BitVec.ofNat 32 (fieldLe bs o 4)

/-- Fault records of a type 8 section. -/
def parseRecords (bs : List Byte) : List FaultRec :=
  (List.range (bs.length / 32)).map fun i =>
    let f (o n : Nat) : Nat := fieldLe bs (32 * i + o) n
    { code := f 0 1, lane := f 1 1, flags := BitVec.ofNat 16 (f 2 2), pc := BitVec.ofNat 32 (f 4 4),
      addr := BitVec.ofNat 64 (f 8 8), grpslot := BitVec.ofNat 32 (f 0x10 4), x := f 0x14 2, y := f 0x16 2,
      z := f 0x18 2, group := f 0x1A 1 }

/-- A lane of a block in the layout of 0x000 to 0x1FF, with its call-stack offset and wait age. A lane
that awaited service repeats its translation (R310). The word of a decode trap is the one that its address names
(R85), and a fetch fault has none. -/
def State.restoreLane (s : State) (ctx : Nat) (recs : List FaultRec) (bs : List Byte) (at_ l lsp age : Nat) :
    Lane :=
  let pc := wordAt bs (at_ + 4 * l)
  let b (i : Nat) : Nat := fieldLe bs (at_ + 0x80 + 8 * l + i) 1
  let mid := if (b 3).testBit 0 then some (wordAt bs (at_ + 0x180 + 4 * l), pc) else none
  let st : LaneState :=
    match b 0 with
    | 1 => .rejoin (b 1)
    | 2 => .barrier (b 1) (wordAt bs (at_ + 0x80 + 8 * l + 4))
    | 3 =>
      if (b 3).testBit 1 || b 2 == 0 then .ready
      else
        let r := recs.find? fun r => r.lane == l && r.code == b 2 && r.flags.getLsbD 0
        let off := (r.map (·.pc)).getD pc
        let addr := (r.map (·.addr)).getD 0
        let word := if mid.isSome then (s.codeWord ctx off).getD 0
          else if b 2 ≤ codeOperand then (s.codeWord ctx (addr.setWidth 32)).getD 0 else 0
        .parked (.trapped { code := b 2, addr := addr, pc := off, decode := mid.isNone, word := word })
    | 4 => .exited
    | _ => .ready
  { pc := pc, st := st, mid := mid, lsp := BitVec.ofNat 13 (lsp / 4), age := age }

/-- The lanes of a block. -/
def State.restoreLanes (s : State) (ctx : Nat) (recs : List FaultRec) (bs : List Byte) (at_ : Nat) :
    List Lane :=
  (List.range 32).map fun l =>
    s.restoreLane ctx recs bs at_ l (fieldLe bs (0x300 + 4 * l) 4) (fieldLe bs (0x380 + 4 * l) 4)

/-- A table of the words of a list that are not 0. -/
def wordTable (l : List (Nat × Word)) : Table Word := l.foldl (fun t x => tput 0 t x.1 x.2) []

/-- The trap registers that a section records for a team handler. -/
def handlerRegs (bs : List Byte) : TrapRegs :=
  { act := wordAt bs 0x644, flt := wordAt bs 0x648, code := fieldLe bs 0x64C 1, info := wordAt bs 0x650,
    instr := wordAt bs 0x654, pc := wordAt bs 0x658,
    addr := (List.range 32).foldl (fun t l => tput 0 t l (BitVec.ofNat 64 (fieldLe bs (0x700 + 8 * l) 8))) [] }

/-- The Chain operation that a section records: its rows begin at b in the saved window. One that an error had stopped
goes on with its team, since a section has no place for that (R291, R319; DESIGN CHOICE, log 38). -/
def restoreChain (bs : List Byte) (id : Nat) : Option ChainOp :=
  let w := wordAt bs 0x5E0
  if w.getLsbD 31 then
    let b := fieldLe bs 0x5E4 4
    some { id := id, kind := .chain, b := b, row := fieldLe bs 0x5CC 4 + b, n := fieldLe bs 0x5E8 4,
           mask := BitVec.ofNat 16 (fieldLe bs 0x5EC 4), carry := w.toNat / 2 ^ 20 % 8,
           chunk := w.toNat % 256, pc := Config.restoredPc id, stopped := true, failed := false, handler := none,
           seq := 0, carryIn := none }
  else none

/-- A group from its section: `g` is the placed group. Lanes and handler are those recorded. -/
def State.restoreGroup (s : State) (t : Team) (g : Group) (recs : List FaultRec) (y : Found) : Group :=
  let bs := y.bytes
  let f (o n : Nat) : Nat := fieldLe bs o n
  let recs := recs.filter fun r => r.group == g.index
  let budget := f 0x5F8 1
  let lanes := s.restoreLanes t.ctx recs bs 0
  let inTeam := (f 0x640 1).testBit 0
  let spillAt := 0x1000 + 128 * budget
  let g' := Group.placed g.index g.role g.slot g.gen g.port budget 0 t.spill
  { g' with
    lanes := lanes
    g := wordTable ((List.range (32 * budget)).map fun i => (i, wordAt bs (0x1000 + 4 * i)))
    s := wordTable ((List.range 64).map fun n => (n, wordAt bs (0x400 + 4 * n)))
    k := wordTable ((List.range 16).map fun n => (n, wordAt bs (0x580 + 4 * n)))
    c := wordTable ((List.range 256).map fun n => (n, wordAt bs (0x800 + 4 * n)))
    p := wordTable ((List.range 47).map fun n =>
      (n + 1, maskOf fun l => (f (0x200 + 8 * l) 8).testBit (n + 1)))
    rejoins := (List.range 8).foldl (fun t j =>
      tput Rejoin.reset t j { members := wordAt bs (0x500 + 16 * j), arrived := wordAt bs (0x504 + 16 * j),
                              target := wordAt bs (0x508 + 16 * j) }) []
    limit := BitVec.ofNat 16 (f 0x5C0 4), timer := f 0x5C4 4, fpflags := wordAt bs 0x5C8 &&& 0x1F1F
    accbase := BitVec.ofNat 15 (f 0x5CC 4), acclim := BitVec.ofNat 15 (f 0x5D0 4)
    wflags := BitVec.ofNat 5 (f 0x5D4 4), rngseed := BitVec.ofNat 64 (f 0x5D8 8)
    chprog := restoreChain bs (s.fresh + g.index)
    qovf := f 0x5F0 4 != 0, exmask := wordAt bs 0x5F4
    entry := if (lanes.any fun x => x.st.isTrapped) || f 0x5FE 2 != 0 then some (f 0x5FE 2) else none
    trapRegs := if inTeam then handlerRegs bs else TrapRegs.zero
    frames := if inTeam then
        [{ sup := false, nested := false, lanes := s.restoreLanes t.ctx recs bs 0xC00, entry := none,
           regs := none, enrolled := [] }]
      else []
    spill := (List.range 32).foldl (fun m l =>
      m.writeN (spillKey l 0) ((bs.drop (spillAt + l * t.spill)).take t.spill)) []
    frame := if inTeam then (List.range 32).foldl (fun m l =>
        m.writeN (frameKey l 0) ((bs.drop (spillAt + 32 * t.spill + 256 * l)).take 256)) []
      else [] }

/-- The issuing group as restored: it stays in its handler, over the recorded state. -/
def Group.underHandler (now saved : Group) : Group :=
  let keep := (now.frames.head?).map fun f => f.sup
  { saved with
    lanes := now.lanes.mapIdx fun l x => { x with lsp := (saved.lane l).lsp }
    frames := { sup := keep.getD true, nested := false, lanes := saved.lanes, entry := saved.entry,
                regs := if saved.frames.isEmpty then none else some saved.trapRegs, enrolled := [] } :: saved.frames
    trapRegs := now.trapRegs, entry := none, clause := now.clause, park := now.park, seq := now.seq
    pending := now.pending, perf := now.perf, stamp := now.stamp, loaded := true }

/-- A group of which the image holds no section had ended. -/
def Group.gone (g : Group) : Group :=
  { g with ended := true, exmask := fullMask, lanes := g.lanes.map fun x => { x with st := .exited } }

/-- Barriers from their section. -/
def parseBarriers (bs : List Byte) : Table Barrier :=
  (List.range 16).foldl (fun t b =>
    let f (o n : Nat) : Nat := fieldLe bs (32 * b + o) n
    tput Barrier.reset t b
      { count := wordAt bs (32 * b), closing := false, last := none,
        cur := { arrived := wordAt bs (32 * b + 4), booked := f 8 1, expected := f 9 1 },
        nxt := { arrived := wordAt bs (32 * b + 0xC), booked := f 0x10 1, expected := f 0x11 1 } }) []

/-- Groups of a team that have not ended; the one that a record without a group belongs to. -/
def Team.someGroup (t : Team) (i : Nat) : Nat :=
  let gs := t.groupsWhere fun g => !g.ended
  gs.getD (Config.restoredGroup i % gs.length) 0

/-- Arms one watchpoint of an image. (DESIGN CHOICE, log 46) -/
def State.restoreWatch (s : State) (k : Nat) (bs : List Byte) (i : Nat) : State :=
  let f (o n : Nat) : Nat := fieldLe bs (32 * i + o) n
  let fl := f 3 1
  let kind : WKind := match fl / 2 % 4 with | 1 => .r | 2 => .w | _ => .rw
  let space : WSpace := match fl / 8 % 4 with | 0 => .sk | 1 => .tm | 2 => .cl | _ => .hbm
  let w : Watch := { kind := kind, space := space, base := BitVec.ofNat 64 (f 8 8), len := f 0x10 8 }
  let t := s.team k
  match f 0 1 with
  | 0 => s.modGroup k (t.someGroup i) fun g => { g with watches := tins g.watches (2 * f 2 1 + f 1 1) w }
  | 1 => s.modTeam k fun t => { t with watches := tins t.watches (f 1 1) w }
  | _ => s.modCtx t.ctx fun x => { x with watches := tins x.watches (f 1 1) w }

/-- Loads one berth record at its number (R256), in the place of a record that another team has taken it for since
(DESIGN CHOICE, log 102). -/
def State.restoreBerth (s : State) (k : Nat) (bs : List Byte) (i : Nat) : State :=
  let at_ := 48 * i
  let b := parseBerth k (fieldLe bs (at_ + 1) 1) ((bs.drop (at_ + 16)).take 32)
  s.modCore (s.team k).core fun c => { c with berths := tins c.berths (fieldLe bs at_ 1) b }

/-- Reads a slip record; its length is 16 + 16 times the capacity. -/
def parseSlip (k : Nat) (bs : List Byte) : Nat × Slip :=
  let f (o n : Nat) : Nat := fieldLe bs o n
  let cap := f 2 2
  let slot (n : Nat) : SlipSlot :=
    let a := 16 + 16 * n
    let r : RetAddr := { core := f (a + 2) 2, entry := f (a + 4) 1, gen := BitVec.ofNat 16 (f (a + 6) 2),
                         slot := f (a + 8) 2, serial := wordAt bs (a + 10) }
    match f a 1 with | 1 => .arrived r | 2 => .taken r | _ => .free
  let queue := (List.range cap).filterMap fun pos =>
    (List.range cap).find? fun n => f (16 + 16 * n) 1 == 1 && f (17 + 16 * n) 1 == pos
  (f 0 1, { closed := f 1 1 == 2, team := k, base := wordAt bs 4, rowLen := f 8 4,
            slots := (List.range cap).map slot, queue := queue })

/-- Restores the slips of a section in turn (R230), each in the place of a record of another team under its number,
whose rows on their way get no further answer (DESIGN CHOICE, log 102). -/
def State.restoreSlips (s : State) (k fuel : Nat) (bs : List Byte) : State :=
  match fuel with
  | 0 => s
  | fuel + 1 =>
    if bs.isEmpty then s
    else
      let x := parseSlip k bs
      State.restoreSlips (s.setSlip (s.team k).core x.1 x.2) k fuel (bs.drop (16 + 16 * fieldLe bs 2 2))

/-- Reads a landing entry: number, entry, and the bytes it takes; its ferry had been answered before the save
(R229). Weights are read from the restored routing array. (DESIGN CHOICE, log 46) -/
def State.parseLanding (s : State) (k i : Nat) (bs : List Byte) : Nat × Landing × Nat :=
  let f (o n : Nat) : Nat := fieldLe bs o n
  let par := (parseFerry ((bs.drop 8).take 32)).1
  let n := par.slots
  let head := (0x28 + n + 15) / 16 * 16
  let status := (List.range n).map fun q => f (0x28 + q) 1
  let final (r : Nat) : Bool := (List.range par.k).all fun kk => status.getD (r * par.k + kk) 0 != 0
  let kept := (List.range n).filter fun q => status.getD q 0 == 1 && f 1 1 == 1 && !final (q / par.k)
  let routing (q : Nat) : Nat :=
    leNat (s.tmBytes { team := k, addr := par.routing.toNat % 2 ^ 21 + 8 * q } 8)
  let x : Landing :=
    { id := s.fresh, complete := f 1 1 == 2, team := k, group := (s.team k).someGroup i, lane := 0,
      pc := Config.restoredPc (s.fresh + i), gen := BitVec.ofNat 16 (f 2 2), par := par,
      timer := if par.timeout = 0 then none else some (f 4 4), status := status,
      answered := status.map fun _ => true,
      weights := (List.range n).map fun q => BitVec.ofNat 32 (routing q / 2 ^ 32),
      landed := kept.zipIdx.map fun q => (q.1, (bs.drop (head + q.2 * par.rowLen)).take par.rowLen),
      written := (List.range par.rows).map final }
  (f 0 1, x, head + kept.length * par.rowLen)

/-- Restores a landing entry where its number is free, its unwritten rows absent again; an OPEN entry
whose number is taken is force-completed, a COMPLETE one is lost (R229). -/
def State.restoreLanding (s : State) (k e : Nat) (x : Landing) : State :=
  let core := (s.team k).core
  let rows := (List.range x.par.rows).filter fun i => !x.complete && !x.written.getD i true
  match s.landing? core e with
  | none =>
    let s := s.next.modCore core fun c => { c with landing := tins c.landing e x }
    foldS (fun s i => s.holdLines x.op (x.rowLoc x.par.out i) x.par.rowLen) s rows
  | some _ =>
    if x.complete then s
    else
      let y := x.force 6
      let s := foldS (fun s i =>
        let r := y.rowBytes i (s.tmBytes (y.rowLoc y.par.src i) y.par.rowLen)
        (s.tmPuts (y.rowLoc y.par.out i) 0 r.1).modGroup k y.group fun g =>
          if g.ended then g else { g with fpflags := g.fpflags ||| BitVec.ofNat 32 (r.2 % 32) }) s rows
      let cw := y.loc y.par.cw
      s.tmPuts cw 0 (leBytes 8 (leNat (s.tmBytes cw 8) + 1))

/-- Restores the landing entries of a section in turn. -/
def State.restoreLandings (s : State) (k i : Nat) (bs : List Byte) : State :=
  match i with
  | 0 => s
  | i + 1 =>
    if bs.isEmpty then s
    else
      let x := s.parseLanding k i bs
      State.restoreLandings (s.restoreLanding k x.1 x.2.1) k i (bs.drop (max 16 x.2.2))

/-- Writes a team-memory range. -/
def State.restoreRange (s : State) (k : Nat) (bs : List Byte) : State :=
  s.modTeam k fun t => { t with tm := t.tm.writeN (fieldLe bs 0 4) (bs.drop 16) }

/-- The accumulator rows of a restored team (R264, R349): `img` and `core` are the image and the core it
records, `bs` its section; `stay` when the same team was restored before in this entry. (DEDUCED, log 48) -/
def State.restoreRows (s : State) (k img core : Nat) (serial : Word) (bs : List Byte) (stay : Bool) : State :=
  let t := s.team k
  let held := (s.core t.core).held.filter fun x => t.hasUnit x.1
  let own := core == t.core && ((stay && !t.rowsDue) ||
    (held.length == t.rows / 32 && held.all fun x => x.2.isFor serial t.ctx))
  let s := s.modTeam k fun t => { t with restoreMark := none, clearMark := false }
  let s :=
    if bs.isEmpty && own then s
    else if held.isEmpty then s.setRows t bs
    else if bs.isEmpty then s.modTeam k fun t => { t with clearMark := true }
    else s.modTeam k fun t => { t with restoreMark := some img }
  s.modHeld core fun l => l.filter fun x => !x.2.isFor serial t.ctx

/-- A team counts for a grid, at a linear index (R360). -/
def Team.joins (t : Team) (g : Grid) (n : Nat) : Team :=
  { t with grid := g.serial, linear := n, gx := g.record.gx, gy := g.record.gy, gz := g.record.gz,
           kernel := g.record.kernel, peloton := g.record.peloton }

/-- The restored team joins the grid whose serial its image records, when one of its teams has not
ended; else it belongs to the RESUME record's grid alone (R360). (DEDUCED, log 47) -/
def State.rejoinGrid (s : State) (k serial : Nat) : State :=
  let t := s.team k
  match (s.grid? serial).filter fun g => g.ctx == t.ctx with
  | some g =>
    let n := t.x + g.record.gx * (t.y + g.record.gy * t.z)
    (s.modGrid t.ownGrid fun o => { o with follows := some (serial, n) }).modTeam k fun t => t.joins g n
  | none =>
    match s.grid? t.ownGrid with
    | none => s
    | some o => (s.modGrid t.ownGrid fun o => { o with follows := none }).modTeam k fun t => t.joins o 0

/-- The counter of team serials after one is given (R217). -/
def Core.takeSerial (c : Core) : Core :=
  { c with serial := if (c.serial + 1) % 2 ^ 32 = 0 then 1 else (c.serial + 1) % 2 ^ 32 }

/-- The serial of a restored team (R217, R349): the image's on the core that it records, else a new one, which
its placement may have taken already. (DEDUCED, log 47) -/
def State.resumeSerial (s : State) (k from_ : Nat) (serial : Word) : State :=
  let t := s.team k
  if from_ = t.core then s.modTeam k fun t => { t with serial := serial, newSerial := false }
  else if t.newSerial then s
  else
    let n := (s.core t.core).serial
    (s.modCore t.core Core.takeSerial).modTeam k fun t =>
      { t with serial := BitVec.ofNat 32 n, newSerial := true }

/-- What the team of a RESUME record owns is released before its image's records take their place. (DEDUCED,
log 47) -/
def State.dropRecords (s : State) (k : Nat) : State :=
  let t := s.team k
  let ids := ((s.core t.core).landing.filter fun e => e.2.team == k).map fun e => e.2.id
  let s := s.modTeam k fun t => { t with absent := (t.absent.map fun x =>
    (x.1, x.2.filter fun op => !ids.contains op.1)).filter fun x => !x.2.isEmpty }
  (s.dropSlips k t.core).modCore t.core fun c => c.freeTeam k

/-- Records kept for a team name its groups' new slots. (DEDUCED, log 47) -/
def Team.ownRecord (t : Team) (r : FaultRec) : FaultRec :=
  let g := t.group r.group
  if g.ended then r else { r with grpslot := g.grpslot }

/-- An entry that a record had begun and that has used no slot goes on from 0 in a group that an image's handler runs
over (R311, R313). -/
def Team.frozenEntries (t : Team) : Team :=
  { t with groups := t.groups.map fun g =>
      match g.frames with
      | [] => g
      | f :: r =>
        if f.sup && f.entry.isNone && !(t.recordsFor g.index).isEmpty then
          { g with frames := { f with entry := some 0 } :: r }
        else g }

/-- Restores every section of an image into the issuing group's team; it keeps the MODE in force when it was
placed, which no image holds (R177; DESIGN CHOICE, log 92), and its granule tags are 0, for which an image has no place
either (R156, R318; DESIGN CHOICE, log 103). (DEDUCED, log 47) -/
def State.restoreTeam (s : State) (img : Nat) (h : List Byte) (l : List Found) : State :=
  let k := s.curTeam
  let d (o n : Nat) : Nat := descField l o n
  let serial := BitVec.ofNat 32 (d 0x28 4)
  let from_ := fieldLe h 0x16 2
  let recs := (ofType l 8).flatMap fun y => parseRecords y.bytes
  let again := s.ct.groups.any (fun g => g.loaded) && s.ct.serial == serial
  let s := s.dropRecords k
  let old := s.ct
  let groups := old.groups.map fun g =>
    match (groupsOf l).find? fun y => y.index == g.index with
    | some y =>
      let r := s.restoreGroup old g recs y
      let kept := s.keptSamples.find? fun x => x.core == from_ && x.serial == serial && x.group == g.index
      let r := { r with sample := kept.map (·.ptr) }
      if g.index = s.curGroup then g.underHandler r else { r with stopped := true }
    | none =>
      if g.index = s.curGroup then g.underHandler { g.gone with ended := false, frames := [], entry := none }
      else g.gone
  let s := s.modCt fun t =>
    { t with groups := groups, x := d 0x20 2, y := d 0x22 2, z := d 0x24 2, tmchk := (d 0x10 4).testBit 0
             ferrylate := BitVec.ofNat 32 (d 0x14 4), tvec := BitVec.ofNat 32 (d 0x18 4), tm := [], tags := []
             barriers := (match (ofType l 2).head? with | some y => parseBarriers y.bytes | none => [])
             watches := [] }
  let s := { s with fresh := s.fresh + 64
                    keptSamples := s.keptSamples.filter fun x => !(x.core == from_ && x.serial == serial) }
  let s := (s.rejoinGrid k (d 0x30 8)).resumeSerial k from_ serial
  let s := s.modCt fun t =>
    { t with records := (recs.filter fun r => !r.flags.getLsbD 0).map t.ownRecord }
  let s := s.modCt Team.frozenEntries
  let s := foldS (fun s (y : Found) => s.restoreRange k y.bytes) s (ofType l 10)
  let s := s.restoreRows k img from_ serial (((ofType l 3).head?.map Found.bytes).getD []) again
  let s := foldS (fun s (y : Found) =>
    foldS (fun s i => s.restoreBerth k y.bytes i) s (List.range (y.bytes.length / 48))) s (ofType l 4)
  let s := foldS (fun s (y : Found) => s.restoreLandings k 256 y.bytes) s (ofType l 5)
  let s := foldS (fun s (y : Found) => s.restoreSlips k 16 y.bytes) s (ofType l 6)
  foldS (fun s (y : Found) =>
    foldS (fun s i => s.restoreWatch k y.bytes i) s (List.range (y.bytes.length / 32))) s (ofType l 9)

/-- `ctxload.img` stands only in the PREEMPT entry with which a resumed team begins. (DEDUCED, log 79) -/
def State.needResume (s : State) : Option Nat :=
  s.needSup.orElse fun _ =>
    if s.ct.resumeCw.isSome && s.cg.trapRegs.code == codePreempt then none else some codeOperand

def execCtxloadImg (o : OpCtx) (s : State) : Host.Outcome State Fault Refusal :=
  let i : Instr := .ctxloadImg o
  s.run i fun s => s.sysOnce i State.needResume fun s act =>
    let t := s.ct
    let img := bufBase (s.ctxFunc t.ctx).ctxbuf
    let found := s.readImage t.ctx img
    let s := s.noteImage t.ctx img fun _ => true
    match found with
    | none => s.answer i act false
    | some (h, l) =>
      if shapeMatches t (s.placedBudget t) l then (s.restoreTeam img h l).answer i act true else s.answer i act false

end Sys2Proof.Machine
end

