-- ==== Sys2Proof/Machine/Stop.lean ====
section
/-! DEFINITION. Return from a handler, and the stops of teams: fine pre-emption, slice end and the host's
halts (R229, R230, R308, R313-R315, R324-R326, R345, R386). -/

namespace Sys2Proof.Machine

/-! ### Leaving the core (R264, R314) -/

/-- The units of a team become held for it (R264); one that is held already stays so. (DEDUCED, log 48) -/
def Team.holdUnits (t : Team) (image : Nat) (held : Table HeldUnit) : Table HeldUnit :=
  (List.range (t.rows / 32)).foldl (fun h p =>
    if (tfind h (t.firstUnit + p)).isSome then h
    else tins h (t.firstUnit + p)
      { serial := t.serial, ctx := t.ctx, image := image, place := p, kept := false }) held

/-- Armed samples of the groups go with the team (R330). (DEDUCED, log 47) -/
def Team.samples (t : Team) : List KeptSample :=
  t.groups.filterMap fun g => if g.ended then none else g.sample.map fun p =>
    { core := t.core, serial := t.serial, group := g.index, ptr := p }

/-- A team leaves its core after a COMPLETE save: its units are held when the save reserved its rows,
and its records are released (R256, R264, R314). (DEDUCED, log 48) -/
def State.leaveCore (s : State) (k image : Nat) (reserved : Bool) : State :=
  let t := s.team k
  let s := s.modCore t.core fun c =>
    let c := c.freeTeam k
    { c with slips := c.slips.filter fun x => x.2.team != k
             held := if reserved then t.holdUnits image c.held else c.held }
  { s with teams := s.teams.filter fun u => u.key != k, keptSamples := s.keptSamples ++ t.samples }

/-! ### eret (R308, R345) -/

/-- An entry that was frozen by a stop goes on from its count; else the next entry begins when codes are
pending (R304, R313). (DEDUCED, log 49) -/
def State.entryAfter (s : State) (k g : Nat) (frozen : Option Nat) : State :=
  match frozen with
  | some n => s.modGroup k g fun x => { x with entry := some n }
  | none => s.nextEntry k g

/-- A `chain` that an error has stopped reads its rows again when the handler that got its record returns (R291), also
one of a group that has ended. (DEDUCED, log 38) -/
def State.retryChain (s : State) (k gi : Nat) (pc : Word) : State :=
  s.modTeam k fun t => { t with groups := t.groups.map fun x =>
    { x with chprog := x.chprog.map fun o =>
        if o.handler = some gi ∧ o.pc = pc then { o with failed := false, handler := none } else o } }

/-- The group leaves its handler; a stop's handler decides what becomes of the team. (DEDUCED, log 49) -/
def State.returnFrom (s : State) (k gi : Nat) : State :=
  let g := s.group k gi
  let f := g.frames.headD { sup := false, nested := false, lanes := [], entry := none, regs := none, enrolled := [] }
  let s := if g.trapRegs.code = codeEcc ∧ g.trapRegs.info.getLsbD 0 = true then s.retryChain k gi g.trapRegs.pc else s
  let s := s.modGroup k gi Group.leave
  match g.saved with
  | some (image, reserved) => s.leaveCore k image reserved
  | none => (if f.sup then s.stopReturns k else s).entryAfter k gi f.entry

def execEret (m : Mods) (s : State) : Host.Outcome State Fault Refusal :=
  let i : Instr := .eret m
  let k := s.curTeam
  onNext (s.run i fun s =>
    let act := s.active i
    if act = 0 then .done (s.fallThrough i) []
    else if !s.cg.inHandler then .done (s.fallThrough i) (trapLanes act codeOperand 0)
    else
      let s := s.drainFirst
      if s.cg.regsDone then .done (s.returnFrom s.curTeam s.curGroup) [] else .wait s .engine)
    fun s => s.settle k

/-! ### Stops (R313-R315) -/

/-- Sets the stop of a team and the members of its peloton. (DEDUCED, log 50) -/
def State.setStop (s : State) (t : Team) (stop : Stop) : State :=
  foldS (fun s (u : Team) => s.modTeam u.key fun x =>
    match x.stop with
    | .handler _ _ => x
    | .over => x
    | _ => { x with stop := stop, groups := x.groups.map fun g => { g with stopped := false } }) s (s.members t)

/-- No group of a team issues any more under its fine stop. -/
def Team.fineStopped (t : Team) : Bool :=
  !t.isHalted && t.groups.all fun g => g.ended || !(g.inSup || g.midWord)

/-- Every group has stopped at a `bar` (R315). -/
def Team.barStopped (t : Team) : Bool := !t.isHalted && t.groups.all fun g => g.ended || g.atBar

/-- A team has stopped as its request asks, or is in the handler of its stop already. (DEDUCED, log 50) -/
def Team.hasStopped (t : Team) : Bool :=
  match t.stop with
  | .none => false
  | .fine _ => t.fineStopped
  | .slice _ => t.barStopped
  | .handler _ _ => true
  | .over => true

/-- Every member has stopped. -/
def State.allStopped (s : State) (t : Team) : Bool := (s.members t).all Team.hasStopped

/-- An OPEN entry without a timer that still waits for a slot (R229). -/
def Landing.toForce (x : Landing) : Bool := !x.complete && x.timer.isNone && x.status.any fun q => q == 0

/-- Every ferry of a team has been answered, and every land of it delivered (R229). -/
def State.ferriesAnswered (s : State) (k : Nat) : Bool :=
  !(s.lands.any fun l => l.team == k) &&
    (s.core (s.team k).core).landing.all fun e => e.2.team != k || e.2.complete || e.2.answered.all fun b => b

/-- Steps 2 and 3 of R313 have been done: queues, results, engines, ferries, lands, slips. The `chain` of a group that
has ended has run to its end, for an image holds no section of the group. (DEDUCED, log 50) -/
def State.stopSettled (s : State) (k : Nat) : Bool :=
  let t := s.team k
  t.groups.all (fun g => (g.ended || (g.queue.all (fun q => match q with | .entry _ => false | _ => true) &&
    g.regsDone)) && (match g.chprog with
      | none => true
      | some o => match o.kind with | .chain => !g.ended || o.failed | _ => false)) &&
    (s.members t).all (fun u =>
      !(s.net.any fun p => p.team == u.key) && !(s.copies.any fun o => o.team == u.key)) &&
    !(s.mmaxs.any fun o => o.team == k) && !(s.lands.any fun l => l.team == k) &&
    !(s.rowsInFlight.any fun r => r.team == k) && !(s.rowWrites.any fun w => w.loc.team == k) &&
    !(s.pilotNet.any fun q => q.team == k) && !(s.faults.any fun x => x.1 == k) &&
    (s.core t.core).landing.all fun e => e.2.team != k || e.2.complete ||
      (e.2.timer.isSome && (e.2.answered.all fun b => b) &&
        (List.range e.2.par.rows).all fun i => !e.2.rowFinal i || e.2.written.getD i true)

/-- Something that a stop does before the team can be saved: its queues drain, and entries without a
timer are forced; none when there is nothing left to begin. (DEDUCED, log 50) -/
def State.stopWork (s : State) (k : Nat) : Option State :=
  let t := s.team k
  let full := t.groupsWhere fun g => !g.ended && g.entries != 0
  if !full.isEmpty then some (foldS (fun s i => s.drain k i) s full)
  else
    match (s.core t.core).landing.find? fun e => e.2.team == k && e.2.toForce && s.ferriesAnswered k with
    | some e => some ((s.modLanding t.core e.1 fun x => x.force 6).advanceEntry t.core e.1)
    | none => none

/-- The trap registers of a stop's entry (R314). -/
def Group.stopRegs (g : Group) (code : Nat) : TrapRegs :=
  { TrapRegs.zero with code := code, act := g.lanesIn fun st => st.isReady || st.isParked }

/-- A group enters the supervisor handler of a stop. (DEDUCED, log 49) -/
def Group.enterStop (g : Group) (code : Nat) (v : Word) : Group :=
  let g := g.stopHere
  { g with
    frames := { sup := true, nested := false, lanes := g.lanes, entry := g.entry,
                regs := if g.frames.isEmpty then none else some g.trapRegs, enrolled := [] } :: g.frames
    lanes := g.lanes.map fun x => { x with pc := v, st := .ready, mid := none, age := 0 }
    trapRegs := g.stopRegs code, entry := none, stopped := false, saved := none, entering := false, latch := [] }

/-- Every group of a team stands where it stopped (R96, R313). -/
def Team.stopGroups (t : Team) : Team :=
  { t with groups := t.groups.map fun g => if g.ended then g else g.stopHere }

/-- The lowest-indexed group not ended enters the handler of the stop (R314); a vector that cannot be
fetched halts the team (log 20). -/
def State.enterStop (s : State) (k code : Nat) (live : Bool) : State :=
  let t := s.team k
  let g := ((t.groupsWhere fun g => !g.ended).head?).getD 0
  let s := s.modTeam k fun t => (({ t with stop := .handler code live } : Team).stopGroups).holdChains true
  match s.vector t true code with
  | none => s.haltNested k g code 0 0 0
  | some v => (s.modGroup k g fun x => x.enterStop code v).traceTrap k g code 0

/-- The step of a stop whose groups have stopped: what is still to begin, or the entry. -/
def State.stopStep (s : State) (k code : Nat) (live : Bool) : Host.Outcome State Fault Refusal :=
  if (s.team k).live ≠ 0 ∧ s.allStopped (s.team k) = true then
    match s.stopWork k with
    | some s' => .next s'
    | none => if s.stopSettled k then .next (s.enterStop k code live) else .fault .notEnabled
  else .fault .notEnabled

/-- FINE_PREEMPTION_REQUEST (R313, R20). -/
def execFinePreemptionRequest (t : Nat) (s : State) : Host.Outcome State Fault Refusal :=
  match s.team? t with
  | none => .fault .notEnabled
  | some u =>
    match u.stop with
    | .none => .next (s.setStop u (.fine false))
    | _ => .fault .notEnabled

/-- PREEMPT_ENTRY (R314): after a fine stop; one that a slice end fell back to enters with SLICE_END. -/
def execPreemptEntry (t : Nat) (s : State) : Host.Outcome State Fault Refusal :=
  match s.team? t with
  | none => .fault .notEnabled
  | some u =>
    match u.stop with
    | .fine false => s.stopStep t codePreempt false
    | .fine true => s.stopStep t codeSliceEnd false
    | _ => .fault .notEnabled

/-- SLICE_END_ENTRY (R315): every group has stopped at a `bar`. -/
def execSliceEndEntry (t : Nat) (s : State) : Host.Outcome State Fault Refusal :=
  match s.team? t with
  | none => .fault .notEnabled
  | some u =>
    match u.stop with
    | .slice _ => s.stopStep t codeSliceEnd true
    | _ => .fault .notEnabled

/-- SLICE_END_FALLBACK (R315): some group has not stopped within the limit. -/
def execSliceEndFallback (t : Nat) (s : State) : Host.Outcome State Fault Refusal :=
  match s.team? t with
  | none => .fault .notEnabled
  | some u =>
    match u.stop with
    | .slice 0 =>
      if u.isHalted || s.allStopped u then .fault .notEnabled else .next (s.setStop u (.fine true))
    | _ => .fault .notEnabled

/-! ### The host debug interface (R324, R386) -/

/-- The resident team that the Debug capability's words name. -/
def State.debugTeam (s : State) (fn : Nat) (z : BitVec 16) : Option Team :=
  let f := s.func fn
  s.teams.find? fun t => !t.departed && t.ctx == f.dbgCtx.toNat && t.x == f.dbgXY.toNat % 65536 &&
    t.y == f.dbgXY.toNat / 65536 && t.z == z.toNat

/-- The Debug capability's commands; one that names no resident team is ignored. (DEDUCED, log 41) -/
def State.debugHalt (s : State) (fn : Nat) (z : BitVec 16) : State :=
  match if fn = 0 then s.debugTeam fn z else none with
  | none => s
  | some t => s.haltTeam t.key

def State.debugResume (s : State) (fn : Nat) (z : BitVec 16) : State :=
  match if fn = 0 then s.debugTeam fn z else none with
  | none => s
  | some t => s.resumeTeam t.key

/-- DEBUG_HALT: every group of the named team halts. -/
def execDebugHalt (fn : Nat) (z : BitVec 16) (s : State) : Host.Outcome State Fault Refusal :=
  .next (s.debugHalt fn z)

/-- DEBUG_RESUME: as `resumet` (R350). -/
def execDebugResume (fn : Nat) (z : BitVec 16) (s : State) : Host.Outcome State Fault Refusal :=
  .next (s.debugResume fn z)

end Sys2Proof.Machine
end

