-- ==== Sys2Proof/Machine/Paging.lean ====
section
/-! DEFINITION. Answers to service requests, delivery of imprecise records, page migration and shootdowns
(R153-R155, R310, R311, R382). -/

namespace Sys2Proof.Machine

/-! ### Answers to service requests (R310, R382) -/

/-- What an answer makes of a lane that waits for it: READY, or a precise trap pending. (DEDUCED, log 15) -/
def Lane.answered (pos : Nat) (retry : Bool) (x : Lane) : Lane :=
  match x.st with
  | .parked (.service q p) =>
    if q = pos then { x with st := if retry then .ready else .parked (.trapped p) } else x
  | _ => x

/-- A lane that waits for an answer. -/
def Lane.awaits (pos : Nat) (x : Lane) : Bool :=
  match x.st with | .parked (.service q _) => q == pos | _ => false

/-- The lanes of a group as they stand, and those its handlers will return to (R308). -/
def Group.answered (pos : Nat) (retry : Bool) (g : Group) : Group :=
  let hit := g.lanes.any (Lane.awaits pos)
  { g with
    lanes := g.lanes.map (Lane.answered pos retry)
    frames := g.frames.map fun f => { f with lanes := f.lanes.map (Lane.answered pos retry) }
    entry := if hit && !retry then some (g.entry.getD 0) else g.entry }

/-- The request an answer names by the low 31 bits of its ring position. -/
def Func.request? (f : Func) (pos : Nat) : Option (Nat × Nat × Nat × Nat) :=
  f.requests.find? fun r => r.1 % 2 ^ 31 == pos % 2 ^ 31

/-- FAIL for a lane of a supervisor handler: its trap enters no handler, the lane stays READY at its word and
the team halts (R307). (DEDUCED, log 55) -/
def State.failNested (s : State) (k g pos : Nat) : State :=
  let x := s.group k g
  match x.lanes.findIdx? (Lane.awaits pos) with
  | none => s
  | some l =>
    match (x.lane l).st with
    | .parked (.service _ p) =>
      (s.modGroup k g fun y => y.modLane l fun z => { z with st := .ready }).haltNested k g p.code l p.pc p.addr
    | _ => s

/-- Answers a request; an answer that names none is ignored. -/
def State.answerService (s : State) (fn pos : Nat) (retry : Bool) : State :=
  match (s.func fn).request? pos with
  | none => s
  | some r =>
    let s := s.modFunc fn fun f => { f with requests := f.requests.erase r }
    let x := s.group r.2.1 r.2.2.1
    if !retry && x.inSup && x.lanes.any (Lane.awaits r.1) then s.failNested r.2.1 r.2.2.1 r.1
    else s.modGroup r.2.1 r.2.2.1 (Group.answered r.1 retry)

/-- SVCANS_RETRY: the lane repeats its word from translation on. -/
def execSvcansRetry (fn pos : Nat) (s : State) : Host.Outcome State Fault Refusal :=
  .next (s.answerService fn pos true)

/-- SVCANS_FAIL: the lane's PAGE_NOT_PRESENT is pending for the supervisor. -/
def execSvcansFail (fn pos : Nat) (s : State) : Host.Outcome State Fault Refusal :=
  .next (s.answerService fn pos false)

/-! ### Imprecise records (R311) -/

/-- Delivers a record: to its team while that is resident, has not ended and holds fewer than 16, else to the fault
queue. (DEDUCED, log 55) -/
def State.deliver (s : State) (x : Nat × Nat × FaultRec) : State :=
  match (s.team? x.1).filter fun t => !t.departed with
  | none => (s.faultQueue (x.2.1 - 1) { x.2.2 with flags := x.2.2.flags ||| flagExited }).1
  | some t =>
    if t.records.length < 16 then
      s.modTeam x.1 fun t => { t with records := t.records ++ [x.2.2] : Team }.startEntries
    else (s.faultQueue (x.2.1 - 1) { x.2.2 with flags := x.2.2.flags ||| flagDiverted }).1

/-- FAULT_RECORD_DELIVERY: the records of one team arrive in the order in which they were raised. -/
def execFaultRecordDelivery (i : Nat) (s : State) : Host.Outcome State Fault Refusal :=
  match s.faults[i]? with
  | none => .fault .notEnabled
  | some x =>
    if (s.faults.take i).any fun y => y.1 == x.1 then .fault .notEnabled
    else .next (({ s with faults := s.faults.eraseIdx i }).deliver x)

/-! ### Page migration (R155) -/

/-- Fields of a table entry as the migration engine writes them. (DEDUCED, log 56) -/
def entSet (e bit : Nat) (on : Bool) : Nat := if e.testBit bit == on then e else if on then e + 2 ^ bit else e - 2 ^ bit

/-- The level 3 entry of a virtual page: its physical address and its value. (DEDUCED, log 56) -/
def State.leaf (s : State) (f : Func) (va : Nat) : Option (Nat × Nat) := do
  let e1 ← s.tableEntry f (f.ptbase.toNat / 2 ^ 16 % 2 ^ 36 * 2 ^ 16 + 8 * (va / 2 ^ 40 % 4096))
  if !(entV e1 && entT e1 && entRes0 e1) then none
  else
    let e2 ← s.tableEntry f (entAddr e1 + 8 * (va / 2 ^ 28 % 4096))
    if !(entV e2 && entT e2 && entRes0 e2) then none
    else
      let pa ← stageTwo f (entAddr e2 + 8 * (va / 2 ^ 16 % 4096))
      some (pa, leNat (s.hbmBytes pa 8))

/-- Writes a table entry. -/
def State.putEntry (s : State) (pa e : Nat) : State := s.hbmPuts pa (leBytes 8 e)

/-- The place of a page in the capacity tier. -/
def capKey (ctx va : Nat) : Nat := ctx * 2 ^ 36 + va / pageSize % 2 ^ 36

/-- The sweep in progress for a page, or of a host shootdown. -/
def State.sweepOf (s : State) (ctx : Nat) (page : Option Nat) : Option Sweep :=
  s.sweeps.find? fun x => x.ctx == ctx && x.page == page

/-- Sweeps a context (R153) and notes the operations that R154 waits for. (DEDUCED, log 42, 56) -/
def State.beginSweep (s : State) (ctx : Nat) (page : Option Nat) : State :=
  let s := s.sweep ctx
  { s with sweeps := s.sweeps ++ [{ ctx := ctx, page := page, since := s.fresh }] }

def State.endSweep (s : State) (ctx : Nat) (page : Option Nat) : State :=
  { s with sweeps := s.sweeps.filter fun x => !(x.ctx == ctx && x.page == page) }

/-- A page of main memory with its tags. (DEDUCED, log 56) -/
def State.takePage (s : State) (pa : Nat) : CapPage :=
  { mem := ((List.range pageSize).map fun i => s.hbmByte (pa + i)).zipIdx.filterMap fun x =>
      if x.1 = 0 then none else some (x.2, x.1)
    tags := (List.range 2048).filterMap fun i =>
      let t := s.hbmTag (pa / 32 + i)
      if t = 0 then none else some (i, t) }

/-- Fills a page of main memory: bytes that the page does not list are 0. (DEDUCED, log 56) -/
def State.fillPage (s : State) (pa : Nat) (p : CapPage) : State :=
  let s := { s with hbm := s.hbm.clear pa pageSize
                    hbmTags := s.hbmTags.filter fun x => x.1 / 2048 != pa / pageSize
                    scrub := s.scrub.filter fun u => u != pa / pageSize }
  let s := p.mem.foldl (fun s c => s.hbmPut (pa + c.1) c.2) s
  p.tags.foldl (fun s c => s.hbmPutTag (pa / 32 + c.1) c.2) s

/-- PAGE_MIGRATION_OUT, in two steps: MIG is set and the context swept; then, when the older operations
are complete, the page goes to the capacity tier, and its entry is written with V = 0 and swept. -/
def execPageMigrationOut (ctx : Nat) (va : BitVec 52) (s : State) : Host.Outcome State Fault Refusal :=
  let f := s.ctxFunc ctx
  let page := some (va.toNat / pageSize)
  match s.leaf f va.toNat with
  | none => .fault .notEnabled
  | some (pa, e) =>
    match s.sweepOf ctx page with
    | none =>
      if entV e && entT e && entRes0 e && !entMig e then
        .next ((s.putEntry pa (entSet e 7 true)).beginSweep ctx page)
      else .fault .notEnabled
    | some w =>
      if s.oldCopies ctx w.since then .fault .notEnabled
      else
        match stageTwo f (entAddr e) with
        | none => .fault .notEnabled
        | some p =>
          let s := { s with capacity := tins s.capacity (capKey ctx va.toNat) (s.takePage p) }
          .next (((s.putEntry pa (entSet (entSet e 0 false) 7 false)).endSweep ctx page).sweep ctx)

/-- PAGE_MIGRATION_IN, in two steps: MIG is set in the invalid entry; then the page is written at the
intermediate address, and the valid entry with MIG = 0 is written and swept. -/
def execPageMigrationIn (ctx : Nat) (va ia : BitVec 52) (s : State) : Host.Outcome State Fault Refusal :=
  let f := s.ctxFunc ctx
  match s.leaf f va.toNat, tfind s.capacity (capKey ctx va.toNat), stageTwo f ia.toNat with
  | some (pa, e), some page, some p =>
    if entV e || ia.toNat % pageSize ≠ 0 then .fault .notEnabled
    else if !entMig e then .next (s.putEntry pa (entSet e 7 true))
    else
      let s := (s.fillPage p page)
      let s := { s with capacity := tdel s.capacity (capKey ctx va.toNat) }
      let e' := e % 2 ^ 16 + ia.toNat / 2 ^ 16 * 2 ^ 16
      .next ((s.putEntry pa (entSet (entSet (entSet e' 0 true) 1 true) 7 false)).sweep ctx)
  | _, _, _ => .fault .notEnabled

/-- HOST_SHOOTDOWN, in two steps: the sweep; then its acknowledgement, once older operations have
completed (R154). -/
def execHostShootdown (ctx : Nat) (s : State) : Host.Outcome State Fault Refusal :=
  match s.sweepOf ctx none with
  | none => .next (s.beginSweep ctx none)
  | some w => if s.oldCopies ctx w.since then .fault .notEnabled else .next (s.endSweep ctx none)

end Sys2Proof.Machine
end

