-- ==== Sys2Proof/Machine/Dispatcher.lean ====
section
/-! DEFINITION. The grid dispatcher and the placers: refusals (R15), order (R364, R365), placement (R16, R18,
R264, R366, R367) and slice-end requests (R369, R370). -/

namespace Sys2Proof.Machine

/-! ### What one team needs (R16) -/

/-- Scratchpad bytes of a group. -/
def groupPad (spill quantum : Nat) : Nat := 32 * (spill + 256) + 768 * quantum

def LaunchRec.regBytes (r : LaunchRec) : Nat := (r.used.map fun x => 128 * x.1 * x.2).sum
def LaunchRec.padBytes (r : LaunchRec) : Nat := round4k r.tm + r.groups * groupPad r.spill r.quantum

/-- Teams of a record that an empty core holds. -/
def LaunchRec.perCore (r : LaunchRec) : Nat :=
  min (min 16 (64 / r.groups)) (min (524288 / r.regBytes)
    (min (1572864 / r.padBytes) (if r.rows = 0 then 16 else 24576 / r.rows)))

/-- Register bytes a resident team holds: a group's are released at its end (R16, R23). -/
def Team.regBytes (t : Team) : Nat := ((t.groups.filter fun g => !g.ended).map fun g => 128 * g.budget).sum
def Team.padBytes (t : Team) : Nat := t.tmSize + t.groups.length * groupPad t.spill t.quantum

def State.onCore (s : State) (c : Nat) : List Team := s.teams.filter fun t => t.core == c

/-- Group slots in use on a core. -/
def State.slotsUsed (s : State) (c : Nat) : Nat := ((s.onCore c).map Team.live).sum

/-- Every total of R16 holds with the team added. -/
def State.totalsFit (s : State) (c : Nat) (r : LaunchRec) : Bool :=
  let ts := s.onCore c
  decide ((ts.filter fun t => !t.departed).length + 1 ≤ 16) && decide (s.slotsUsed c + r.groups ≤ 64) &&
    decide ((ts.map Team.regBytes).sum + r.regBytes ≤ 524288) &&
    decide ((ts.map Team.padBytes).sum + r.padBytes ≤ 1572864) &&
    decide ((ts.map fun t => t.rows).sum + r.rows ≤ 24576)

/-! ### Accumulator units (R264) -/

/-- A unit belongs to a resident team. -/
def State.unitTaken (s : State) (c u : Nat) : Bool := (s.onCore c).any fun t => t.hasUnit u

/-- The lowest run of units that all satisfy a condition. -/
def unitRun (n : Nat) (ok : Nat → Bool) : Option Nat :=
  (List.range (769 - n)).find? fun u => (List.range n).all fun i => ok (u + i)

/-- The units held for the team of a RESUME record whose image was written on this core and has an
accumulator section of LENGTH 0 (R264). (DEDUCED, log 48) -/
def State.unitsOf (s : State) (c ctx : Nat) (r : LaunchRec) : Table HeldUnit :=
  if !r.resume then []
  else
    match s.readImage ctx (bufBase r.arg) with
    | none => []
    | some (h, l) =>
      if fieldLe h 0x16 2 = c ∧ (ofType l 3).all (fun y => y.bytes.isEmpty) = true then
        (s.core c).held.filter fun x => x.2.isFor (BitVec.ofNat 32 (descField l 0x28 4)) ctx
      else []

/-- The first unit that placement assigns: rule 1 for a resumed team whose units are all held for it, else
rules 2 to 4; none when the team waits. (DEDUCED, log 54) -/
def State.unitsFor (s : State) (c ctx : Nat) (r : LaunchRec) : Option Nat :=
  let core := s.core c
  let n := r.rows / 32
  let free (u : Nat) : Bool := (tfind core.held u).isNone && !s.unitTaken c u
  let loose (u : Nat) : Bool :=
    !s.unitTaken c u && (match tfind core.held u with
      | none => true
      | some h => some h.ctx == core.owner && !h.kept)
  let run := (unitRun n free).orElse fun _ => if core.owner == some ctx then none else unitRun n loose
  let own := s.unitsOf c ctx r
  match own with
  | [] => run
  | x :: _ =>
    if own.length ≠ n then run
    else if own.any fun y => s.unitTaken c y.1 then none
    else some (x.1 - x.2.place)

/-- Placement of a resumed team waits until the numbers of its berth records are free (R256). -/
def State.berthsFree (s : State) (c ctx : Nat) (r : LaunchRec) : Bool :=
  if !r.resume then true
  else
    match s.readImage ctx (bufBase r.arg) with
    | none => true
    | some (_, l) => (ofType l 4).all fun y =>
        (List.range (y.bytes.length / 48)).all fun i =>
          (tfind (s.core c).berths (fieldLe y.bytes (48 * i) 1)).isNone

/-- A team of a record fits on a core. (DEDUCED, log 54) -/
def State.fits (s : State) (c ctx : Nat) (r : LaunchRec) : Bool :=
  s.totalsFit c r && (s.unitsFor c ctx r).isSome && s.berthsFree c ctx r

/-! ### The choice of a core (R366) -/

/-- Cluster and core number of the record's core field (R14). -/
def LaunchRec.cluster (r : LaunchRec) : Nat := r.core.toNat / 128
def LaunchRec.coreNo (r : LaunchRec) : Nat := r.core.toNat % 128

/-- A cluster is open to a context and in use (R366, R385, R391). -/
def State.openCluster (s : State) (ctx cl : Nat) : Bool :=
  decide (cl < 16) && (s.ctxFunc ctx).clusters.getLsbD cl && s.boot.clusters.getLsbD cl

/-- The entry with the least number that has the best score, none for an empty list. -/
def bestBy {α : Type} (better : α → α → Bool) (l : List α) : Option α :=
  l.foldl (fun acc x => match acc with
    | none => some x
    | some y => if better x y then some x else some y) none

/-- Core for the team of a linear index, none when it fits nowhere. (DEDUCED, log 54) -/
def State.chooseCore (s : State) (ctx : Nat) (r : LaunchRec) (i : Nat) : Option Nat :=
  if r.pin || r.resume then
    let c := r.cluster * 128 + r.coreNo + i
    if s.fits c ctx r then some c else none
  else
    let fitting (cl : Nat) : List Nat := ((List.range 96).map fun c => cl * 128 + c).filter fun c => s.fits c ctx r
    let clusters := ((List.range 16).filter fun cl => s.openCluster ctx cl).map fun cl =>
      let l := fitting cl
      (l, (l.map fun c => 64 - s.slotsUsed c).sum)
    let best := bestBy (fun a b => decide (b.2 < a.2)) (clusters.filter fun x => !x.1.isEmpty)
    best.bind fun x => bestBy (fun a b => decide (s.slotsUsed a < s.slotsUsed b)) x.1

/-! ### Placement (R14, R18, R141, R217, R367) -/

/-- Role and budget of each group: groups take roles in ascending index, in role order (R62). (DEDUCED, log 54) -/
def LaunchRec.roleList (r : LaunchRec) : List (Nat × Nat) :=
  r.used.zipIdx.flatMap fun x => List.replicate x.1.2 (x.2, x.1.1)

/-- Groups under placement: slots and ports in use, the generations, the port tried first. -/
structure PlaceAcc where
  groups : List Group
  used : List (Nat × Nat)
  gens : Table Nat
  nextPort : Nat

/-- The port with the fewest groups; the first from `next` on a tie (R18). (DEDUCED, log 54) -/
def pickPort (next : Nat) (used : List (Nat × Nat)) : Nat :=
  let load (p : Nat) : Nat := used.countP fun x => x.2 == p
  (bestBy (fun a b => decide (load a < load b)) ((List.range 4).map fun i => (next + i) % 4)).getD 0

/-- Places one group: the lowest free slot with its next generation, and its port. (DEDUCED, log 54) -/
def PlaceAcc.add (a : PlaceAcc) (r : LaunchRec) (role budget : Nat) : PlaceAcc :=
  let slot := ((List.range 64).find? fun n => !a.used.any fun x => x.1 == n).getD 0
  let gen := (tget 0 a.gens slot + 1) % 2 ^ 26
  let port := pickPort a.nextPort a.used
  let g := Group.placed a.groups.length role slot gen port budget r.kernel r.spill
  let g := { g with s := tput 0 (tput 0 [] 8 (half false r.arg)) 9 (half true r.arg) }
  { groups := a.groups ++ [g], used := (slot, port) :: a.used, gens := tins a.gens slot gen,
    nextPort := (port + 1) % 4 }

/-- The serial a resumed team keeps on the core that its image records (R217). (DEDUCED, log 47) -/
def State.keptSerial (s : State) (c ctx : Nat) (r : LaunchRec) : Option Word :=
  if !r.resume then none
  else (s.readImage ctx (bufBase r.arg)).bind fun x =>
    if fieldLe x.1 0x16 2 = c then some (BitVec.ofNat 32 (descField x.2 0x28 4)) else none

/-- The rows of a placed team's free units become +0.0 (R251). -/
def Core.clearUnits (c : Core) (first n : Nat) : Core :=
  { c with acc := c.acc.filter fun x =>
      !(decide (first ≤ x.1 / 1024) && decide (x.1 / 1024 < first + n) && (tfind c.held (x.1 / 1024)).isNone) }

/-- A RESUME team starts in its supervisor handler at PREEMPT with its image named (R367). -/
def State.startResume (s : State) (k ctx : Nat) (r : LaunchRec) : State :=
  let buf := BitVec.ofNat 64 (r.imgSize * 2 ^ 52 + bufBase r.arg)
  ((s.modCtx ctx fun f => { f with ctxbuf := buf }).enterStop k codePreempt false).modGroup k 0 fun g =>
    { g with trapRegs := { g.trapRegs with act := 0 } }

/-- Places the team of a linear index on a core. (DEDUCED, log 54) -/
def State.placeTeam (s : State) (g : Grid) (i c : Nat) : State :=
  let r := g.record
  let core := s.core c
  let first := (s.unitsFor c g.ctx r).getD 0
  let n := r.rows / 32
  let used := (s.onCore c).flatMap fun t => (t.groups.filter fun x => !x.ended).map fun x => (x.slot, x.port)
  let a := r.roleList.foldl (fun a x => a.add r x.1 x.2)
    { groups := [], used := used, gens := core.gens, nextPort := core.nextPort : PlaceAcc }
  let kept := s.keptSerial c g.ctx r
  let mixed := (List.range n).any fun u => (tfind core.held (first + u)).isSome
  let k := s.fresh
  let f := s.ctxFunc g.ctx
  let t : Team :=
    { Team.blank with
      key := k, ctx := g.ctx, core := c, serial := kept.getD (BitVec.ofNat 32 core.serial), grid := g.serial
      ownGrid := g.serial, newSerial := kept.isNone, linear := i, x := i % r.gx, y := i / r.gx % r.gy, z := i / (r.gx * r.gy)
      gx := r.gx, gy := r.gy, gz := r.gz, kernel := r.kernel, peloton := r.peloton, tmSize := round4k r.tm
      spill := r.spill, quantum := r.quantum, rows := r.rows, firstUnit := first
      clearMark := mixed && !r.resume, tmchk := r.tmchk, mode := BitVec.ofNat 2 f.memmode.toNat
      groups := a.groups, resumeCw := if r.resume then some r.cw else none, placed := k }
  let s := s.next.modCore c fun x =>
    let x := (if kept.isSome then x else x.takeSerial).clearUnits first n
    { x with gens := a.gens, nextPort := a.nextPort, icache := [] }
  let s := { s with teams := s.teams ++ [t] }
  let s := s.modGrid g.serial fun x =>
    { x with placed := x.placed + 1, left := true
             replay := x.replay.orElse fun _ => some (f.memmode.getLsbD 2) }
  let s := s.trace t { type := 2, bit := 2, group := 0xFF, barrier := 0xFF, code := 0, phase := 0, pc := 0,
                       grpslot := 0 }
  if r.resume then s.startResume k g.ctx r else s

/-- Places the next team of a grid; none when it fits nowhere. -/
def State.placeNext (s : State) (g : Grid) (i : Nat) : Option State :=
  (s.chooseCore g.ctx g.record i).map fun c => s.placeTeam g i c

/-- Places every team of a peloton, or none of them (R20, R366). -/
def State.placeFrom (s : State) (g : Grid) (i n : Nat) : Option State :=
  match n with
  | 0 => some s
  | n + 1 => (s.placeNext g i).bind fun s => State.placeFrom s g (i + 1) n

/-- Places what one dispatcher cycle places of a grid. -/
def State.placeGrid (s : State) (g : Grid) : Option State :=
  if g.record.peloton then s.placeFrom g g.placed (g.record.teams - g.placed) else s.placeNext g g.placed

/-! ### Refusals (R15, R16, R20, R360, R364, R366, R367) -/

/-- A field outside R15, or a reserved one that is not 0. (DEDUCED, log 53) -/
def LaunchRec.outside (r : LaunchRec) : Bool :=
  !(decide (1 ≤ r.groups) && decide (r.groups ≤ 32) && decide (1 ≤ r.roles) && decide (r.roles ≤ 4) &&
    r.used.all (fun x => decide (8 ≤ x.1) && decide (x.1 ≤ 128) && x.1 % 8 == 0) &&
    (r.shape.drop r.roles).all (fun x => x.1 == 0 && x.2 == 0) && (r.used.map (·.2)).sum == r.groups &&
    decide (r.tm ≤ 1310720) && decide (r.rows ≤ 24576) && r.rows % 32 == 0 && decide (r.spill ≤ 16384) &&
    r.spill % 64 == 0 && decide (16 ≤ r.quantum) && decide (r.quantum ≤ 256) && decide (1 ≤ r.gx) &&
    decide (1 ≤ r.gy) && decide (1 ≤ r.gz) && r.flags.toNat / 64 == 0 &&
    (r.pin || r.resume || r.core == 0) && decide (r.core.toNat < 2048) && (r.resume || r.imgSize == 0) &&
    r.cw.toNat % 8 == 0 && r.waits.all (fun w => w.1.toNat % 8 == 0))

/-- A record whose named core is not open to its context, or of the wrong shape for RESUME or PIN.
(DEDUCED, log 53) -/
def State.badTarget (s : State) (ctx : Nat) (r : LaunchRec) : Bool :=
  (r.pin && r.resume) ||
    ((r.pin || r.resume) && (!s.openCluster ctx r.cluster || decide (95 < r.coreNo + (r.teams - 1)))) ||
    (r.resume && (r.teams != 1 || r.imgSize == 0 || decide (4095 < r.imgSize)))

/-- Teams of the record never fit (R16, R20). (DEDUCED, log 53) -/
def State.tooLarge (s : State) (ctx : Nat) (r : LaunchRec) : Bool :=
  let opened := ((List.range 16).filter fun cl => s.openCluster ctx cl).length
  r.perCore == 0 || opened == 0 || (r.peloton && !r.pin && decide (r.perCore * 96 * opened < r.teams))

/-- What a record's wait words say: a failing pointer, or whether each has reached its value (R364).
(DEDUCED, log 53) -/
def State.waitState (s : State) (ctx : Nat) (r : LaunchRec) : Option Bool :=
  r.waits.foldl (fun (acc : Option Bool) (w : DWord × DWord) =>
    if w.1 = 0 then acc
    else
      acc.bind fun ok =>
        match s.ptrWalk ctx w.1.toNat .rd with
        | .page p =>
          some (ok && decide (w.2.toNat ≤ leNat (s.hbmBytes (p.ppage * pageSize + w.1.toNat % pageSize) 8)))
        | .mig => some false
        | .trap _ => none) (some true)

/-- The completion word's pointer fails translation at dispatch (R360). (DEDUCED, log 53) -/
def State.badSignal (s : State) (ctx : Nat) (r : LaunchRec) : Bool :=
  r.cw != 0 && (match s.ptrWalk ctx r.cw.toNat .wr with | .trap _ => true | _ => false)

/-- The dispatcher refuses the record at a queue's head. (DEDUCED, log 53) -/
def State.refusable (s : State) (g : Grid) : Bool :=
  let r := g.record
  r.outside || s.badTarget g.ctx r || s.tooLarge g.ctx r ||
    (match s.waitState g.ctx r with
     | none => true
     | some ok => ok && s.badSignal g.ctx r)

/-- The grid is eligible (R364). -/
def State.eligible (s : State) (g : Grid) : Bool := s.waitState g.ctx g.record == some true

/-- The grids at the heads of the queues. -/
def State.heads (s : State) : List Grid :=
  s.grids.filter fun g => !g.left && !(s.grids.any fun h =>
    !h.left && h.ctx == g.ctx && h.queue == g.queue && decide (h.serial < g.serial))

/-- A refused record leaves its queue; the first one is latched (R15, R363). (DEDUCED, log 53) -/
def State.refuseGrid (s : State) (g : Grid) : State :=
  ({ s with grids := s.grids.filter fun x => x.serial != g.serial }).modCtx g.ctx fun f =>
    { f with refused := true, refusedSeq := if f.refused then f.refusedSeq else g.record.seq }

/-! ### Order (R365, R369, R375) -/

def Func.critical (f : Func) : Bool := f.flags.getLsbD 2

/-- Some core open to a context holds no resident team. -/
def State.idleCore (s : State) (ctx : Nat) : Bool :=
  (List.range 16).any fun cl => s.openCluster ctx cl &&
    (List.range 96).any fun c => !(s.teams.any fun t => t.core == cl * 128 + c && !t.departed)

/-- A tenant may borrow, and is over budget (R369); tenant 0 never is (R368). (DEDUCED, log 51) -/
def State.mayBorrow (s : State) (ctx : Nat) : Bool :=
  let f := s.ctxFunc ctx
  decide (f.debt < f.borrowLimit) && s.idleCore ctx
def State.overBudget (s : State) (ctx : Nat) : Bool :=
  decide (1 < ctx) && (s.ctxFunc ctx).balance == 0 && !s.mayBorrow ctx

/-- A tenant of the first class of the order: it has a balance, or needs none. (DEDUCED, log 51) -/
def State.positive (s : State) (ctx : Nat) : Bool := decide (ctx ≤ 1) || decide (0 < (s.ctxFunc ctx).balance)

/-- Effective priority (R365). -/
def Grid.priority (g : Grid) : Nat := min 3 (g.record.priority + g.waited / 8)

/-- The dispatcher's order: balance, priority, the cycle of entry, then context and queue (R365). -/
def State.before? (s : State) (a b : Grid) : Bool :=
  let pa := s.positive a.ctx
  let pb := s.positive b.ctx
  if pa != pb then pa
  else if a.priority ≠ b.priority then decide (b.priority < a.priority)
  else if a.entered ≠ b.entered then decide (a.entered < b.entered)
  else if a.ctx ≠ b.ctx then decide (a.ctx < b.ctx)
  else if a.queue ≠ b.queue then decide (a.queue < b.queue)
  else decide (a.serial < b.serial)

def insertGrid (s : State) (g : Grid) (l : List Grid) : List Grid :=
  match l with
  | [] => [g]
  | x :: r => if s.before? g x then g :: x :: r else x :: insertGrid s g r

/-- A grid that has left its head with teams still to place. -/
def Grid.inProgress (g : Grid) : Bool := g.left && decide (g.placed < g.record.teams)

/-- The grids from which a team may be placed, in order: eligible heads that nothing refuses, behind no unfinished grid of
their queue, and unfinished grids; none of a tenant over budget, nor a best-effort one at the cap.
(DEDUCED, log 52) -/
def State.candidates (s : State) : List Grid :=
  let heads := s.heads.filter fun g => !s.refusable g && s.eligible g && !(s.grids.any fun h =>
    h.inProgress && h.ctx == g.ctx && h.queue == g.queue)
  let all := heads ++ s.grids.filter Grid.inProgress
  let all := all.filter fun g =>
    !s.overBudget g.ctx && !(s.disp.capReached && !(s.ctxFunc g.ctx).critical)
  all.foldl (fun l g => insertGrid s g l) []

/-- The first grid in the order whose next team fits; a peloton at the front keeps the others waiting. -/
def State.placeFirst (s : State) (l : List Grid) (front : Bool) : Option State :=
  match l with
  | [] => none
  | g :: r =>
    match s.placeGrid g with
    | some s' => some s'
    | none => if front && g.record.peloton then none else State.placeFirst s r false

/-! ### Slice-end requests (R370) -/

/-- The team to stop for a waiting grid: the most recently placed one of a tenant over budget on a core
where the grid's next team would then fit. (DEDUCED, log 52) -/
def State.victim (s : State) (g : Grid) (skip : Option Nat) : Option Team :=
  let fitsThen (t : Team) : Bool :=
    let gone := (s.members t).map Team.key
    let s' := { s with teams := s.teams.filter fun u => !gone.contains u.key }
    if g.record.pin || g.record.resume then
      t.core == g.record.cluster * 128 + g.record.coreNo + g.placed && s'.fits t.core g.ctx g.record
    else s'.openCluster g.ctx (t.core / 128) && s'.fits t.core g.ctx g.record
  bestBy (fun a b => decide (b.placed < a.placed)) (s.teams.filter fun t =>
    t.ctx != g.ctx && t.live != 0 && s.overBudget t.ctx && t.stop == .none && some t.key != skip && fitsThen t)

/-- A slice-end request, one team at a time. (DEDUCED, log 52) -/
def State.sliceRequest (s : State) (l : List Grid) : Option State :=
  match l with
  | [] => none
  | g :: _ =>
    let waiting := match s.disp.stopping.bind s.team? with
      | some t => t.stop != .none
      | none => false
    if waiting || decide (g.ctx ≤ 1) || (s.ctxFunc g.ctx).balance == 0 ||
        (s.chooseCore g.ctx g.record g.placed).isSome then none
    else (s.victim g s.disp.stopping).map fun t =>
      let s := s.setStop t (.slice 65536)
      { s with disp := { s.disp with stopping := some t.key } }

/-- The period's energy has reached the applied cap (R375), that of the whole period once its boundary is due. -/
def State.capHit (s : State) : Bool :=
  match s.disp.cap with
  | none => false
  | some c => decide (c ≤ milliJoules s.disp.periodFrom (if s.disp.boundaryDue then s.disp.periodEnd else s.energySum))

/-- The cap has been reached, and the device has yet to act on it. -/
def State.capDue (s : State) : Bool := !s.disp.capReached && !s.disp.boundaryDue && s.capHit

/-- The step at which a tenant is throttled (R372, R375): a critical one at none, a best-effort one at 15 for the
rest of a period that has reached its cap. -/
def State.appliedStep (s : State) (f : Func) : Nat :=
  if f.critical then 0 else if s.disp.capReached || s.capHit then 15 else f.step

/-- DISPATCHER_CYCLE: refusals, a slice-end request and a placement, whichever are due (R365, R370). No team is
placed before the start is complete (R387), nor before a cap that is reached has its effect (R375). -/
def execDispatcherCycle (s : State) : Host.Outcome State Fault Refusal :=
  if !s.boot.isReady || s.capDue then .fault .notEnabled
  else
    let bad := s.heads.filter s.refusable
    let s := foldS State.refuseGrid s bad
    let l := s.candidates
    let asked := s.sliceRequest l
    match (asked.getD s).placeFirst l true with
    | some s' => .next (s'.queueEvent removalOrder)
    | none =>
      match asked with
      | some s' => .next (if bad.isEmpty then s' else s'.queueEvent removalOrder)
      | none => if bad.isEmpty then .fault .notEnabled else .next (s.queueEvent removalOrder)

end Sys2Proof.Machine
end

