-- ==== Sys2Proof/Machine/Pilot.lean ====
section
/-! DEFINITION. Scheduling periods, control ticks and the Pilot (R327-R329, R354-R358, R368-R378). -/

namespace Sys2Proof.Machine

/-! ### Words of the Pilot (R355, R357) -/

def Pilot.word (p : Pilot) (x : Nat) : Word := tget 0 p.words x
def Pilot.put (p : Pilot) (x : Nat) (v : Word) : Pilot := { p with words := tput 0 p.words x v }

/-- A word as a signed number, and as a count. -/
def Pilot.int (p : Pilot) (x : Nat) : Int := (p.word x).toInt
def Pilot.nat (p : Pilot) (x : Nat) : Nat := (p.word x).toNat

/-- The bits of a word that a write stores (R5, R357, R376). (DEDUCED, log 43) -/
def pilotMask (x : Nat) : Word :=
  if x = 0 then 0x0000FF03
  else if x = 0x000E ∨ x = 0x000F then 0
  else if x ≤ 3 then 0x0000FFFF
  else if 0x0020 ≤ x ∧ x ≤ 0x003F then 0xF000FFFF
  else if 0x0600 ≤ x ∧ x ≤ 0x06FF ∧ x % 32 = 0 then 0x0000011F
  else 0xFFFFFFFF

/-- A count, a signed number (R357), that acts as its limit above it (R376) and as 0 below 0. (DEDUCED, log 80) -/
def Pilot.count (p : Pilot) (x limit : Nat) : Nat := min (p.int x).toNat limit
def Pilot.nSensors (p : Pilot) : Nat := p.count 0x0008 32
def Pilot.nStates (p : Pilot) : Nat := max 1 (p.count 0x0009 256)
def Pilot.nActions (p : Pilot) : Nat := max 1 (p.count 0x000A 16)
def Pilot.nKnobs (p : Pilot) : Nat := p.count 0x000B 16
def Pilot.nEnvelope (p : Pilot) : Nat := p.count 0x000C 16
def Pilot.nTripwires (p : Pilot) : Nat := p.count 0x000D 8

/-- The interval's length in periods (R376). (DEDUCED, log 80) -/
def Pilot.length (p : Pilot) : Nat := max 1 (p.count 0x0004 256)

def Pilot.enabled (p : Pilot) : Bool := (p.word 0).getLsbD 0
def Pilot.replay (p : Pilot) : Bool := (p.word 0).getLsbD 1
def Pilot.rows (p : Pilot) : Nat := p.nat 0 / 256 % 256

/-! ### Knobs (R374) -/

def Pilot.knob (p : Pilot) (n : Nat) : Int := p.int (0x0330 + n)

/-- The mooring vector becomes the knobs. -/
def Pilot.moor (p : Pilot) : Pilot :=
  (List.range 16).foldl (fun p n => p.put (0x0330 + n) (p.word (0x0320 + n))) p

/-- The applied value of a knob: DEFAULT until the Pilot is first enabled and in minimal mode, then the
word clamped; a binding with MIN > MAX applies MIN (R374, R384). (DEDUCED, log 57) -/
def State.applied (s : State) (n : Nat) : Int :=
  let b := s.binding n
  if !s.pilot.everOn || s.boot.minimal then b.dflt.toInt
  else max b.lo.toInt (min b.hi.toInt (s.pilot.knob n))

/-- A tenant's quantity of a kind. (DEDUCED, log 57; DESIGN CHOICE, log 76) -/
def Func.setQuantity (f : Func) (kind v : Nat) : Func :=
  match kind with
  | 1 => { f with refill := v }
  | 2 => { f with borrowLimit := v }
  | 3 => { f with rate := v % 65536 }
  | 4 => { f with floor := min 15 v }
  | 5 => { f with target := v }
  | _ => f

/-- Applies the knobs of the kinds that take effect now; a negative value acts as 0. (DEDUCED, log 57) -/
def State.applyKnobs (s : State) (kinds : List Nat) : State :=
  foldS (fun s n =>
    let b := s.binding n
    let v := (s.applied n).toNat
    if !kinds.contains b.kind then s
    else if b.kind = 6 then { s with disp := { s.disp with cap := some v } }
    else if 1 ≤ b.tenant ∧ b.tenant ≤ 63 then s.modFunc b.tenant fun f => f.setQuantity b.kind v
    else s) s (List.range 16)

/-- Changes every function. -/
def State.modFuncs (s : State) (f : Func → Func) : State := { s with funcs := s.funcs.map fun x => (x.1, f x.2) }

/-- The throttle steps as a tick, a boundary or the cap sets them (R372, R375). (DEDUCED, log 52, 57) -/
def State.setSteps (s : State) : State :=
  s.modFuncs fun f =>
    { f with step := if f.critical then 0 else if s.disp.capReached then 15 else min 15 (f.floor + s.disp.lambda) }

/-! ### Periods and ticks (R365, R368, R369, R372, R374, R375, R377) -/

/-- A decision is due at this boundary (R377). (DEDUCED, log 80) -/
def State.decisionDue (s : State) : Bool := s.pilot.enabled && !s.boot.minimal && decide (s.pilot.left ≤ 1)

/-- Repayment and refill (R369); tenant 0 holds no budget (R368). (DEDUCED, log 51) -/
def Func.period (f : Func) (fn : Nat) : Func :=
  if fn = 0 then f
  else
    let repay := min f.debt (f.refill * f.rate / 65536)
    { f with debt := f.debt - repay, balance := f.refill - repay }

/-- PERIOD_BOUNDARY: the period's knobs take effect, every tenant repays and is refilled, the waits of
eligible heads count, and the energy cap is open again. -/
def execPeriodBoundary (s : State) : Host.Outcome State Fault Refusal :=
  if !s.disp.boundaryDue || s.disp.tickDue || s.decisionDue then .fault .notEnabled
  else
    let waiting := (s.heads.filter s.eligible).map (·.serial)
    let s := s.applyKnobs [1, 2, 3, 6]
    let s : State := { s with
      funcs := s.funcs.map fun x => (x.1, x.2.period x.1)
      grids := s.grids.map fun g => if waiting.contains g.serial then { g with waited := g.waited + 1 } else g
      disp := { s.disp with boundaryDue := false, capReached := false, periodFrom := s.disp.periodEnd }
      pilot := { s.pilot with left := s.pilot.left - 1 } }
    .next s.setSteps

/-- LAT99 of bucket counts (R371). (DEDUCED, log 58) -/
def lat99 (h : List Nat) : Nat :=
  let total := h.sum
  if total = 0 then 0
  else
    let need := (99 * total + 99) / 100
    match (List.range h.length).find? fun b => decide (need ≤ (h.take (b + 1)).sum) with
    | some b => 32 * b + 31
    | none => 0

/-- Bucket counts of a tenant in a tick, summed over the 16 controllers (R372). -/
def State.tickHist (s : State) (fn : Nat) : List Nat :=
  (List.range 16).foldl (fun a c => addHist a ((tfind s.hists (c * 64 + fn)).getD [])) []

/-- The sums that the dispatcher finds at a tick, by tenant. -/
def State.tickSums (s : State) : List (Nat × List Nat) := s.funcs.map fun x => (x.1, s.tickHist x.1)

/-- The loop step after a tick (R372): `crit` are the targets and latencies of the critical tenants with
reads and with a target. (DEDUCED, log 58) -/
def nextLambda (l : Nat) (crit : List (Nat × Nat)) : Nat :=
  if crit.any fun x => decide (x.1 < x.2) then min 15 (l + 1)
  else if crit.all fun x => decide (x.2 ≤ x.1 - x.1 / 8) then l - 1
  else l

/-- CONTROL_TICK: the histograms of the tick are summed, which gives `hist`, and cleared, and the loop step
follows. -/
def execControlTick (hist : List (Nat × List Nat)) (s : State) : Host.Outcome State Fault Refusal :=
  if !s.disp.tickDue || hist != s.tickSums then .fault .notEnabled
  else
    let s := s.applyKnobs [4, 5]
    let crit := s.funcs.filterMap fun x =>
      let h := s.tickHist x.1
      if x.2.critical && x.2.target != 0 && h.sum != 0 then some (x.2.target, lat99 h) else none
    let s : State := { s with
      hists := []
      disp := { s.disp with tickDue := false, lambda := nextLambda s.disp.lambda crit } }
    .next s.setSteps

/-- ENERGY_CAP_REACHED (R375). -/
def execEnergyCapReached (s : State) : Host.Outcome State Fault Refusal :=
  if s.capDue then .next ({ s with disp := { s.disp with capReached := true } }).setSteps
  else .fault .notEnabled

/-! ### Watchdogs (R327-R329) -/

/-- What a waiting group waits for: its kind of wait, barrier and phase. -/
def Group.waitsFor (g : Group) : Option (Nat × Nat × Nat) :=
  match g.park with
  | .cwwait cl => some (if cl then 3 else 2, 0xFF, 0)
  | _ =>
    ((List.range 32).find? fun l => (g.lane l).st.isBarrier).map fun l =>
      match (g.lane l).st with
      | .barrier b ph => (1, b, ph.toNat)
      | _ => (1, 0xFF, 0)

/-- The lowest lane that waits. -/
def Group.waitPc (g : Group) : Word :=
  match g.park with
  | .cwwait _ => (g.lane ((lanesOf g.cl.issue).headD 0)).pc
  | _ => (g.lane (((List.range 32).find? fun l => (g.lane l).st.isBarrier).getD 0)).pc

/-- HANG_REPORT: a counter has reached the limit (R329). -/
def execHangReport (t g : Nat) (s : State) : Host.Outcome State Fault Refusal :=
  let u := s.team t
  let x := s.group t g
  let limit := (s.ctxFunc u.ctx).hangwd.toNat % 65536
  match x.waitsFor with
  | none => .fault .notEnabled
  | some (kind, bar, phase) =>
    if (s.team? t).isSome && limit != 0 && decide (limit * 65536 ≤ x.watchdog) then
      let s := s.modCtx u.ctx fun f => { f with hangwd := f.hangwd ||| 0x80000000 }
      let s := s.trace u { type := 5, bit := 4, group := g, barrier := bar, code := kind, phase := phase,
                           pc := x.waitPc.toNat, grpslot := x.grpslot.toNat }
      .next (s.modGroup t g fun x => { x with watchdog := 0 })
    else .fault .notEnabled

/-! ### Control writes (R357) -/

/-- The sensors of an interval start from nothing. -/
def State.clearSensors (s : State) (energy : Nat) : State :=
  ({ s with pilot := { s.pilot with energyFrom := energy } }).modFuncs fun f =>
    { f with hist := [], tokens := 0, borrowed := 0, work := 0 }

/-- A control write that is ignored as a whole. -/
def Pilot.invalid (p : Pilot) (v : Word) : Bool :=
  v.getLsbD 1 && (v.toNat / 256 % 256 == 0 || decide (128 < v.toNat / 256 % 256) || p.nSensors == 32)

/-- The write that enables the Pilot: mooring, counters, and interval 1 (R357, R377). (DEDUCED, log 80) -/
def State.pilotStart (s : State) (v : Word) : State :=
  let p := (s.pilot.put 0 (v &&& pilotMask 0)).moor
  let p := (List.range 6).foldl (fun p i => p.put (0x2000 + i) 0) p
  ({ s with pilot := { p with everOn := true, interval := 1, left := p.length, ps := 0, pa := 0,
                              prevRefused := false } }).clearSensors s.energySum

/-- Performs a control write. (DEDUCED, log 44) -/
def State.pilotControl (s : State) (v : Word) : State :=
  if s.pilot.invalid v then s
  else if v.getLsbD 0 && !s.pilot.enabled then s.pilotStart v
  else { s with pilot := s.pilot.put 0 (v &&& pilotMask 0) }

/-- Performs a write of a Pilot word: discarded in minimal mode (R391). -/
def State.pilotWrite (s : State) (x : Nat) (v : Word) : State :=
  if s.boot.minimal then s
  else if x = 0 then s.pilotControl v
  else { s with pilot := s.pilot.put x (v &&& pilotMask x) }

/-- Performs an access: a read lands with the word as it stands (R354); it is 0 in minimal mode. (DEDUCED, log 43) -/
def State.pilotPerform (s : State) (m : PilotMsg) : State :=
  match m.set, m.res with
  | some v, _ => s.pilotWrite m.index v
  | none, some id =>
    let v := if s.boot.minimal then 0 else s.pilot.word m.index
    s.modGroup m.team m.group fun g =>
      let names := ((g.pending.find? fun r => r.id == id).map fun r => r.live.map (·.1)).getD []
      g.returns id 0 (regWrites names 0 [v])
  | none, none => s

/-- An access that may arrive: the oldest of its group (R354). -/
def State.pilotNextOf (s : State) (i : Nat) : Option PilotMsg :=
  (s.pilotNet[i]?).filter fun m => !((s.pilotNet.take i).any fun y => y.team == m.team && y.group == m.group)

/-- PILOT_ACCESS_ARRIVAL (R354). -/
def execPilotAccessArrival (i : Nat) (s : State) : Host.Outcome State Fault Refusal :=
  match s.pilotNextOf i with
  | none => .fault .notEnabled
  | some m => .next (({ s with pilotNet := s.pilotNet.eraseIdx i }).pilotPerform m)

/-- The place of the first control write with a value that may arrive. (DEDUCED, log 44) -/
def State.controlWrite (s : State) (v : Word) : Option Nat :=
  (List.range s.pilotNet.length).find? fun i => match s.pilotNextOf i with
    | some m => m.index == 0 && m.set == some v
    | none => false

/-- A control write of this value arrives, in a state where it does what its row says. (DEDUCED, log 44) -/
def State.controlArrives (s : State) (v : Word) (ok : Bool) : Host.Outcome State Fault Refusal :=
  match s.controlWrite v with
  | none => .fault .notEnabled
  | some i =>
    if ok && !s.pilot.invalid v && !s.boot.minimal then
      .next (({ s with pilotNet := s.pilotNet.eraseIdx i }).pilotControl v)
    else .fault .notEnabled

/-- PILOT_ENABLE: EN = 1 while the Pilot is stopped. (DEDUCED, log 44) -/
def execPilotEnable (v : Word) (s : State) : Host.Outcome State Fault Refusal :=
  s.controlArrives v (v.getLsbD 0 && !s.pilot.enabled)

/-- PILOT_STOP: EN = 0; the knobs keep their values. -/
def execPilotStop (v : Word) (s : State) : Host.Outcome State Fault Refusal :=
  s.controlArrives v (!v.getLsbD 0)

/-- PILOT_REPLAY_UPDATE: EN = 1 while it runs; the knobs and counters stand. -/
def execPilotReplayUpdate (v : Word) (s : State) : Host.Outcome State Fault Refusal :=
  s.controlArrives v (v.getLsbD 0 && s.pilot.enabled)

/-! ### The decision (R358, R376, R377) -/

/-- Saturation to a signed 32-bit number. -/
def sat32 (v : Int) : Int := max (-2147483648) (min 2147483647 v)

/-- An exact shift right by 16, rounding down. -/
def asr16 (v : Int) : Int := v / 65536

/-- A measured sensor of the ending interval (R376). (DESIGN CHOICE, log 59) -/
def State.measure (s : State) (temp : Int) (sel : Word) : Int :=
  let t := sel.toNat % 256
  let f := s.func t
  let tenant := decide (1 ≤ t) && decide (t ≤ 63)
  match sel.toNat / 256 % 256 with
  | 1 => if tenant then (f.work / 2 ^ 20 : Nat) else 0
  | 2 => if tenant then (lat99 f.hist : Nat) else 0
  | 3 => if tenant then (f.tokens : Nat) else 0
  | 4 => if tenant then (f.borrowed : Nat) else 0
  | 5 => if t = 0 then (milliJoules s.pilot.energyFrom s.disp.periodEnd : Nat) else 0
  | 6 => if t = 0 then (milliJoules s.disp.periodFrom s.disp.periodEnd : Nat) else 0
  | 7 => if t = 0 then temp else 0
  | 8 => if tenant then (s.appliedStep f : Nat) else 0
  | _ => 0

/-- The sensors of a decision. (DESIGN CHOICE, log 59) -/
def State.sensors (s : State) (temp : Int) : List Int :=
  (List.range s.pilot.nSensors).map fun i =>
    if s.pilot.replay then s.pilot.int (0x3000 + 32 * (s.pilot.interval - 1) + i)
    else s.measure temp (s.pilot.word (0x0020 + i))

/-- The exploration draw. -/
def Pilot.draw (p : Pilot) : Nat :=
  if p.replay then p.nat (0x301F + 32 * (p.interval - 1))
  else hash128 (p.nat 0x0005 + p.nat 0x0006 * 2 ^ 32) 0 p.interval % 2 ^ 32

/-- The state number that the sensors give. -/
def Pilot.stateOf (p : Pilot) (sens : List Int) : Nat :=
  let r := sens.zipIdx.foldl (fun (acc : Nat × Nat) x =>
    let t := min (p.nat (0x0020 + x.2) / 2 ^ 28) 8
    let b := (List.range t).countP fun j => decide (p.int (0x0100 + 8 * x.2 + j) ≤ x.1)
    (acc.1 + b * acc.2, acc.2 * (t + 1))) (0, 1)
  min r.1 (p.nStates - 1)

/-- A tripwire fails on the sensors (R357). -/
def Pilot.trips (p : Pilot) (sens : List Int) (e : Nat) : Bool :=
  let w := p.nat (0x0600 + 32 * e)
  match sens[w % 32]? with
  | none => false
  | some v =>
    let bound := p.int (0x0601 + 32 * e)
    if w / 256 % 2 = 0 then decide (bound < v) else decide (v < bound)

def Pilot.q (p : Pilot) (s a : Nat) : Int := p.int (0x1000 + 16 * s + a)

/-- The largest Q of a state, and the lowest action that has it. -/
def Pilot.bestAction (p : Pilot) (s : Nat) : Nat :=
  (bestBy (fun a b => decide (p.q s b < p.q s a)) (List.range p.nActions)).getD 0
def Pilot.maxQ (p : Pilot) (s : Nat) : Int := p.q s (p.bestAction s)

/-- The weighted reward of the sensors. -/
def Pilot.reward (p : Pilot) (sens : List Int) : Int :=
  sat32 (asr16 ((sens.zipIdx.map fun x => p.int (0x0300 + x.2) * x.1).sum))

/-- The update of the previous choice (R358). (DEDUCED, log 80) -/
def Pilot.learn (p : Pilot) (s : Nat) (rw pen : Int) : Pilot :=
  let pen := if p.prevRefused then pen + p.int 0x0007 else pen
  let rw := sat32 (rw - pen)
  let q := p.q p.ps p.pa
  let d := sat32 (rw + asr16 ((p.nat 0x0002 : Nat) * p.maxQ s) - q)
  p.put (0x1000 + 16 * p.ps + p.pa) (BitVec.ofInt 32 (sat32 (q + asr16 ((p.nat 0x0001 : Nat) * d))))

/-- The knobs that an action would give. -/
def Pilot.candidate (p : Pilot) (a : Nat) : List Int :=
  (List.range 16).map fun n =>
    if n < p.nKnobs then sat32 (p.knob n + p.int (0x0200 + 16 * a + n)) else p.knob n

/-- An envelope row holds for knobs. -/
def Pilot.holds (p : Pilot) (ks : List Int) (e : Nat) : Bool :=
  decide ((ks.zipIdx.map fun x => p.int (0x0400 + 32 * e + x.2) * x.1).sum ≤ p.int (0x0410 + 32 * e))

/-- A counter of the status words rises. -/
def Pilot.bump (p : Pilot) (x : Nat) : Pilot := p.put x (p.word x + 1)

/-- Chooses an action: its number, and the Pilot with EXPLORES. -/
def Pilot.choose (p : Pilot) (s : Nat) : Nat × Pilot :=
  let draw := p.draw
  if draw % 65536 < p.nat 0x0003 then (draw / 65536 * p.nActions / 65536, p.bump 0x2004)
  else (p.bestAction s, p)

/-- Applies or refuses an action. -/
def Pilot.act (p : Pilot) (s a : Nat) : Pilot :=
  let ks := p.candidate a
  let ok := (List.range p.nEnvelope).all fun e => p.holds ks e
  let p := if ok then ks.zipIdx.foldl (fun p x => p.put (0x0330 + x.2) (BitVec.ofInt 32 x.1)) p
    else (p.bump 0x2002).put 0x2005 (BitVec.ofNat 32 p.interval)
  let p := p.put 0x2000 ((p.word 0x2000 &&& 1) ||| (if ok then 0 else 2))
  { p with prevRefused := !ok, ps := s, pa := a }

/-- The decision step on the Pilot's own state. (DEDUCED, log 80) -/
def Pilot.decision (p : Pilot) (sens : List Int) : Pilot :=
  let s := p.stateOf sens
  let rw := p.reward sens
  let trip := (List.range p.nTripwires).any fun e => p.trips sens e
  let pen : Int := if trip then p.int 0x0007 else 0
  let p := if trip then p.moor.bump 0x2003 else p
  let p := if 1 < p.interval then p.learn s rw pen else p
  let p := p.bump 0x2001
  let p :=
    if p.replay && p.interval == p.rows then
      (p.put 0x2000 (p.word 0x2000 ||| 1)).put 0 (p.word 0 &&& 0xFFFFFFFE)
    else
      let c := p.choose s
      c.2.act s c.1
  { p with interval := p.interval + 1, left := p.length + 1 }

/-- PILOT_DECISION: at the boundary that ends an interval, before the period starts. -/
def execPilotDecision (temp : Int) (s : State) : Host.Outcome State Fault Refusal :=
  if s.disp.boundaryDue && !s.disp.tickDue && s.decisionDue then
    .next (({ s with pilot := s.pilot.decision (s.sensors temp) }).clearSensors s.disp.periodEnd)
  else .fault .notEnabled

end Sys2Proof.Machine
end

