-- ==== Sys2Proof/Machine/Sha.lean ====
section
/-! DEFINITION. SHA-256, which measures what the management core starts (R387-R389). Its constants are computed
from their definition: fractions of roots of the first primes. -/

namespace Sys2Proof.Machine

/-- The largest r below 2^n, added to `acc`, whose k-th power is at most x. -/
def rootBelow (k x : Nat) : Nat → Nat → Nat
  | 0, acc => acc
  | n + 1, acc => rootBelow k x n (if (acc + 2 ^ n) ^ k ≤ x then acc + 2 ^ n else acc)

/-- The first 32 bits of the fraction of the k-th root of a prime below 512. -/
def rootFraction (k p : Nat) : Word := BitVec.ofNat 32 (rootBelow k (p * 2 ^ (32 * k)) 37 0)

/-- The primes below a bound of at most 324. -/
def primesBelow (n : Nat) : List Nat :=
  (List.range n).filter fun p => decide (2 ≤ p) && (List.range (min p 18)).all fun d => decide (d < 2) || p % d != 0

/-- Words of a message, in groups of four bytes, the first byte highest. -/
def messageWords : List Byte → List Word
  | b0 :: b1 :: b2 :: b3 :: rest => (b0 ++ b1 ++ b2 ++ b3) :: messageWords rest
  | _ => []

/-- The message with its end mark and its length in bits: whole blocks of 64 bytes. -/
def paddedMessage (m : List Byte) : List Byte :=
  let bits := m.length * 8
  let zeros := (55 + 64 * m.length - m.length) % 64
  m ++ 0x80#8 :: List.replicate zeros 0 ++
    (List.range 8).map fun i => BitVec.ofNat 8 (bits / 256 ^ (7 - i))

/-- A linear mix of a word: two rotations and a third one or a shift. -/
def mixWord (x : Word) (r1 r2 : Nat) (last : Word) : Word := x.rotateRight r1 ^^^ x.rotateRight r2 ^^^ last

/-- The schedule grows by a word made of four earlier ones; it is kept newest first. -/
def growSchedule (w : List Word) : List Word :=
  let back (n : Nat) : Word := w.getD (n - 1) 0
  (back 16 + back 7 + mixWord (back 15) 7 18 (back 15 >>> 3) + mixWord (back 2) 17 19 (back 2 >>> 10)) :: w

/-- The 64 words of a block's schedule, oldest first. -/
def blockSchedule (block : List Word) : List Word :=
  ((List.range 48).foldl (fun w _ => growSchedule w) block.reverse).reverse

/-- One step on the eight working words: `kw` is the constant with the schedule's word. -/
def hashStep (v : List Word) (kw : Word) : List Word :=
  match v with
  | [a, b, c, d, e, f, g, h] =>
    let pick := ((f ^^^ g) &&& e) ^^^ g
    let most := (a &&& b) ||| (c &&& (a ||| b))
    let up := h + pick + kw + mixWord e 6 11 (e.rotateRight 25)
    [up + most + mixWord a 2 13 (a.rotateRight 22), a, b, c, d + up, e, f, g]
  | _ => v

/-- A block of sixteen words enters the hash. -/
def hashBlock (constants v block : List Word) : List Word :=
  let kws := List.zipWith (· + ·) constants (blockSchedule block)
  List.zipWith (· + ·) v (kws.foldl hashStep v)

/-- Blocks of sixteen words in turn, at most n of them. -/
def hashBlocks (constants : List Word) : Nat → List Word → List Word → List Word
  | 0, v, _ => v
  | n + 1, v, ws => hashBlocks constants n (hashBlock constants v (ws.take 16)) (ws.drop 16)

/-- SHA-256 of bytes: 32 bytes. -/
def sha256 (m : List Byte) : List Byte :=
  let primes := primesBelow 312
  let words := messageWords (paddedMessage m)
  let v := hashBlocks (primes.map (rootFraction 3)) (words.length / 16) ((primes.take 8).map (rootFraction 2)) words
  v.flatMap fun (w : Word) => (List.range 4).map fun i => (w >>> (24 - 8 * i)).setWidth 8

end Sys2Proof.Machine
end

