-- ==== Sys2Proof/Machine/HostIo.lean ====
section
/-! DEFINITION. What the host does to the device: launch records, register writes, contexts and their reset,
measurement extends and SPDM (R322, R361-R363, R381-R386, R389, R390, R392). -/

namespace Sys2Proof.Machine

/-! ### Launch apertures (R361, R363) -/

/-- Takes the record whose last byte stands at an offset of base address register 2 space; the staged
bytes return to 0. (DEDUCED, log 22; DESIGN CHOICE, log 66) -/
def State.takeRecord (s : State) (fn o : Nat) : State :=
  let f := s.func fn
  let at_ := o / 128 * 128
  let r := parseRecord (f.staged.readN at_ 128)
  let s := s.modFunc fn fun f => { f with staged := f.staged.clear at_ 128 }
  if f.exists_ then (s.enqueue (fn + 1) (o / 4096) r hostOrder).1 else s

/-- Writes one byte of an aperture: only record slots stage bytes. (DESIGN CHOICE, log 66) -/
def State.stageByte (s : State) (fn o : Nat) (b : Byte) : State :=
  if o % 4096 < 0xF80 ∧ o < 0x8000 then
    let s := s.modFunc fn fun f => { f with staged := f.staged.write o b }
    if o % 128 = 127 then s.takeRecord fn o else s
  else s

/-- Bytes of one host write, in ascending order. (DESIGN CHOICE, log 66) -/
def State.stageBytes (s : State) (fn o : Nat) (bs : List Byte) : State :=
  match bs with
  | [] => s
  | b :: r => State.stageBytes (s.stageByte fn o b) fn (o + 1) r

/-- LAUNCH_RECORD_TAKEN: a write inside the record slots that completes byte 0x7F of one. -/
def execLaunchRecordTaken (fn off : Nat) (bytes : List Byte) (s : State) : Host.Outcome State Fault Refusal :=
  let last := (List.range bytes.length).countP fun i => (off + i) % 128 == 127
  if fn < 64 ∧ last = 1 ∧ off + bytes.length ≤ 0x8000 ∧ off / 4096 = (off + bytes.length - 1) / 4096 ∧
      (off + bytes.length - 1) % 4096 < 0xF80 then
    .next (s.stageBytes fn off bytes)
  else .fault .notEnabled

/-! ### Contexts and function-level reset (R264, R322, R323, R383) -/

/-- The per-context registers and launch status at their reset values (R383). -/
def Func.fresh (f : Func) : Func :=
  { f with ptbase := 0, codebase := 0, svtab := 0, tdeleg := 0, memmode := 0, replaybuf := 0, replayUsed := 0
           ctxbuf := 0, ctxalt := 0, hangwd := 0, tracectl := 0, tracebuf := 0, tracepos := 0, watches := []
           staged := [], overflow := false, refused := false, drops := 0, lostSeq := 0, refusedSeq := 0
           requests := [] }

/-- Creates the function's context from its administration block. (DEDUCED, log 65) -/
def State.createContext (s : State) (fn : Nat) : State :=
  s.modFunc fn fun f =>
    { f.fresh with exists_ := true, ptbase := f.ptbaseReg, codebase := f.codebaseReg
                   svtab := f.svtabReg &&& 0xFFFFFF00 }

/-- A save that waits to finish is caught by the reset: STATE of its header becomes ABORTED when the
header's page translates (R322). (DEDUCED, log 65) -/
def State.abortSaves (s : State) (t : Team) : State :=
  foldS (fun s (g : Group) =>
    let saves := match g.clause with
      | some c => c.op == 0xD7 && g.park == .engine
      | none => false
    if saves && !g.ended then (s.vWrite t.ctx (bufBase (s.ctxFunc t.ctx).ctxbuf + 0x11) [3]).getD s else s)
    s t.groups

/-- Everything that the teams of a context have under way goes without a trace (R322). -/
def State.dropWork (s : State) (ctx : Nat) : State :=
  let gone (k : Nat) : Bool := s.teams.any fun t => t.key == k && t.ctx == ctx
  { s with
    teams := s.teams.filter fun t => t.ctx != ctx
    grids := s.grids.filter fun g => g.ctx != ctx
    net := s.net.filter fun p => !gone p.team && !gone p.loc.team
    copies := s.copies.filter fun o => o.ctx != ctx
    mmaxs := s.mmaxs.filter fun o => !gone o.team
    rowsInFlight := s.rowsInFlight.filter fun r => r.ctx != ctx
    rowWrites := s.rowWrites.filter fun w => !gone w.loc.team
    lands := s.lands.filter fun l => !gone l.team
    faults := s.faults.filter fun x => x.2.1 != ctx
    pilotNet := s.pilotNet.filter fun m => !gone m.team
    tlb := s.tlb.filter fun l => l.ctx != ctx
    walks := s.walks.filter fun l => l.ctx != ctx
    sweeps := s.sweeps.filter fun x => x.ctx != ctx
    capacity := s.capacity.filter fun x => x.1 / 2 ^ 36 != ctx
    eccTm := s.eccTm.filter fun x => !gone x.1
    cores := s.cores.map fun c => (c.1,
      { c.2 with
        berths := c.2.berths.filter fun b => !gone b.2.team
        landing := c.2.landing.filter fun e => !gone e.2.team
        slips := c.2.slips.filter fun x => !gone x.2.team
        held := c.2.held.filter fun h => h.2.ctx != ctx }) }

/-- Units of a function's carve-out are to be scrubbed (R322, R323). (DEDUCED, log 69) -/
def State.scrubCarveOut (s : State) (f : Func) : State :=
  let units := (List.range f.segsize.toNat).map fun i => f.segbase.toNat + i
  { s with scrub := s.scrub ++ units.filter fun u => !s.scrub.contains u }

/-- Destroys a function's context (R322, R383). -/
def State.destroyContext (s : State) (fn : Nat) : State :=
  let ctx := fn + 1
  let f := s.func fn
  let s := foldS (fun s (t : Team) => if t.ctx = ctx then s.abortSaves t else s) s s.teams
  ((s.dropWork ctx).scrubCarveOut f).modFunc fn fun f => { f.fresh with exists_ := false }

def Func.enable (f : Func) : Bool := f.flags.getLsbD 0

/-- A function-level reset; the context is created again while ENABLE is 1. (DEDUCED, log 65) -/
def State.resetFunction (s : State) (fn : Nat) : State :=
  let s := s.destroyContext fn
  if (s.func fn).enable then s.createContext fn else s

/-- FUNCTION_LEVEL_RESET (R322). -/
def execFunctionLevelReset (fn : Nat) (s : State) : Host.Outcome State Fault Refusal :=
  if fn < 64 then .next (s.resetFunction fn) else .fault .notEnabled

/-- The function has a resident team or a queued launch record (R382). -/
def State.busyFunc (s : State) (fn : Nat) : Bool :=
  s.teams.any (fun t => t.ctx == fn + 1) ||
    s.grids.any fun g => g.ctx == fn + 1 && !g.left

/-- FLAGS takes a value; ENABLE rising creates the context, falling destroys it (R383). -/
def State.writeFlags (s : State) (fn : Nat) (v : Word) : State :=
  let old := (s.func fn).enable
  let s := s.modFunc fn fun f => { f with flags := v &&& 7 }
  if v.getLsbD 0 && !old then s.createContext fn
  else if !v.getLsbD 0 && old then s.destroyContext fn
  else s

/-- CONTEXT_CREATE: ENABLE of a function without a context becomes 1. -/
def execContextCreate (fn : Nat) (s : State) : Host.Outcome State Fault Refusal :=
  if fn < 64 ∧ !(s.func fn).enable ∧ !s.busyFunc fn then .next (s.writeFlags fn ((s.func fn).flags ||| 1))
  else .fault .notEnabled

/-- CONTEXT_DESTROY: a write of 0 to ENABLE; ignored while the function is busy. -/
def execContextDestroy (fn : Nat) (s : State) : Host.Outcome State Fault Refusal :=
  if fn < 64 ∧ (s.func fn).enable then
    .next (if s.busyFunc fn then s else s.writeFlags fn ((s.func fn).flags &&& 6))
  else .fault .notEnabled

/-! ### Measurement extends (R388, R389) -/

/-- Extends a slot: SHA-256 of the slot followed by what it is extended with. (PRESUMED, log 63) -/
def Boot.extendSlot (b : Boot) (i : Nat) (d : List Byte) : Boot :=
  { b with mslots := b.mslots.set i (sha256 (b.mslots.getD i [] ++ d)) }

/-- A write of 1 to EXTEND. BUSY is set and cleared within the step. (DEDUCED, log 64) -/
def State.extendFive (s : State) : State :=
  if s.extendLive 0 && !s.boot.busy then
    let b := s.boot.extendSlot 5 s.boot.digest
    { s with boot := { b with extends_ := b.extends_ + 1, digest := List.replicate 32 0 } }
  else s

/-- EXTEND: ignored before READY and in minimal mode. -/
def execExtend (s : State) : Host.Outcome State Fault Refusal := .next s.extendFive

/-- REARM clears the failed-start count (R391, R392). (DEDUCED, log 64) -/
def State.rearmCount (s : State) : State := { s with boot := { s.boot with count := 0 } }

def execRearm (s : State) : Host.Outcome State Fault Refusal := .next s.rearmCount

/-! ### Register writes (R381-R386, R389, R392) -/

/-- SEGSIZE is clipped to the end of main memory (R382). (DEDUCED, log 65) -/
def Func.clip (f : Func) : Func :=
  let room := 16515072 - f.segbase.toNat
  if room < f.segsize.toNat then { f with segsize := BitVec.ofNat 32 room } else f

/-- Fields that a busy function keeps (R382). (DEDUCED, log 65) -/
def lockedField (o : Nat) : Bool := decide (o ≤ 0x10) || (decide (0x38 ≤ o) && decide (o < 0x5C))

/-- [51:16] of an address register. -/
def pageBits (v : DWord) : DWord := v &&& 0x000FFFFFFFFF0000

/-- Stores a field of an administration block. (DEDUCED, log 65) -/
def Func.putAdmin (f : Func) (o : Nat) (v : Word) : Func :=
  match o with
  | 0x00 => ({ f with segbase := v } : Func).clip
  | 0x04 => ({ f with segsize := v } : Func).clip
  | 0x0C => { f with clusters := v }
  | 0x10 => { f with svtabReg := v }
  | 0x18 => { f with fqbase := putHalf false f.fqbase v }
  | 0x1C => { f with fqbase := putHalf true f.fqbase v }
  | 0x20 => { f with fqsize := v }
  | 0x24 => { f with fqhead := v }
  | 0x38 => { f with ptbaseReg := pageBits (putHalf false f.ptbaseReg v) }
  | 0x3C => { f with ptbaseReg := pageBits (putHalf true f.ptbaseReg v) }
  | 0x40 => { f with codebaseReg := pageBits (putHalf false f.codebaseReg v) }
  | 0x44 => { f with codebaseReg := pageBits (putHalf true f.codebaseReg v) }
  | 0x48 => { f with csendbase := v }
  | 0x4C => { f with csendsize := v }
  | 0x50 => { f with crecvbase := v }
  | 0x54 => { f with crecvsize := v }
  | 0x58 => { f with cslot := v }
  | _ => f

/-- A write to an administration block. (DEDUCED, log 65) -/
def State.writeAdmin (s : State) (fn o : Nat) (v : Word) : State :=
  if lockedField o && s.busyFunc fn then s
  else match o with
    | 0x08 => s.writeFlags fn v
    | 0x30 => if v = 1 then s.resetFunction fn else s
    | 0x5C => s.answerService fn (v.toNat % 2 ^ 31) (!v.getLsbD 31)
    | _ => s.modFunc fn fun f => f.putAdmin o v

/-- A knob binding's word (R384). -/
def Binding.put (b : Binding) (o : Nat) (v : Word) : Binding :=
  match o with
  | 0 => { b with kind := v.toNat % 256, tenant := v.toNat / 256 % 256 }
  | 4 => { b with lo := v }
  | 8 => { b with hi := v }
  | _ => { b with dflt := v }

/-- A write to a binding: ignored while the Pilot runs. -/
def State.writeBinding (s : State) (n o : Nat) (v : Word) : State :=
  if s.pilot.enabled then s
  else { s with bindings := tput Binding.blank s.bindings n ((s.binding n).put o v) }

/-- A word of the staged digest. -/
def State.writeDigest (s : State) (w : Nat) (v : Word) : State :=
  if s.extendLive 0 && !s.boot.busy then
    { s with boot := { s.boot with
        digest := s.boot.digest.take (4 * w) ++ leBytes 4 v.toNat ++ s.boot.digest.drop (4 * w + 4) } }
  else s

/-- The Debug capability's command word (R386). -/
def State.debugCommand (s : State) (v : Word) : State :=
  let z := BitVec.ofNat 16 v.toNat
  match v.toNat / 2 ^ 16 % 16 with
  | 1 => s.debugHalt 0 z
  | 2 => s.debugResume 0 z
  | _ => s

/-- Base address register 0 of the physical function. -/
def State.writePf (s : State) (o : Nat) (v : Word) : State :=
  if o = 0x144 then (if v.getLsbD 29 then s.rearmCount else s)
  else if o = 0x2C4 then s.modFunc 0 fun f => { f with dbgCtx := v }
  else if o = 0x2C8 then s.modFunc 0 fun f => { f with dbgXY := v }
  else if o = 0x2CC then s.debugCommand v
  else if 0xE000 ≤ o ∧ o < 0xE020 then s.writeDigest ((o - 0xE000) / 4) v
  else if o = 0xE020 then (if v = 1 then s.extendFive else s)
  else if 0xF000 ≤ o ∧ o < 0xF100 then s.writeBinding ((o - 0xF000) / 16) (o % 16) v
  else if 0x10000 ≤ o ∧ o < 0x14000 then s.writeAdmin ((o - 0x10000) / 256) (o % 256) v
  else s

/-- Base address register 2: staged record bytes, and the W1C bits of the launch status. -/
def State.writeBar2 (s : State) (fn o : Nat) (v : Word) : State :=
  if o % 4096 = 0xF80 ∧ o < 0x8000 then
    s.modFunc fn fun f =>
      { f with overflow := f.overflow && !v.getLsbD 31, refused := f.refused && !v.getLsbD 30 }
  else s.stageBytes fn o (leBytes 4 v.toNat)

/-- REGISTER_WRITE: a word at a multiple of 4; any other offset holds no register, and a write to it is
ignored (R381). -/
def execRegisterWrite (w : HostWrite) (s : State) : Host.Outcome State Fault Refusal :=
  if 64 ≤ w.fn then .fault .notEnabled
  else if w.off % 4 ≠ 0 then .next s
  else if w.bar2 then .next (s.writeBar2 w.fn w.off w.value)
  else if w.off = 0x29C then
    .next (s.modFunc w.fn fun f => { f with stalled := f.stalled && !w.value.getLsbD 0 })
  else .next (if w.fn = 0 then s.writePf w.off w.value else s)

/-! ### SPDM (R390) -/

/-- The management core runs and answers. (DEDUCED, log 82) -/
def Boot.running (b : Boot) : Bool :=
  match b.stage with
  | .stage _ _ => true
  | .ready _ => true
  | _ => false

/-- What of a response its signature covers: the values that it holds, in order. (DESIGN CHOICE, log 62) -/
def SpdmResponse.content : SpdmResponse → List Byte
  | .version l => l.flatMap fun v => leBytes 1 v.1 ++ leBytes 1 v.2
  | .capabilities a b c => [a, b, c].map fun x => if x then 1 else 0
  | .algorithms l => l.map fun x => match x with | .rsassa3072 => 1 | .sha256 => 2
  | .digests l => l.flatten
  | .certificate k => k
  | .challenge n => n
  | .measurements l => l.flatMap fun v => leBytes 1 v.1 ++ v.2

/-- Answers an SPDM request. (DEDUCED, log 6; PRESUMED, log 63) -/
def State.respond (s : State) (r : SpdmResponse) : Host.Outcome State Fault Refusal :=
  if s.boot.running then
    .next { s with spdmOut := s.spdmOut ++ [{ response := r, signature := Config.deviceSign r.content }] }
  else .fault .notEnabled

def execGetVersion (s : State) : Host.Outcome State Fault Refusal := s.respond (.version [(1, 3)])
def execGetCapabilities (s : State) : Host.Outcome State Fault Refusal := s.respond (.capabilities false false false)
def execNegotiateAlgorithms (s : State) : Host.Outcome State Fault Refusal := s.respond (.algorithms [.rsassa3072, .sha256])
def execGetDigests (s : State) : Host.Outcome State Fault Refusal :=
  s.respond (.digests [sha256 Config.certificate])
def execGetCertificate (s : State) : Host.Outcome State Fault Refusal :=
  s.respond (.certificate Config.certificate)

/-- CHALLENGE: the nonce, signed as every response is. -/
def execChallenge (nonce : List Byte) (s : State) : Host.Outcome State Fault Refusal :=
  s.respond (.challenge nonce)

/-- The measurements of an index: slot i has index i + 1, and 0xFF asks for all. (PRESUMED, log 63) -/
def Boot.measurements (b : Boot) (index : Nat) : List (Nat × List Byte) :=
  let all := (List.range 8).map fun i => (i + 1, b.mslots.getD i [])
  if index = 0xFF then all else all.filter fun x => x.1 == index

/-- GET_MEASUREMENTS: the values. -/
def execGetMeasurements (index : Nat) (s : State) : Host.Outcome State Fault Refusal :=
  s.respond (.measurements (s.boot.measurements index))

end Sys2Proof.Machine
end

