-- ==== Sys2Proof/Machine/Start.lean ====
section
/-! DEFINITION. Start-up, measurement and failed starts of the management core, thermal trips and power faults
(R387, R388, R391, R392, R395). -/

namespace Sys2Proof.Machine

/-- Records a reason: the latest in the low byte, the two before it above (R392). (DEDUCED, log 64) -/
def Boot.note (b : Boot) (code : Nat) : Boot :=
  { b with reason := BitVec.ofNat 24 (b.reason.toNat * 256 + code % 256) }

/-- A failed start: the count rises, saturating at 255 (R391). (DEDUCED, log 64) -/
def Boot.fail (b : Boot) (code : Nat) : Boot :=
  { b.note code with stage := .failed, count := min 255 (b.count + 1) }

/-- A start is under way. (DESIGN CHOICE, log 1) -/
def Boot.starting (b : Boot) : Bool := match b.stage with | .stage _ _ => true | _ => false

/-- The lowest-numbered bit of a mask. -/
def lowestBit (m : BitVec 16) : BitVec 16 := m &&& (0 - m)

/-- The device after power-on: everything but the non-volatile storage of the management core, the host's
memory and the model's own counters is as at reset. (DEDUCED, log 64) -/
def State.powerCycle (s : State) : State :=
  { State.reset with
    tick := s.tick, fresh := s.fresh, inbox := s.inbox, hostMem := s.hostMem
    boot := { State.reset.boot with count := s.boot.count, reason := s.boot.reason } }

/-- A stage's image is checked and measured into a slot, and the stage starts; a bad signature fails the
start (R387, R391). (DEDUCED, log 64) -/
def State.startStage (s : State) (n slot : Nat) (minimal : Bool) (image key sig : List Byte) : State :=
  let b := s.boot
  if sha256 key = Config.fusedKeyHash ∧ Config.signatureGood image key sig = true then
    { s with boot := { b.extendSlot slot (sha256 image) with stage := .stage n minimal } }
  else { s with boot := b.fail 0x01 }

/-- The outcome of a link's training (R385, R391): down, 32 GT/s or 128 GT/s, and its width. (DESIGN CHOICE, log 62) -/
def trainLink (tick link : Nat) (slow : Bool) : Nat × Nat :=
  let speed := [0, 5, 7].getD (Config.linkSpeed tick link % 3) 0
  if speed = 0 then (0, 0)
  else (if slow then 5 else speed, [1, 2, 4, 8, 16].getD (Config.linkWidth tick link % 5) 16)

/-- The host links of a start: a minimal start trains one, link 0 or link 1 if link 0 fails, at no more than
32 GT/s (R391). -/
def trainLinks (tick : Nat) (minimal : Bool) : List (Nat × Nat) :=
  let a := trainLink tick 0 minimal
  let b := trainLink tick 1 minimal
  if minimal then (if a.1 = 0 then [(0, 0), b] else [a, (0, 0)]) else [a, b]

/-- The reason with which training or self-test fails, 0 for none (R391, R392): a full start needs both host
links, a minimal one either. (DEDUCED, log 62) -/
def trainingReason (tick : Nat) (minimal : Bool) (links : List (Nat × Nat)) : Nat :=
  let down (x : Nat × Nat) : Bool := x.1 == 0
  if Config.trainingFails tick then 0x03
  else if Config.startClusters tick = 0 then 0x04
  else if (if minimal then links.all down else links.any down) then 0x05
  else 0

/-- POWER_ON: the ROM checks and measures stage one; after three failed starts the start is minimal, with
one cluster. A thermal trip in service is recorded without raising the count (R392). (DEDUCED, log 82) -/
def execPowerOn (image key sig : List Byte) (s : State) : Host.Outcome State Fault Refusal :=
  let trip := s.boot.trip
  let minimal := decide (3 ≤ s.boot.count)
  let t := s.powerCycle
  let all := Config.startClusters s.tick
  let b := if trip then t.boot.note 0x08 else t.boot
  let links := trainLinks s.tick minimal
  let b := { b with clusters := if minimal then lowestBit all else all, links := links
                    selfTest := trainingReason s.tick minimal links }
  .next (({ t with boot := b }).startStage 1 0 minimal image key sig)

/-- STAGE_HANDOFF: a stage checks and measures the next one and starts it: the management-core runtime, then
the dispatcher and Pilot microcode. Training or self-test that has failed fails the start. -/
def execStageHandoff (image key sig : List Byte) (s : State) : Host.Outcome State Fault Refusal :=
  match s.boot.stage with
  | .stage n minimal =>
    if 3 ≤ n then .fault .notEnabled
    else if s.boot.selfTest ≠ 0 then .next { s with boot := s.boot.fail s.boot.selfTest }
    else .next (s.startStage (n + 1) n minimal image key sig)
  | _ => .fault .notEnabled

/-- The boot-status words as bytes (R388, R392). (PRESUMED, log 63) -/
def Boot.statusBytes (b : Boot) : List Byte := leBytes 4 b.statusWord.toNat ++ leBytes 4 b.reasonWord.toNat

/-- READY: the runtime has measured the fuses and calibration weights into slot 3; a full start clears the
failed-start count, and slot 4 is extended with the boot-status words. (PRESUMED, log 63) -/
def execReady (fuses : List Byte) (s : State) : Host.Outcome State Fault Refusal :=
  match s.boot.stage with
  | .stage 3 minimal =>
    if s.boot.selfTest ≠ 0 then .next { s with boot := s.boot.fail s.boot.selfTest }
    else
      let b := s.boot.extendSlot 3 (sha256 fuses)
      let b := { b with stage := .ready minimal, count := if minimal then b.count else 0 }
      .next { s with boot := b.extendSlot 4 b.statusBytes }
  | _ => .fault .notEnabled

/-- STAGE_TIME_LIMIT (R391). -/
def execStageTimeLimit (s : State) : Host.Outcome State Fault Refusal :=
  if s.boot.starting then .next { s with boot := s.boot.fail 0x02 } else .fault .notEnabled

/-- THERMAL_TRIP: before READY a failed start; in service the device stops, and the next start records it
(R392, R395). (DEDUCED, log 82) -/
def execThermalTrip (s : State) : Host.Outcome State Fault Refusal :=
  match s.boot.stage with
  | .stage _ _ => .next { s with boot := s.boot.fail 0x07 }
  | .ready _ => .next { s with boot := { s.boot with stage := .stopped, trip := true } }
  | _ => .fault .notEnabled

/-- POWER_FAULT: during a start (R392). -/
def execPowerFault (s : State) : Host.Outcome State Fault Refusal :=
  if s.boot.starting then .next { s with boot := s.boot.fail 0x06 } else .fault .notEnabled

end Sys2Proof.Machine
end

