-- ==== Sys2Proof/Machine/Causeway.lean ====
section
/-! DEFINITION. Causeway links and contributions (R382, R385, R391, R393, R394), and scrub units (R323). -/

namespace Sys2Proof.Machine

/-! ### The receive window (R394) -/

/-- Slots of a function's receive window; none when its windows are not usable. (DEDUCED, log 9) -/
def Func.slots (f : Func) : Nat := if f.windowsOk then f.crecvsize.toNat * pageSize / (f.cslot.toNat * 4096) else 0

/-- Physical address of a slot. -/
def Func.slotAt (f : Func) (k : Nat) : Nat :=
  (f.segbase.toNat + f.crecvbase.toNat) * pageSize + k * (f.cslot.toNat * 4096)

/-- The lowest slot whose state word is 0. (DEDUCED, log 9) -/
def State.freeSlot (s : State) (f : Func) : Option Nat :=
  (List.range f.slots).find? fun k => leNat (s.hbmBytes (f.slotAt k) 4) == 0

/-- The header of a slot after its state word. -/
def Contribution.header (c : Contribution) : List Byte :=
  leBytes 2 c.collective.toNat ++ leBytes 1 c.link ++ leBytes 1 c.sender ++ leBytes 4 c.round.toNat ++
    leBytes 4 c.payload.length ++ List.replicate 48 0

/-- A contribution lands: payload and header first, the state word last. (DEDUCED, log 67) -/
def State.landAt (s : State) (at_ : Nat) (c : Contribution) : State :=
  ((s.hbmPuts (at_ + 64) c.payload).hbmPuts (at_ + 4) c.header).hbmPuts at_ (leBytes 4 1)

/-- The contribution fits a slot of its function's window. (DEDUCED, log 67) -/
def State.receives (s : State) (c : Contribution) : Bool :=
  let f := s.func c.fn
  f.exists_ && decide (0 < f.slots) && decide (64 + c.payload.length ≤ f.cslot.toNat * 4096)

/-- CONTRIBUTION_ARRIVAL: over a link that is up, for a function that can receive it; it waits at its
sender while no slot is free. -/
def execContributionArrival (fn link sender : Nat) (collective : BitVec 16) (round : Word)
    (payload : List Byte) (s : State) : Host.Outcome State Fault Refusal :=
  let c : Contribution :=
    { fn := fn, link := link, sender := sender, collective := collective, round := round, payload := payload }
  if decide (link < 12) && decide (sender < 64) && decide (fn < 64) && payload.length % 4 == 0 &&
      s.linkUp.getLsbD link && s.receives c then
    match s.freeSlot (s.func fn) with
    | some k => .next (s.landAt ((s.func fn).slotAt k) c)
    | none => .next { s with waitingIn := s.waitingIn ++ [c] }
  else .fault .notEnabled

/-- WAITING_CONTRIBUTION_LANDS: a slot has been freed. -/
def execWaitingContributionLands (i : Nat) (s : State) : Host.Outcome State Fault Refusal :=
  match s.waitingIn[i]? with
  | none => .fault .notEnabled
  | some c =>
    match if s.receives c then s.freeSlot (s.func c.fn) else none with
    | some k =>
      .next (({ s with waitingIn := s.waitingIn.eraseIdx i }).landAt ((s.func c.fn).slotAt k) c)
    | none => .fault .notEnabled

/-! ### Sends that wait (R394) -/

/-- STRAGGLERS: a send that still waits at its peer after 2^32 cycles; it goes on waiting. -/
def execStragglers (i : Nat) (s : State) : Host.Outcome State Fault Refusal :=
  match s.copies[i]? with
  | none => .fault .notEnabled
  | some o =>
    if o.waitingPeer then
      let s := s.modCtx o.ctx fun f => { f with stragglers := min 0xFFFFFFFF (f.stragglers + 1), stalled := true }
      .next { s with copies := s.copies.map fun x => if x.id = o.id then { x with waitingPeer := false } else x }
    else .fault .notEnabled

/-! ### Links (R385, R391, R393) -/

/-- CAUSEWAY_LINK_DOWN. -/
def execCausewayLinkDown (link : Nat) (s : State) : Host.Outcome State Fault Refusal :=
  if link < 12 ∧ s.linkUp.getLsbD link = true then
    .next { s with linkUp := s.linkUp &&& ~~~(1#12 <<< link) }
  else .fault .notEnabled

/-- CAUSEWAY_LINK_UP: none comes up in minimal mode (R391). -/
def execCausewayLinkUp (link : Nat) (s : State) : Host.Outcome State Fault Refusal :=
  let minimal := match s.boot.stage with | .stage _ m => m | .ready m => m | _ => false
  if link < 12 ∧ s.linkUp.getLsbD link = false ∧ !minimal then
    .next { s with linkUp := s.linkUp ||| (1#12 <<< link) }
  else .fault .notEnabled

/-! ### Scrubbing (R323) -/

/-- SCRUB_UNIT_FINISHED: the unit's bytes and tags are 0, and it stops being pending. -/
def execScrubUnitFinished (unit : Nat) (s : State) : Host.Outcome State Fault Refusal :=
  if s.scrub.contains unit then .next (s.scrubUnit unit) else .fault .notEnabled

end Sys2Proof.Machine
end

