-- ==== Sys2Proof/Machine/Normal.lean ====
section
/-! DEFINITION. The table of `rngn` (R250): Tn[i] = rne32(inverse normal((i + 0.5) / 4096)), worked
out from that formula for i = 2048 ... 4095; the lower half is the negation of the upper (R250). Each
literal packs 128 patterns, the first in its lowest 32 bits. -/

namespace Sys2Proof.Machine

/-- Patterns 128 * c ... 128 * c + 127 of the upper half. -/
def tnChunk (c : Nat) : Nat :=
  match c with
  | 0 => 0x3D9FF5C53D9EB3F33D9D72253D9C305B3D9AEE943D99ACD13D986B133D9729583D95E7A03D94A5EC3D93643C3D9222903D90E0E73D8F9F423D8E5DA03D8D1C023D8BDA683D8A98D03D89573D3D8815AC3D86D41F3D8592953D84510F3D830F8C3D81CE0C3D808C8F3D7E962B3D7C133E3D7990583D770D773D748A9D3D7207C83D6F84FA3D6D02313D6A7F6E3D67FCB23D6579FA3D62F7493D60749D3D5DF1F63D5B6F553D58ECBA3D566A233D53E7923D5165073D4EE2803D4C5FFE3D49DD823D475B0A3D44D8983D42562A3D3FD3C13D3D515D3D3ACEFD3D384CA23D35CA4B3D3347F93D30C5AC3D2E43633D2BC11E3D293EDD3D26BCA03D243A683D21B8333D1F36033D1CB3D63D1A31AD3D17AF883D152D673D12AB4A3D1029303D0DA7193D0B25063D08A2F73D0620EB3D039EE23D011CDC3CFD35B33CF831B53CF32DBC3CEE29CA3CE925DD3CE421F63CDF1E143CDA1A383CD516623CD012903CCB0EC43CC60AFD3CC1073B3CBC037D3CB6FFC43CB1FC0F3CACF85F3CA7F4B33CA2F10B3C9DED683C98E9C83C93E62C3C8EE2933C89DEFE3C84DB6C3C7FAFBC3C75A8A53C6BA1953C619A8A3C5793853C4D8C853C43858B3C397E953C2F77A33C2570B63C1B69CD3C1162E83C075C063BFAAA4F3BE69C993BD28EE83BBE813C3BAA73953B9665F23B8258533B5C956E3B347A3B3B0C5F0D3AC887C43A70A2E839A06C99
  | 1 => 0x3E20C4D83E2022703E1F800C3E1EDDAC3E1E3B513E1D98F93E1CF6A53E1C54553E1BB2093E1B0FC13E1A6D7C3E19CB3C3E1929003E1886C73E17E4923E1742613E16A0343E15FE0B3E155BE53E14B9C33E1417A53E13758A3E12D3743E1231603E118F513E10ED453E104B3D3E0FA9383E0F07373E0E653A3E0DC3403E0D214A3E0C7F573E0BDD683E0B3B7C3E0A99943E09F7AF3E0955CE3E08B3F03E0812163E07703E3E06CE6B3E062C9A3E058ACD3E04E9043E04473D3E03A57A3E0303BB3E0261FE3E01C0453E011E8F3E007CDC3DFFB6593DFE73003DFD2FAE3DFBEC623DFAA91C3DF965DC3DF822A33DF6DF703DF59C433DF4591C3DF315FB3DF1D2E03DF08FCB3DEF4CBD3DEE09B43DECC6B13DEB83B43DEA40BD3DE8FDCB3DE7BAE03DE677FA3DE5351A3DE3F23F3DE2AF6B3DE16C9C3DE029D23DDEE70E3DDDA4503DDC61973DDB1EE43DD9DC363DD8998D3DD756EA3DD6144C3DD4D1B43DD38F203DD24C923DD10A0A3DCFC7863DCE85083DCD428E3DCC001A3DCABDAB3DC97B413DC838DC3DC6F67B3DC5B4203DC471CA3DC32F783DC1ED2C3DC0AAE43DBF68A13DBE26623DBCE4293DBBA1F43DBA5FC33DB91D983DB7DB703DB6994E3DB557303DB415163DB2D3013DB190F03DB04EE43DAF0CDC3DADCAD93DAC88D93DAB46DE3DAA04E73DA8C2F53DA781063DA63F1C3DA4FD363DA3BB543DA279763DA1379B
  | 2 => 0x3E72929D3E71EDA33E7148AF3E70A3C13E6FFEDA3E6F59F93E6EB51E3E6E10493E6D6B7B3E6CC6B33E6C21F03E6B7D343E6AD87E3E6A33CE3E698F243E68EA813E6845E33E67A14B3E66FCB93E66582D3E65B3A73E650F273E646AAD3E63C6393E6321CB3E627D623E61D9003E6134A33E60904C3E5FEBFA3E5F47AF3E5EA3693E5DFF293E5D5AEF3E5CB6BA3E5C128C3E5B6E623E5ACA3F3E5A26213E5982083E58DDF53E5839E83E5795E13E56F1DE3E564DE23E55A9EB3E5505F93E54620D3E53BE263E531A453E5276693E51D2923E512EC13E508AF53E4FE72F3E4F436D3E4E9FB23E4DFBFB3E4D584A3E4CB49E3E4C10F73E4B6D553E4AC9B93E4A26213E49828F3E48DF023E483B7A3E4797F83E46F47A3E4651013E45AD8E3E450A1F3E4466B63E43C3513E431FF23E427C973E41D9423E4135F13E4092A53E3FEF5F3E3F4C1D3E3EA8E03E3E05A73E3D62743E3CBF453E3C1C1C3E3B78F63E3AD5D63E3A32BB3E398FA43E38EC923E3849843E37A67C3E3703773E3660783E35BD7D3E351A873E3477953E33D4A83E3331C03E328EDC3E31EBFC3E3149213E30A64B3E3003793E2F60AB3E2EBDE23E2E1B1D3E2D785D3E2CD5A13E2C32E93E2B90363E2AED873E2A4ADD3E29A8363E2905943E2862F73E27C05D3E271DC83E267B373E25D8AA3E2536213E24939D3E23F11C3E234EA03E22AC283E2209B43E216744
  | 3 => 0x3EA2FA823EA2A6223EA251C83EA1FD713EA1A91F3EA154D23EA100883EA0AC433EA058033EA003C73E9FAF8F3E9F5B5B3E9F072C3E9EB3013E9E5EDA3E9E0AB83E9DB69A3E9D62803E9D0E6B3E9CBA593E9C664C3E9C12433E9BBE3E3E9B6A3E3E9B16413E9AC2493E9A6E553E9A1A653E99C67A3E9972923E991EAF3E98CACF3E9876F43E98231D3E97CF4A3E977B7B3E9727B03E96D3E93E9680263E962C673E95D8AC3E9584F53E9531433E94DD943E9489E93E9436423E93E29F3E938F003E933B653E92E7CE3E92943B3E9240AB3E91ED203E9199983E9146153E90F2953E909F193E904BA13E8FF82C3E8FA4BC3E8F514F3E8EFDE63E8EAA813E8E57203E8E03C33E8DB0693E8D5D133E8D09C13E8CB6723E8C63283E8C0FE13E8BBC9D3E8B695E3E8B16223E8AC2E93E8A6FB53E8A1C843E89C9563E89762D3E8923073E88CFE43E887CC53E8829AA3E87D6933E87837E3E87306E3E86DD613E868A583E8637523E85E44F3E8591513E853E553E84EB5D3E8498693E8445783E83F28B3E839FA13E834CBB3E82F9D83E82A6F83E82541C3E8201433E81AE6E3E815B9C3E8108CD3E80B6023E80633A3E8010763E7F7B693E7ED5EE3E7E30793E7D8B0B3E7CE5A33E7C40423E7B9AE73E7AF5933E7A50463E79AAFF3E7905BF3E7860853E77BB513E7716253E7670FE3E75CBDE3E7526C43E7481B13E73DCA43E73379D
  | 4 => 0x3ECDC83D3ECD714A3ECD1A5D3ECCC3773ECC6C963ECC15BB3ECBBEE53ECB68163ECB114C3ECABA893ECA63CB3ECA0D133EC9B6613EC95FB43EC9090E3EC8B26D3EC85BD13EC8053C3EC7AEAC3EC758223EC7019E3EC6AB1F3EC654A63EC5FE333EC5A7C53EC5515D3EC4FAFB3EC4A49E3EC44E473EC3F7F53EC3A1A93EC34B623EC2F5213EC29EE63EC248B03EC1F27F3EC19C543EC1462F3EC0F00F3EC099F43EC043DF3EBFEDD03EBF97C63EBF41C13EBEEBC13EBE95C73EBE3FD33EBDE9E33EBD93F93EBD3E153EBCE8353EBC925B3EBC3C873EBBE6B73EBB90ED3EBB3B283EBAE5693EBA8FAE3EBA39F93EB9E4493EB98E9F3EB938F93EB8E3593EB88DBE3EB838283EB7E2973EB78D0B3EB737843EB6E2033EB68C873EB6370F3EB5E19D3EB58C303EB536C83EB4E1653EB48C073EB436AE3EB3E15A3EB38C0B3EB336C13EB2E17B3EB28C3B3EB237003EB1E1CA3EB18C993EB1376C3EB0E2453EB08D223EB038053EAFE2EC3EAF8DD83EAF38C93EAEE3BE3EAE8EB93EAE39B83EADE4BC3EAD8FC53EAD3AD33EACE5E53EAC90FD3EAC3C193EABE7393EAB925F3EAB3D893EAAE8B83EAA93EB3EAA3F243EA9EA603EA995A23EA940E83EA8EC333EA897823EA842D73EA7EE2F3EA7998C3EA744EE3EA6F0553EA69BC03EA6472F3EA5F2A33EA59E1C3EA549993EA4F51A3EA4A0A03EA44C2B3EA3F7BA3EA3A34D3EA34EE5
  | 5 => 0x3EFA13B63EF9B95A3EF95F063EF904BA3EF8AA753EF850383EF7F6033EF79BD63EF741B03EF6E7923EF68D7B3EF6336C3EF5D9653EF57F663EF5256E3EF4CB7D3EF471943EF417B33EF3BDD93EF364073EF30A3C3EF2B0783EF256BC3EF1FD083EF1A35B3EF149B53EF0F0173EF096803EF03CF03EEFE3683EEF89E73EEF306E3EEED6FC3EEE7D913EEE242D3EEDCAD13EED717B3EED182E3EECBEE73EEC65A73EEC0C6F3EEBB33E3EEB5A143EEB00F13EEAA7D53EEA4EC03EE9F5B33EE99CAC3EE943AD3EE8EAB43EE891C33EE838D93EE7DFF53EE787193EE72E433EE6D5753EE67CAE3EE623ED3EE5CB333EE572813EE519D53EE4C1303EE468913EE40FFA3EE3B76A3EE35EE03EE3065D3EE2ADE13EE2556C3EE1FCFD3EE1A4953EE14C343EE0F3DA3EE09B863EE043393EDFEAF33EDF92B33EDF3A7A3EDEE2483EDE8A1C3EDE31F73EDDD9D83EDD81C03EDD29AE3EDCD1A33EDC799F3EDC21A13EDBC9AA3EDB71B93EDB19CE3EDAC1EA3EDA6A0D3EDA12353ED9BA653ED9629A3ED90AD63ED8B3193ED85B623ED803B13ED7AC063ED754623ED6FCC43ED6A52D3ED64D9B3ED5F6103ED59E8C3ED5470D3ED4EF953ED498233ED440B73ED3E9513ED391F23ED33A983ED2E3453ED28BF83ED234B13ED1DD703ED186353ED12F003ED0D7D23ED080A93ED029873ECFD26A3ECF7B543ECF24433ECECD393ECE76343ECE1F36
  | 6 => 0x3F142A4B3F13FAE33F13CB7F3F139C203F136CC73F133D733F130E233F12DED93F12AF943F1280533F1251183F1221E23F11F2B03F11C3843F11945C3F11653A3F11361C3F1107033F10D7F03F10A8E13F1079D73F104AD13F101BD13F0FECD63F0FBDDF3F0F8EED3F0F60003F0F31183F0F02353F0ED3573F0EA47D3F0E75A83F0E46D83F0E180C3F0DE9463F0DBA843F0D8BC63F0D5D0E3F0D2E5A3F0CFFAB3F0CD1013F0CA25B3F0C73BA3F0C451D3F0C16863F0BE7F33F0BB9643F0B8ADA3F0B5C553F0B2DD43F0AFF583F0AD0E13F0AA26E3F0A73FF3F0A45963F0A17303F09E8D03F09BA743F098C1C3F095DC93F092F7A3F0901303F08D2EA3F08A4A93F08766C3F0848343F081A003F07EBD03F07BDA53F078F7F3F07615C3F07333F3F0705253F06D7103F06A8FF3F067AF33F064CEB3F061EE73F05F0E83F05C2ED3F0594F63F0567043F0539163F050B2C3F04DD473F04AF653F0481883F0453B03F0425DB3F03F80B3F03CA3F3F039C773F036EB33F0340F43F0313393F02E5823F02B7CF3F028A203F025C763F022ECF3F02012D3F01D38F3F01A5F53F01785F3F014ACD3F011D3F3F00EFB63F00C2303F0094AF3F0067313F0039B83F000C433EFFBDA33EFF62C83EFF07F63EFEAD2B3EFE52693EFDF7AE3EFD9CFC3EFD42513EFCE7AF3EFC8D143EFC32813EFBD7F73EFB7D743EFB22F83EFAC8853EFA6E1A
  | 7 => 0x3F2C92303F2C5FDD3F2C2D913F2BFB4C3F2BC90D3F2B96D43F2B64A33F2B32773F2B00533F2ACE353F2A9C1D3F2A6A0C3F2A38023F2A05FE3F29D4003F29A2093F2970193F293E2F3F290C4B3F28DA6E3F28A8973F2876C73F2844FD3F2813393F27E17C3F27AFC53F277E143F274C693F271AC53F26E9283F26B7903F2685FF3F2654743F2622EF3F25F1703F25BFF83F258E863F255D1A3F252BB43F24FA543F24C8FA3F2497A73F2466593F2435123F2403D13F23D2963F23A1613F2370323F233F093F230DE63F22DCC93F22ABB23F227AA13F2249953F2218903F21E7913F21B6983F2185A53F2154B73F2123D03F20F2EE3F20C2123F20913C3F20606C3F202FA23F1FFEDE3F1FCE1F3F1F9D663F1F6CB33F1F3C063F1F0B5E3F1EDABC3F1EAA203F1E798A3F1E48F93F1E186E3F1DE7E93F1DB7693F1D86EF3F1D567B3F1D260C3F1CF5A33F1CC5403F1C94E23F1C648A3F1C34373F1C03EA3F1BD3A23F1BA3603F1B73243F1B42ED3F1B12BB3F1AE28F3F1AB2693F1A82483F1A522C3F1A22163F19F2063F19C1FA3F1991F43F1961F43F1931F93F1902033F18D2133F18A2283F1872423F1842623F1812873F17E2B13F17B2E13F1783163F1753503F1723903F16F3D53F16C41F3F16946E3F1664C23F16351C3F16057B3F15D5DF3F15A6483F1576B63F15472A3F1517A33F14E8213F14B8A43F14892C3F1459B9
  | 8 => 0x3F46A8793F46724B3F463C263F46060A3F45CFF73F4599EC3F4563EB3F452DF23F44F8013F44C21A3F448C3B3F4456653F4420983F43EAD33F43B5173F437F643F4349B93F4314173F42DE7D3F42A8EC3F4273633F423DE33F42086B3F41D2FC3F419D953F4168373F4132E13F40FD933F40C84E3F4093113F405DDD3F4028B03F3FF38C3F3FBE713F3F895D3F3F54523F3F1F4F3F3EEA543F3EB5623F3E80773F3E4B953F3E16BB3F3DE1E83F3DAD1E3F3D785C3F3D43A23F3D0EF03F3CDA463F3CA5A43F3C710B3F3C3C783F3C07EE3F3BD36C3F3B9EF23F3B6A803F3B36153F3B01B23F3ACD573F3A99043F3A64B93F3A30763F39FC3A3F39C8063F3993DA3F395FB53F392B983F38F7833F38C3753F388F6F3F385B713F38277A3F37F38B3F37BFA43F378BC43F3757EB3F37241A3F36F0513F36BC8F3F3688D43F3655213F3621753F35EDD13F35BA343F35869F3F3553113F351F8A3F34EC0B3F34B8933F3485223F3451B83F341E563F33EAFB3F33B7A73F33845B3F3351163F331DD73F32EAA03F32B7713F3284483F3251263F321E0C3F31EAF93F31B7EC3F3184E73F3151E93F311EF23F30EC023F30B9193F3086373F30535C3F3020873F2FEDBA3F2FBAF43F2F88343F2F557C3F2F22CA3F2EF0203F2EBD7C3F2E8ADF3F2E58483F2E25B93F2DF3303F2DC0AE3F2D8E333F2D5BBF3F2D29513F2CF6EA3F2CC48A
  | 9 => 0x3F62FE523F62C2ED3F6287933F624C463F6211053F61D5D03F619AA73F615F8A3F6124793F60E9753F60AE7C3F60738F3F6038AE3F5FFDD83F5FC30F3F5F88513F5F4D9F3F5F12F93F5ED85F3F5E9DD03F5E634D3F5E28D53F5DEE693F5DB4093F5D79B43F5D3F6B3F5D052D3F5CCAFA3F5C90D33F5C56B73F5C1CA73F5BE2A23F5BA8A83F5B6EB93F5B34D63F5AFAFE3F5AC1313F5A876F3F5A4DB93F5A140D3F59DA6C3F59A0D73F59674C3F592DCD3F58F4583F58BAEF3F5881903F58483C3F580EF33F57D5B53F579C813F5763593F572A3B3F56F1273F56B81F3F567F213F56462D3F560D453F55D4673F559B933F5562CA3F552A0B3F54F1573F54B8AD3F54800E3F5447793F540EEF3F53D66E3F539DF93F53658D3F532D2C3F52F4D43F52BC883F5284453F524C0C3F5213DE3F51DBBA3F51A39F3F516B8F3F5133893F50FB8D3F50C39B3F508BB33F5053D43F501C003F4FE4363F4FAC753F4F74BF3F4F3D123F4F056F3F4ECDD53F4E96463F4E5EC03F4E27443F4DEFD13F4DB8683F4D81093F4D49B43F4D12683F4CDB253F4CA3EC3F4C6CBD3F4C35973F4BFE7B3F4BC7683F4B905E3F4B595E3F4B22673F4AEB7A3F4AB4963F4A7DBB3F4A46EA3F4A10213F49D9633F49A2AD3F496C003F49355D3F48FEC33F48C8323F4891AA3F485B2B3F4824B53F47EE493F47B7E53F47818A3F474B393F4714F03F46DEB0
  | 10 => 0x3F8136AA3F81154E3F80F3FA3F80D2AF3F80B16D3F8090333F806F023F804DDA3F802CBA3F800BA33F7FD5293F7F931D3F7F51223F7F0F383F7ECD5E3F7E8B963F7E49DE3F7E08383F7DC6A13F7D851C3F7D43A73F7D02423F7CC0EE3F7C7FAB3F7C3E783F7BFD553F7BBC433F7B7B403F7B3A4E3F7AF96D3F7AB89B3F7A77D93F7A37273F79F6863F79B5F43F7975723F7935003F78F49E3F78B44B3F7874083F7833D53F77F3B13F77B39D3F7773983F7733A33F76F3BE3F76B3E73F7674203F7634683F75F4C03F75B5273F75759C3F7536213F74F6B53F74B7583F74780A3F7438CB3F73F99B3F73BA7A3F737B673F733C633F72FD6E3F72BE883F727FB03F7240E73F72022D3F71C3813F7184E33F7146543F7107D33F70C9613F708AFD3F704CA73F700E603F6FD0263F6F91FB3F6F53DE3F6F15CF3F6ED7CE3F6E99DB3F6E5BF63F6E1E1F3F6DE0563F6DA29A3F6D64ED3F6D274D3F6CE9BB3F6CAC373F6C6EC03F6C31573F6BF3FB3F6BB6AD3F6B796D3F6B3C3A3F6AFF143F6AC1FC3F6A84F13F6A47F43F6A0B043F69CE213F69914B3F6954833F6917C73F68DB193F689E783F6861E33F68255C3F67E8E23F67AC753F6770143F6733C13F66F77A3F66BB403F667F133F6642F33F6606DF3F65CAD83F658EDD3F6552EF3F65170E3F64DB393F649F713F6463B53F6428063F63EC633F63B0CC3F6375423F6339C4
  | 11 => 0x3F932B393F93046A3F92DDA83F92B6F43F92904D3F9269B33F9243273F921CA83F91F6363F91CFD23F91A97A3F91832F3F915CF23F9136C13F91109E3F90EA873F90C47D3F909E803F90788F3F9052AB3F902CD43F9007093F8FE14B3F8FBB9A3F8F95F53F8F705C3F8F4AD03F8F254F3F8EFFDC3F8EDA743F8EB5193F8E8FC93F8E6A863F8E454F3F8E20243F8DFB053F8DD5F23F8DB0EB3F8D8BEF3F8D67003F8D421C3F8D1D433F8CF8773F8CD3B63F8CAF013F8C8A573F8C65B93F8C41263F8C1C9F3F8BF8233F8BD3B33F8BAF4D3F8B8AF33F8B66A53F8B42613F8B1E293F8AF9FC3F8AD5DA3F8AB1C33F8A8DB73F8A69B63F8A45BF3F8A21D43F89FDF43F89DA1E3F89B6543F8992943F896EDE3F894B343F8927943F8903FE3F88E0743F88BCF43F88997E3F8876133F8852B23F882F5B3F880C0F3F87E8CE3F87C5963F87A2693F877F463F875C2E3F87391F3F87161B3F86F3203F86D0303F86AD4A3F868A6E3F86679B3F8644D33F8622153F85FF603F85DCB63F85BA153F85977E3F8574F03F85526D3F852FF33F850D823F84EB1C3F84C8BF3F84A66B3F8484213F8461E13F843FAA3F841D7C3F83FB583F83D93D3F83B72C3F8395233F8373253F83512F3F832F433F830D5F3F82EB863F82C9B53F82A7ED3F82862E3F8264793F8242CC3F8221293F81FF8E3F81DDFD3F81BC743F819AF43F81797D3F81580F
  | 12 => 0x3FA89CB23FA86CFD3FA83D603FA80DDA3FA7DE6B3FA7AF143FA77FD33FA750A93FA721953FA6F2983FA6C3B23FA694E23FA666283FA637843FA608F73FA5DA7F3FA5AC1D3FA57DD13FA54F9A3FA521793FA4F36E3FA4C5773FA497963FA469CA3FA43C133FA40E713FA3E0E33FA3B36B3FA386073FA358B73FA32B7C3FA2FE563FA2D1433FA2A4453FA2775B3FA24A853FA21DC23FA1F1143FA1C4793FA197F13FA16B7E3FA13F1D3FA112D03FA0E6973FA0BA703FA08E5D3FA0625C3FA0366F3FA00A943F9FDECC3F9FB3173F9F87743F9F5BE43F9F30663F9F04FB3F9ED9A23F9EAE5B3F9E83263F9E58033F9E2CF33F9E01F43F9DD7073F9DAC2B3F9D81613F9D56A93F9D2C023F9D016D3F9CD6E93F9CAC773F9C82153F9C57C53F9C2D853F9C03573F9BD93A3F9BAF2D3F9B85323F9B5B473F9B316C3F9B07A23F9ADDE93F9AB4403F9A8AA73F9A611F3F9A37A73F9A0E3F3F99E4E83F99BBA03F9992683F9969403F9940283F9917203F98EE273F98C53E3F989C653F98739B3F984AE13F9822363F97F99A3F97D10E3F97A8913F9780233F9757C43F972F743F9707333F96DF013F96B6DE3F968ECA3F9666C43F963ECD3F9616E53F95EF0C3F95C7403F959F843F9577D53F9550353F9528A43F9501203F94D9AB3F94B2443F948AEB3F9463A03F943C623F9415333F93EE123F93C6FE3F939FF93F9379013F935216
  | 13 => 0x3FC43D903FC3FCB63FC3BC0E3FC37B983FC33B533FC2FB403FC2BB5D3FC27BAA3FC23C283FC1FCD53FC1BDB13FC17EBD3FC13FF73FC1015F3FC0C2F63FC084BA3FC046AC3FC008CB3FBFCB163FBF8D8E3FBF50323FBF13023FBED5FD3FBE99243FBE5C753FBE1FF23FBDE3983FBDA7693FBD6B643FBD2F883FBCF3D53FBCB84B3FBC7CEB3FBC41B23FBC06A23FBBCBB93FBB90F93FBB565F3FBB1BED3FBAE1A23FBAA77E3FBA6D803FBA33A83FB9F9F63FB9C0693FB987023FB94DC13FB914A43FB8DBAC3FB8A2D93FB86A2A3FB8319E3FB7F9373FB7C0F43FB788D43FB750D73FB718FD3FB6E1463FB6A9B13FB6723F3FB63AEF3FB603C13FB5CCB43FB595C93FB55F003FB528573FB4F1D03FB4BB693FB485233FB44EFE3FB418F83FB3E3133FB3AD4D3FB377A73FB342203FB30CB93FB2D7713FB2A2483FB26D3D3FB238513FB203843FB1CED43FB19A433FB165CF3FB1317A3FB0FD423FB0C9273FB095293FB061493FB02D853FAFF9DF3FAFC6543FAF92E73FAF5F953FAF2C603FAEF9473FAEC6493FAE93673FAE60A13FAE2DF63FADFB663FADC8F13FAD96983FAD64593FAD32353FAD002B3FACCE3C3FAC9C673FAC6AAC3FAC390B3FAC07843FABD6163FABA4C23FAB73883FAB42673FAB115F3FAAE0703FAAAF9A3FAA7EDD3FAA4E383FAA1DAC3FA9ED393FA9BCDE3FA98C9B3FA95C703FA92C5C3FA8FC613FA8CC7E
  | 14 => 0x3FEE35423FEDC4523FED541A3FECE4973FEC75C73FEC07A73FEB9A343FEB2D6D3FEAC14F3FEA55D73FE9EB033FE980D13FE917403FE8AE4B3FE845F33FE7DE333FE7770B3FE710793FE6AA7A3FE6450D3FE5E0303FE57BE03FE5181D3FE4B4E43FE452343FE3F00B3FE38E673FE32D473FE2CCA93FE26C8C3FE20CED3FE1ADCC3FE14F273FE0F0FD3FE0934C3FE036123FDFD94F3FDF7D013FDF21273FDEC5BE3FDE6AC73FDE10403FDDB6273FDD5C7C3FDD033D3FDCAA683FDC51FE3FDBF9FC3FDBA2613FDB4B2D3FDAF45E3FDA9DF43FDA47ED3FD9F2483FD99D043FD948203FD8F39B3FD89F753FD84BAB3FD7F83E3FD7A52D3FD752763FD700183FD6AE133FD65C663FD60B0F3FD5BA0F3FD569643FD5190E3FD4C90B3FD4795A3FD429FC3FD3DAEF3FD38C333FD33DC63FD2EFA83FD2A1D93FD254573FD207223FD1BA393FD16D9B3FD121493FD0D5403FD089813FD03E0A3FCFF2DC3FCFA7F53FCF5D543FCF12FA3FCEC8E63FCE7F173FCE358C3FCDEC453FCDA3413FCD5A803FCD12013FCCC9C43FCC81C73FCC3A0B3FCBF28F3FCBAB523FCB64543FCB1D953FCAD7133FCA90CF3FCA4AC73FCA04FC3FC9BF6D3FC97A193FC935003FC8F0223FC8AB7D3FC867123FC822E03FC7DEE73FC79B263FC7579C3FC7144A3FC6D12F3FC68E4A3FC64B9B3FC609223FC5C6DF3FC584D03FC542F53FC5014F3FC4BFDC3FC47E9D
  | 15 => 0x406AC5E840582329404EF9D34048BEA34043FADD40401A67403CD3094039FA17403774BA403530E9403321F340313E8B402F7FAD402DDFED402C5B00402AED744029947840284DB9402717444025EF724024D4DB4023C64A4022C2B34021C9294020D8E0401FF123401F114F401E38D5401D6734401C9BF8401BD6BA401B171A401A5CC14019A7634018F6B740184A7B4017A2734016FE6840165E264015C17E401528434014924D4013FF7640136F9B4012E299401258534011D0AB40114B864010C8CA40104860400FCA31400F4E27400ED42E400E5C34400DE626400D71F3400CFF8C400C8EE0400C1FE1400BB282400B46B5400ADC6D400A739F400A0C3F4009A6434009419F4008DE4B40087C3C40081B694007BBCA40075D56400700064006A3D1400648B04005EE9D4005958F40053D824004E66E4004904D40043B1A4003E6CE40039365400340D94002EF2640029E4540024E334001FEEB4001B069400162A8400115A44000C95940007DC3400032DF3FFFD1533FFF3E3C3FFEAC733FFE1BF13FFD8CB13FFCFEAB3FFC71DA3FFBE6383FFB5BC03FFAD26B3FFA4A343FF9C3173FF93D0E3FF8B8143FF834243FF7B13A3FF72F513FF6AE653FF62E713FF5AF713FF531613FF4B43E3FF438023FF3BCAB3FF342353FF2C89C3FF24FDC3FF1D7F33FF160DC3FF0EA953FF0751A3FF000683FEF8C7D3FEF19543FEEA6EC
  | _ => 0

/-- Tn[i] (R250) as an FP32 pattern. -/
def tnPat (i : Nat) : Nat :=
  let j := if i < 2048 then 2047 - i else i - 2048
  let v := tnChunk (j / 128) / 2 ^ (32 * (j % 128)) % 2 ^ 32
  if i < 2048 then v + 2 ^ 31 else v

/-- The normal deviate of a draw (R123): interpolation between two entries, rounded once. The index
4095 gives the last entry. -/
def rngnPat (u : Nat) : Nat :=
  let i := u / 2 ^ 20 % 2 ^ 12
  let f := u / 2 ^ 8 % 2 ^ 12
  if i == 4095 then tnPat 4095
  else
    match unpackF .f32 (tnPat i), unpackF .f32 (tnPat (i + 1)) with
    | .fin n1 m1 e1, .fin n2 m2 e2 =>
      let d := sumExact n2 m2 e2 (!n1) m1 e1
      -- Tn[i] + (Tn[i+1] - Tn[i]) * f / 4096
      let s := sumExact n1 m1 e1 (d.1 < 0) (d.1.natAbs * f) (d.2 - 12)
      if s.1 == 0 then 0 else (roundF .f32 .rne false (s.1 < 0) s.1.natAbs s.2 false).1
    | _, _ => 0

end Sys2Proof.Machine
end

