-- ==== Sys2Proof/Machine/Exchange.lean ====
section
/-! DEFINITION. Lane exchange and random numbers (R120-R123). -/

namespace Sys2Proof.Machine

/-- The source lane of a lane (R120). -/
def shflSource (mode : ShflMode) (l b : Nat) : Option Nat :=
  match mode with
  | .src => some (b % 32)
  | .back => if b ≤ l then some (l - b) else none
  | .ahead => if l + b ≤ 31 then some (l + b) else none
  | .mirror => some (l ^^^ b % 32)
  | .rot => some ((l + b % 32) % 32)

/-- `shfl` (R120). -/
def execShfl (o : OpDAB) (p : BitVec 6) (mode : ShflMode) (imm : Bool) (lane : BitVec 5) (s : State) :=
  let i : Instr := .shfl o p mode imm lane
  s.aluLong i fun g l =>
    let b := if imm then lane.toNat else (g.rg o.b l).toNat
    match (shflSource mode l b).filter fun k => (g.cl.active o.m).getLsbD k with
    | some k => [g.rg o.a k, 1]
    | none => [g.rg o.a l, 0]

/-- One step of a reduction: value and flags (R121). (DEDUCED, log 70) -/
def redStep (op : RedOp) (t : RedTy) (rm : Rm) (x y : Word) : Word × Nat :=
  let it : IntTy := match t with | .w32 => .w32 | _ => .i32
  match op with
  | .add =>
    if t = .f32 then let r := fpAdd .f32 rm x.toNat y.toNat; (w32 r.1, r.2) else (x + y, 0)
  | .min =>
    if t = .f32 then let r := fpMinMax false x.toNat y.toNat; (w32 r.1, r.2)
    else (if intOf it x ≤ intOf it y then x else y, 0)
  | .max =>
    if t = .f32 then let r := fpMinMax true x.toNat y.toNat; (w32 r.1, r.2)
    else (if intOf it y ≤ intOf it x then x else y, 0)
  | .and => (x &&& y, 0)
  | .or => (x ||| y, 0)
  | .xor => (x ^^^ y, 0)

/-- The combination of a list in order, with the flags of its steps. (DEDUCED, log 70) -/
def redFold (op : RedOp) (t : RedTy) (rm : Rm) (xs : List Word) : Option Word × Nat :=
  xs.foldl (fun acc x =>
    match acc.1 with
    | none => (some x, acc.2)
    | some a => let r := redStep op t rm a x; (some r.1, acc.2 ||| r.2)) (none, 0)

/-- The identity of an operation (R121). -/
def redIdentity (op : RedOp) (t : RedTy) : Word :=
  match op, t with
  | .add, _ => 0
  | .and, _ => 0xFFFFFFFF
  | .or, _ => 0
  | .xor, _ => 0
  | .min, .i32 => 0x7FFFFFFF
  | .min, .w32 => 0xFFFFFFFF
  | .min, .f32 => 0x7F800000
  | .max, .i32 => 0x80000000
  | .max, .w32 => 0
  | .max, .f32 => 0xFF800000

/-- Flags of a reduction are the group's: a match with TE traps every active lane (R103). (DEDUCED, log 70) -/
def State.reduceFinish (s : State) (i : Instr) (fl : Nat) (ws : List RegWrite) : Eff :=
  let act := s.active i
  let traps := s.cg.trapsOn fl && act != 0
  let s := s.modCg fun g => g.raiseFlags fl
  if traps then .done s (trapLanes act codeFp 0)
  else .done (s.writeLater (writeNames i) act ws) []

/-- `redux`: the combination over the active lanes, in each of them (R121). -/
def execRedux (o : OpDA) (op : RedOp) (t : RedTy) (rm : Rm) (s : State) :=
  let i : Instr := .redux o op t rm
  s.run i fun s =>
    let g := s.cg
    let r := redFold op t rm ((lanesOf (s.active i)).map fun l => g.rg o.a l)
    s.reduceFinish i r.2 (s.lanewise i fun _ _ => [r.1.getD 0])

/-- `prfx`: the combination up to each lane, or below it (R121). -/
def execPrfx (o : OpDA) (op : RedOp) (t : RedTy) (rm : Rm) (excl : Bool) (s : State) :=
  let i : Instr := .prfx o op t rm excl
  s.run i fun s =>
    let g := s.cg
    let lanes := lanesOf (s.active i)
    let upTo (l : Nat) : Option Word × Nat :=
      redFold op t rm ((lanes.filter fun k => if excl then k < l else k ≤ l).map fun k => g.rg o.a k)
    let fl := lanes.foldl (fun n l => n ||| (upTo l).2) 0
    s.reduceFinish i fl (s.lanewise i fun _ l => [(upTo l).1.getD (redIdentity op t)])

/-- Draws of the counter hash (R123): e from a, the stream from b. -/
def execRng (o : OpDAB) (t : RngTy) (s : State) :=
  s.alu (.rng o t) fun g l =>
    let e := (g.rg o.a l).toNat
    let st := (g.rg o.b l).toNat
    [w32 (match t with
      | .w32 => draw32 g.rngseed.toNat st e
      | .w16 => draw16 g.rngseed.toNat st e)]

def execRngn (o : OpDAB) (s : State) :=
  s.alu (.rngn o) fun g l =>
    [w32 (rngnPat (draw32 g.rngseed.toNat (g.rg o.b l).toNat (g.rg o.a l).toNat))]

def execRngf (o : OpDAB) (s : State) :=
  s.alu (.rngf o) fun g l =>
    [w32 (rngfPat (draw32 g.rngseed.toNat (g.rg o.b l).toNat (g.rg o.a l).toNat))]

end Sys2Proof.Machine
end

