-- ==== Sys2Proof/Machine/Float.lean ====
section
/-! DEFINITION. Floating-point instructions (R110-R116). -/

namespace Sys2Proof.Machine

/-- FP32 operands a and b. -/
def fpAB (o : OpFDAB) (f : Nat → Nat → Nat × Nat) (g : Group) (l : Nat) : List Word × Nat :=
  fpOne (f (g.rg o.a l).toNat (g.rg o.b l).toNat)

def execFadd (o : OpFDAB) (s : State) := s.fp (.fadd o) (fpAB o (fpAdd .f32 o.rm))
def execFsub (o : OpFDAB) (s : State) := s.fp (.fsub o) (fpAB o (fpSub .f32 o.rm))
def execFmul (o : OpFDAB) (s : State) := s.fp (.fmul o) (fpAB o (fpMul .f32 o.rm))

/-- `ffma`: one rounding (R110). -/
def execFfma (o : OpDABC) (rm : Rm) (s : State) :=
  s.fp (.ffma o rm) fun g l =>
    fpOne (fpFma .f32 rm (g.rg o.a l).toNat (g.rg o.b l).toNat (g.rg o.c l).toNat)

def execFmin (o : OpDAB) (s : State) :=
  s.fp (.fmin o) fun g l => fpOne (fpMinMax false (g.rg o.a l).toNat (g.rg o.b l).toNat)
def execFmax (o : OpDAB) (s : State) :=
  s.fp (.fmax o) fun g l => fpOne (fpMinMax true (g.rg o.a l).toNat (g.rg o.b l).toNat)
def execFabs (o : OpDA) (s : State) := s.alu (.fabs o) fun g l => [w32 (fpAbs (g.rg o.a l).toNat)]
def execFneg (o : OpDA) (s : State) := s.alu (.fneg o) fun g l => [w32 (fpNeg (g.rg o.a l).toNat)]

/-- `fsetp`: the comparison goes to a predicate (R110). -/
def execFsetp (p : BitVec 6) (a b : BitVec 7) (cc : FCmp) (m : Mods) (s : State) :=
  s.fp (.fsetp p a b cc m) fun g l =>
    let r := fpCompare cc (g.rg a l).toNat (g.rg b l).toNat
    ([if r.1 then 1 else 0], r.2)

/-- The format of a paired instruction. -/
def pairTy : PTy → FTy
  | .f16 => .f16 | .bf16 => .bf16

/-- The halves of a register. -/
def lowHalf (w : Word) : Nat := w.toNat % 65536
def highHalf (w : Word) : Nat := w.toNat / 65536

/-- Both halves of a paired instruction with two sources (R112). -/
def pairAB (o : OpPDAB) (f : Nat → Nat → Nat × Nat) (g : Group) (l : Nat) : List Word × Nat :=
  let a := g.rg o.a l
  let b := g.rg o.b l
  fpPair (f (lowHalf a) (lowHalf b)) (f (highHalf a) (highHalf b))

def execPfadd (o : OpPDAB) (s : State) := s.fp (.pfadd o) (pairAB o (fpAdd (pairTy o.t) o.rm))
def execPfmul (o : OpPDAB) (s : State) := s.fp (.pfmul o) (pairAB o (fpMul (pairTy o.t) o.rm))
def execPffma (o : OpDABC) (t : PTy) (rm : Rm) (s : State) :=
  s.fp (.pffma o t rm) fun g l =>
    let a := g.rg o.a l
    let b := g.rg o.b l
    let c := g.rg o.c l
    fpPair (fpFma (pairTy t) rm (lowHalf a) (lowHalf b) (lowHalf c))
      (fpFma (pairTy t) rm (highHalf a) (highHalf b) (highHalf c))

/-- `fclass`: a one-hot class of the low bits of a (R113). -/
def execFclass (o : OpDA) (t : FTy) (s : State) :=
  s.alu (.fclass o t) fun g l => [w32 (2 ^ fpClass t ((g.rg o.a l).toNat % 2 ^ fmtBits t))]

/-- A unary FP32 function with a long-latency result (R91, R114). -/
def State.fpUnary (s : State) (i : Instr) (o : OpFDA) (f : Rm → Nat → Nat × Nat) :
    Host.Outcome State Fault Refusal :=
  s.fpLong i fun g l => fpOne (f o.rm (g.rg o.a l).toNat)

def execRcp (o : OpFDA) (s : State) := s.fpUnary (.rcp o) o fpRcp
def execRsq (o : OpFDA) (s : State) := s.fpUnary (.rsq o) o fpRsq
def execSqrt (o : OpFDA) (s : State) := s.fpUnary (.sqrt o) o fpSqrt
def execExp2 (o : OpFDA) (s : State) := s.fpUnary (.exp2 o) o fpExp2
def execLog2 (o : OpFDA) (s : State) := s.fpUnary (.log2 o) o fpLog2
def execFrnd (o : OpFDA) (s : State) :=
  s.fp (.frnd o) fun g l => fpOne (fpRound o.rm (g.rg o.a l).toNat)

/-- `cvt` (R115, R116). -/
def execCvt (o : OpDA) (dt st : CvtTy) (rm : RmS) (sat : Bool) (b : BitVec 7) (c : BitVec 6) (s : State) :=
  s.fp (.cvt o dt st rm sat b c) fun g l =>
    let a := (g.rg o.a l).toNat
    match rm with
    | .det r => fpOne (fpCvt dt st r sat a)
    | .rs =>
      match dt with
      | .fp t => fpOne (fpCvtRs t sat a (draw16 g.rngseed.toNat (g.rs c).toNat (g.rg b l).toNat))
      | _ => fpOne (fpCvt dt st .rne sat a)

end Sys2Proof.Machine
end

