-- ==== Sys2Proof/Machine/Scalar.lean ====
section
/-! DEFINITION. Predicate and scalar instructions (R117-R119). -/

namespace Sys2Proof.Machine

/-- A source predicate, inverted on request (R118). -/
def Group.pin (g : Group) (p : BitVec 6) (neg : Bool) (l : Nat) : Bool := g.rp p l != neg

/-- A predicate of two sources. -/
def State.pred2 (s : State) (i : Instr) (o : OpPred) (f : Bool → Bool → Bool) :
    Host.Outcome State Fault Refusal :=
  s.alu i fun g l => [predWord (f (g.pin o.pa o.na l) (g.pin o.pb o.nb l))]

def execPand (o : OpPred) (s : State) := s.pred2 (.pand o) o and
def execPor (o : OpPred) (s : State) := s.pred2 (.por o) o or
def execPxor (o : OpPred) (s : State) := s.pred2 (.pxor o) o xor
def execPmov (o : OpPred1) (s : State) := s.alu (.pmov o) fun g l => [predWord (g.pin o.pa o.na l)]

/-- The answer of `vote` over the values of the active lanes (R118). -/
def voteOf (mode : VoteMode) (xs : List Bool) : Bool :=
  match mode with
  | .some => xs.any id
  | .each => xs.all id
  | .same => xs.all id || xs.all not
  | .odd => xs.countP id % 2 == 1

/-- `vote`: one value over the active lanes, in every active lane (R118). -/
def execVote (o : OpPred1) (mode : VoteMode) (s : State) :=
  s.alu (.vote o mode) fun g _ =>
    [predWord (voteOf mode ((lanesOf (g.cl.active o.m)).map fun l => g.pin o.pa o.na l))]

/-- `elect`: the lowest active lane whose source is true (R118). -/
def execElect (o : OpPred1) (s : State) :=
  s.alu (.elect o) fun g l =>
    [predWord (((lanesOf (g.cl.active o.m)).find? fun k => g.pin o.pa o.na k) == some l)]

/-- A scalar result from two scalars (R119). -/
def State.sAB (s : State) (i : Instr) (o : OpSDAB) (f : Word → Word → Word) :
    Host.Outcome State Fault Refusal :=
  s.uniform i fun g _ => [f (g.rs o.a) (g.rs o.b)]

def execSmov (d a : BitVec 6) (m : Mods) (s : State) := s.uniform (.smov d a m) fun g _ => [g.rs a]
def execSmovi (d : BitVec 6) (imm : Word) (m : Mods) (s : State) :=
  s.uniform (.smovi d imm m) fun _ _ => [imm]
def execSadd (o : OpSDAB) (s : State) := s.sAB (.sadd o) o fun a b => a + b
def execSsub (o : OpSDAB) (s : State) := s.sAB (.ssub o) o fun a b => a - b
def execSmul (o : OpSDAB) (s : State) := s.sAB (.smul o) o fun a b => a * b
def execSand (o : OpSDAB) (s : State) := s.sAB (.sand o) o fun a b => a &&& b
def execSor (o : OpSDAB) (s : State) := s.sAB (.sor o) o fun a b => a ||| b
def execSxor (o : OpSDAB) (s : State) := s.sAB (.sxor o) o fun a b => a ^^^ b
def execSshl (o : OpSDAB) (s : State) := s.sAB (.sshl o) o shlW
def execSshr (o : OpSDAB) (s : State) := s.sAB (.sshr o) o shrW

/-- `ssetp`: the comparison goes to a predicate in every active lane (R119). -/
def execSsetp (p a b : BitVec 6) (cc : Cmp) (t : IntTy) (m : Mods) (s : State) :=
  s.alu (.ssetp p a b cc t m) fun g _ => [predWord (cmpInt cc (intOf t (g.rs a)) (intOf t (g.rs b)))]

def execS2g (d : BitVec 7) (a : BitVec 6) (m : Mods) (s : State) := s.alu (.s2g d a m) fun g _ => [g.rs a]

/-- `g2s`: the named lane's register, whatever that lane's state (R119). -/
def execG2s (d : BitVec 6) (a : BitVec 7) (lane : BitVec 5) (m : Mods) (s : State) :=
  s.uniform (.g2s d a lane m) fun g _ => [g.rg a lane.toNat]

def execSlea (o : OpSDAB) (imm : BitVec 24) (sh : BitVec 5) (s : State) :=
  s.sAB (.slea o imm sh) o fun a b => leaW a b imm sh

end Sys2Proof.Machine
end

