-- ==== Sys2Proof/Machine/Sync.lean ====
section
/-! DEFINITION. Barriers, register rendezvous and launch (R45, R124-R135). -/

namespace Sys2Proof.Machine

/-- The barrier an instruction names (R129). -/
def barNumber (g : Group) (br : Bool) (bn : BitVec 6) : Nat := if br then (g.rs bn).toNat else bn.toNat

/-- The phase an arrival is booked to, or its trap (R129): answers whether it is the next phase. A phase
whose commit an absent line holds has its arrivals: one more goes to the next phase (DESIGN CHOICE, log 86).
An arrival whose count exceeds the groups left traps also where R11 and R12 have the program end without a
trap (DESIGN CHOICE, log 87). -/
def Team.bookable (t : Team) (b grp cnt : Nat) : Except Nat Bool :=
  let x := t.barrier b
  let next := x.cur.arrived.getLsbD grp || x.closing
  if b ≠ 0 ∧ t.live < cnt then .error codeBarMismatch
  else if next && x.nxt.arrived.getLsbD grp then .error codeBarOver
  else
    let k := if next then x.nxt else x.cur
    if b ≠ 0 ∧ 0 < k.booked ∧ k.expected ≠ cnt then .error codeBarMismatch else .ok next

/-- Books the issuing group's arrival, marks its place in the queue (R38), writes the phase, and tests
completion (R126): the state and the booked phase. -/
def State.arrive (s : State) (i : Instr) (b cnt : Nat) (wr : Bool) : Except Nat (State × Word) :=
  let g := s.curGroup
  match s.ct.bookable b g cnt with
  | .error code => .error code
  | .ok next =>
    let ph := (s.ct.barrier b).count + (if next then 1 else 0)
    let s := s.modCt fun t => t.book b g cnt (s.core s.ct.core).cycles next
    let s := (s.modCg fun x => { x with queue := x.queue ++ [.arrival b ph] }).markReleased s.curTeam g s.net.length
    let s := if wr then s.writeLater (writeNames i) 1 (regWrites (writeNames i) 0 [ph]) else s
    .ok (s.testBarrier s.curTeam b 3, ph)

/-- Lanes wait on a phase that is open (R129). (DEDUCED, log 72) -/
def State.await (s : State) (act : Mask) (b : Nat) (w : Word) : State :=
  if (s.ct.barrier b).completed w then s
  else s.modCg fun g => g.modLanes act fun _ x => { x with st := .barrier b w }

/-- The place of the group's last `bar`; a group whose team has a slice-end stop requested stops after
it (R315), unless the request is held (R326). -/
def State.barStop (s : State) : State :=
  let c := s.cl
  let stop := !s.ct.isHalted && (match s.ct.stop with | .slice _ => true | _ => false)
  s.modCg fun g => { g with stopped := g.stopped || stop, barStop := some (c.hdr, c.slot) }

/-- Count operand of an arrival: barrier 0 expects every group not ended (R129). -/
def barCount (t : Team) (b : Nat) (cnt : BitVec 5) : Nat := if b = 0 then t.live else cnt.toNat + 1

/-- An arrival is not booked yet: a phase of the barrier that is complete is being committed, which is one
step for it (R126), or a group of higher index has made its arrival in the same core cycle (R127). (DEDUCED, log 72) -/
def State.barEarly (s : State) (b : Nat) : Bool :=
  let x := s.ct.barrier b
  (x.closing && !s.phaseHeld s.curTeam b) ||
    (match x.last with
     | some (c, g) => c == (s.core s.ct.core).cycles && decide (s.curGroup < g)
     | none => false)

/-- The phase that a `bar.sync` has completed by its own arrival is being committed, which is one step for it:
its lanes do not wait on the phase (R126, R130), unless an absent line or a held range keeps it open (R144).
(DEDUCED, log 72) -/
def State.committing (s : State) (b : Nat) : Bool := (s.ct.barrier b).closing && !s.phaseHeld s.curTeam b

/-- A `bar.sync` whose arrival has filled the phase retires when the phase is complete. (DEDUCED, log 72) -/
def State.syncCommitted (s : State) (act : Mask) (b : Nat) : Eff :=
  if s.committing b then .wait s .engine
  else if (s.ct.barrier b).closing then .done (s.await act b (s.ct.barrier b).count).barStop []
  else .done s.barStop []

/-- What `bar.arrive` and `bar.sync` do once they are booked to a phase. (DEDUCED, log 72) -/
def State.booked (s : State) (act : Mask) (b : Nat) (ph : Word) (sync : Bool) : Eff :=
  if sync && s.committing b && ph == (s.ct.barrier b).count then
    .wait (s.next.modCg fun g => { g with since := some s.fresh }) .engine
  else .done (State.barStop (if sync then s.await act b ph else s)) []

/-- `bar.arrive` and `bar.sync`. (DEDUCED, log 72) -/
def State.barBook (s : State) (i : Instr) (o : OpBar) (sync : Bool) : Host.Outcome State Fault Refusal :=
  s.run i fun s =>
    let act := s.active i
    let b := barNumber s.cg o.br o.bn
    if act = 0 then .done s []
    else if 15 < b then .done s (trapLanes act codeOperand 0)
    else if s.cg.since.isSome then s.syncCommitted act b
    else if s.barEarly b then .wait s .engine
    else
      match s.arrive i b (barCount s.ct b o.cnt) o.wr with
      | .error code =>
        .done (s.modCt fun t => t.noteArrival b s.curGroup (s.core s.ct.core).cycles) (trapLanes act code 0)
      | .ok (s', ph) => s'.booked act b ph sync

def execBarArrive (o : OpBar) (s : State) := s.barBook (.barArrive o) o false
def execBarSync (o : OpBar) (s : State) := s.barBook (.barSync o) o true

/-- `bar.wait`. -/
def execBarWait (br : Bool) (sx bn : BitVec 6) (m : Mods) (s : State) :=
  let i : Instr := .barWait br sx bn m
  s.run i fun s =>
    let act := s.active i
    let b := barNumber s.cg br bn
    if act = 0 then .done s []
    else if 15 < b then .done s (trapLanes act codeOperand 0)
    else .done (s.await act b (s.cg.rs sx)).barStop []

/-- `barq` (R131). -/
def execBarq (q : BitVec 2) (br : Bool) (sd bn : BitVec 6) (m : Mods) (s : State) :=
  let i : Instr := .barq q br sd bn m
  s.run i fun s =>
    let act := s.active i
    let b := barNumber s.cg br bn
    if act = 0 then .done s []
    else if 15 < b then .done s (trapLanes act codeOperand 0)
    else
      let x := s.ct.barrier b
      let bit (k : Booking) (v : Nat) : Nat := if k.arrived.getLsbD s.curGroup then v else 0
      let v : Word := match q.toNat with
        | 0 => x.count
        | 1 => BitVec.ofNat 32 x.cur.booked
        | 2 => BitVec.ofNat 32 (if b = 0 then s.ct.live else x.cur.expected)
        | _ => BitVec.ofNat 32 (bit x.cur 1 + bit x.nxt 2)
      .done (s.writeLater (writeNames i) 1 (regWrites (writeNames i) 0 [v])) []

/-! ### Rendezvous (R45, R132, R133) -/

/-- The donation of n registers from one group to another (R45). (DEDUCED, log 73) -/
def Team.donate (t : Team) (d r n : Nat) : Team :=
  let t := t.modGroup d fun g =>
    let names := (List.range n).map fun i => RegName.g (g.budget - n + i)
    { names.foldl Group.release g with budget := g.budget - n }
  t.modGroup r fun g =>
    let names := (List.range n).map fun i => RegName.g (g.budget + i)
    { names.foldl Group.release g with budget := g.budget + n }

/-- A held group's word retires (R133). (DEDUCED, log 73) -/
def State.retireHeld (s : State) (k g : Nat) : State :=
  let here := { s with curTeam := k, curGroup := g }
  match heldInstr here.cg.hold (wordMods here.cl.word) with
  | none => s
  | some i =>
    let s' := here.modCg fun x => { x with hold := .none }
    { (here.retire s' i []).spend here.ct.core 0 1 with curTeam := s.curTeam, curGroup := s.curGroup }

/-- A rendezvous instruction: its checks, then the pairing or the hold (R133). (DEDUCED, log 73) -/
def State.rendezvous (s : State) (i : Instr) (peer : Nat) (give : Option Nat) :
    Host.Outcome State Fault Refusal :=
  s.run i fun s =>
    let act := s.active i
    let s := s.modCg fun g => { g with hold := .none }
    let me := s.curGroup
    let t := s.ct
    let p := t.group peer
    let small := match give with | some n8 => decide (s.cg.budget < 8 * n8 + 8) | none => false
    let paired := if p.park != .rendezvous then none else match give, p.hold with
      | some n8, .take q => if q = me then some n8 else none
      | none, .give q n8 => if q = me then some n8 else none
      | _, _ => none
    let fits (n8 : Nat) : Bool :=
      decide ((if give.isSome then p.budget else s.cg.budget) + 8 * n8 ≤ 128)
    if act = 0 then .done s []
    else if t.groups.length ≤ peer ∨ peer = me ∨ small = true then .done s (trapLanes act codeOperand 0)
    else if p.ended then .done s (trapLanes act codeBarMismatch 0)
    else
      match paired with
      | none =>
        .wait (s.modCg fun g =>
          { g with hold := match give with | some n8 => .give peer n8 | none => .take peer }) .rendezvous
      | some n8 =>
        if fits n8 then
          let s := s.modCt fun t =>
            if give.isSome then t.donate me peer (8 * n8) else t.donate peer me (8 * n8)
          .done (s.retireHeld s.curTeam peer) []
        else .done (s.trapHeld s.curTeam peer codeBarMismatch) (trapLanes act codeBarMismatch 0)

def execReggive (peer : BitVec 5) (n8 : BitVec 4) (m : Mods) (s : State) :=
  s.rendezvous (.reggive peer n8 m) peer.toNat (some n8.toNat)
def execRegtake (peer : BitVec 5) (m : Mods) (s : State) :=
  s.rendezvous (.regtake peer m) peer.toNat none

/-! ### launch (R134, R135) -/

/-- The checks of one lane of `launch`. (DEDUCED, log 22) -/
def State.launchCheck (s : State) (o : OpDAB) (l : Nat) : Chk TmLoc :=
  let off := (s.cg.rg o.a l).toNat
  if 7 < (s.cg.rg o.b l).toNat then .error (codeOperand, 0)
  else if off % 128 ≠ 0 then .error (codeMisaligned, off)
  else if s.ct.tmSize < off + 128 then .error (codeRange, off)
  else
    match s.checkRange s.ct s.cg l .tm off 128 true true false with
    | .error e => .error e
    | .ok (.tm loc) => .ok loc
    | .ok (.sk _) => .error (codeRange, off)

/-- `launch`: each active lane submits its record in lane order; the records are read once the drained
entries have been performed and their lines are present. -/
def execLaunch (o : OpDAB) (s : State) :=
  let i : Instr := .launch o
  s.draining i fun s =>
    let lanes := (lanesOf (s.active i)).map fun l => (l, s.launchCheck o l)
    let wait := lanes.any fun x => match x.2 with
      | .ok loc => !s.engineReads s.ct.core loc 128 s.fresh
      | .error _ => false
    if wait then .wait s .engine
    else
      let r := lanes.foldl (fun (acc : State × List RegWrite × List LaneStop) x =>
        match x.2 with
        | .error (code, a) => (acc.1, acc.2.1, acc.2.2 ++ [{ lane := x.1, why := .trap code a }])
        | .ok loc =>
          let q := (s.cg.rg o.b x.1).toNat
          let (s', ok) := acc.1.enqueue s.ct.ctx q (parseRecord (s.tmBytes loc 128)) (launchOrder s.ct.core x.1)
          (s', acc.2.1 ++ regWrites (writeNames i) x.1 [if ok then 0 else 1], acc.2.2)) (s, [], [])
      let good := maskOf fun l => r.2.1.any fun w => w.lane == l
      .done (r.1.writeLater (writeNames i) good r.2.1) r.2.2

end Sys2Proof.Machine
end

