-- ==== Sys2Proof/Machine/Dispatch.lean ====
section
/-! DEFINITION. The meaning of each instruction and event, arm by arm. -/

namespace Sys2Proof.Machine

/-- Runs one instruction or event. -/
def exec (i : Instr) (s : State) : Host.Outcome State Fault Refusal :=
  match i with
  | .nop m => Sys2Proof.Machine.execNop m s
  | .bra off m => Sys2Proof.Machine.execBra off m s
  | .brx o => Sys2Proof.Machine.execBrx o s
  | .call off m => Sys2Proof.Machine.execCall off m s
  | .callx o => Sys2Proof.Machine.execCallx o s
  | .ret m => Sys2Proof.Machine.execRet m s
  | .exit m => Sys2Proof.Machine.execExit m s
  | .enrol j off m => Sys2Proof.Machine.execEnrol j off m s
  | .rejoin j m => Sys2Proof.Machine.execRejoin j m s
  | .yield m => Sys2Proof.Machine.execYield m s
  | .add o => Sys2Proof.Machine.execAdd o s
  | .sub o => Sys2Proof.Machine.execSub o s
  | .mul o => Sys2Proof.Machine.execMul o s
  | .mulhi o => Sys2Proof.Machine.execMulhi o s
  | .mad o t sat => Sys2Proof.Machine.execMad o t sat s
  | .min o => Sys2Proof.Machine.execMin o s
  | .max o => Sys2Proof.Machine.execMax o s
  | .abs o => Sys2Proof.Machine.execAbs o s
  | .neg o => Sys2Proof.Machine.execNeg o s
  | .and o => Sys2Proof.Machine.execAnd o s
  | .or o => Sys2Proof.Machine.execOr o s
  | .xor o => Sys2Proof.Machine.execXor o s
  | .not o => Sys2Proof.Machine.execNot o s
  | .shl o => Sys2Proof.Machine.execShl o s
  | .shr o => Sys2Proof.Machine.execShr o s
  | .sar o => Sys2Proof.Machine.execSar o s
  | .clz o => Sys2Proof.Machine.execClz o s
  | .popc o => Sys2Proof.Machine.execPopc o s
  | .brev o => Sys2Proof.Machine.execBrev o s
  | .bfe o => Sys2Proof.Machine.execBfe o s
  | .bfi o => Sys2Proof.Machine.execBfi o s
  | .sel o p => Sys2Proof.Machine.execSel o p s
  | .mov o => Sys2Proof.Machine.execMov o s
  | .movi d imm m => Sys2Proof.Machine.execMovi d imm m s
  | .addi o imm => Sys2Proof.Machine.execAddi o imm s
  | .lea o imm sh => Sys2Proof.Machine.execLea o imm sh s
  | .add64 o => Sys2Proof.Machine.execAdd64 o s
  | .sub64 o => Sys2Proof.Machine.execSub64 o s
  | .isetp p a b cc t m => Sys2Proof.Machine.execIsetp p a b cc t m s
  | .shli o => Sys2Proof.Machine.execShli o s
  | .shri o => Sys2Proof.Machine.execShri o s
  | .sari o => Sys2Proof.Machine.execSari o s
  | .fadd o => Sys2Proof.Machine.execFadd o s
  | .fsub o => Sys2Proof.Machine.execFsub o s
  | .fmul o => Sys2Proof.Machine.execFmul o s
  | .ffma o rm => Sys2Proof.Machine.execFfma o rm s
  | .fmin o => Sys2Proof.Machine.execFmin o s
  | .fmax o => Sys2Proof.Machine.execFmax o s
  | .fabs o => Sys2Proof.Machine.execFabs o s
  | .fneg o => Sys2Proof.Machine.execFneg o s
  | .fsetp p a b cc m => Sys2Proof.Machine.execFsetp p a b cc m s
  | .pfadd o => Sys2Proof.Machine.execPfadd o s
  | .pfmul o => Sys2Proof.Machine.execPfmul o s
  | .pffma o t rm => Sys2Proof.Machine.execPffma o t rm s
  | .fclass o t => Sys2Proof.Machine.execFclass o t s
  | .rcp o => Sys2Proof.Machine.execRcp o s
  | .rsq o => Sys2Proof.Machine.execRsq o s
  | .sqrt o => Sys2Proof.Machine.execSqrt o s
  | .exp2 o => Sys2Proof.Machine.execExp2 o s
  | .log2 o => Sys2Proof.Machine.execLog2 o s
  | .cvt o dt st rm sat b c => Sys2Proof.Machine.execCvt o dt st rm sat b c s
  | .frnd o => Sys2Proof.Machine.execFrnd o s
  | .pand o => Sys2Proof.Machine.execPand o s
  | .por o => Sys2Proof.Machine.execPor o s
  | .pxor o => Sys2Proof.Machine.execPxor o s
  | .pmov o => Sys2Proof.Machine.execPmov o s
  | .vote o mode => Sys2Proof.Machine.execVote o mode s
  | .elect o => Sys2Proof.Machine.execElect o s
  | .smov d a m => Sys2Proof.Machine.execSmov d a m s
  | .smovi d imm m => Sys2Proof.Machine.execSmovi d imm m s
  | .sadd o => Sys2Proof.Machine.execSadd o s
  | .ssub o => Sys2Proof.Machine.execSsub o s
  | .smul o => Sys2Proof.Machine.execSmul o s
  | .sand o => Sys2Proof.Machine.execSand o s
  | .sor o => Sys2Proof.Machine.execSor o s
  | .sxor o => Sys2Proof.Machine.execSxor o s
  | .sshl o => Sys2Proof.Machine.execSshl o s
  | .sshr o => Sys2Proof.Machine.execSshr o s
  | .ssetp p a b cc t m => Sys2Proof.Machine.execSsetp p a b cc t m s
  | .s2g d a m => Sys2Proof.Machine.execS2g d a m s
  | .g2s d a lane m => Sys2Proof.Machine.execG2s d a lane m s
  | .slea o imm sh => Sys2Proof.Machine.execSlea o imm sh s
  | .shfl o p mode imm lane => Sys2Proof.Machine.execShfl o p mode imm lane s
  | .redux o op t rm => Sys2Proof.Machine.execRedux o op t rm s
  | .prfx o op t rm excl => Sys2Proof.Machine.execPrfx o op t rm excl s
  | .rng o t => Sys2Proof.Machine.execRng o t s
  | .rngn o => Sys2Proof.Machine.execRngn o s
  | .rngf o => Sys2Proof.Machine.execRngf o s
  | .ld d ad t v acq pro m => Sys2Proof.Machine.execLd d ad t v acq pro m s
  | .st b ad t v rel m => Sys2Proof.Machine.execSt b ad t v rel m s
  | .ldu d ad t v m => Sys2Proof.Machine.execLdu d ad t v m s
  | .pwait b ad m => Sys2Proof.Machine.execPwait b ad m s
  | .ptest p ad m => Sys2Proof.Machine.execPtest p ad m s
  | .atom o => Sys2Proof.Machine.execAtom o s
  | .red o => Sys2Proof.Machine.execRed o s
  | .atomcas o => Sys2Proof.Machine.execAtomcas o s
  | .fence scope m => Sys2Proof.Machine.execFence scope m s
  | .tagget o cl => Sys2Proof.Machine.execTagget o cl s
  | .tagset b ad m => Sys2Proof.Machine.execTagset b ad m s
  | .tagptr o => Sys2Proof.Machine.execTagptr o s
  | .copyIn o => Sys2Proof.Machine.execCopyIn o s
  | .copyOut o => Sys2Proof.Machine.execCopyOut o s
  | .copySs d a x srcCl m => Sys2Proof.Machine.execCopySs d a x srcCl m s
  | .copyMm d a x m => Sys2Proof.Machine.execCopyMm d a x m s
  | .copyt o out t16 => Sys2Proof.Machine.execCopyt o out t16 s
  | .gather o => Sys2Proof.Machine.execGather o s
  | .scatter o => Sys2Proof.Machine.execScatter o s
  | .cwinit o => Sys2Proof.Machine.execCwinit o s
  | .cwadd o => Sys2Proof.Machine.execCwadd o s
  | .cwwait o => Sys2Proof.Machine.execCwwait o s
  | .cwtest p o => Sys2Proof.Machine.execCwtest p o s
  | .copytag d a mm x m => Sys2Proof.Machine.execCopytag d a mm x m s
  | .berth a n m => Sys2Proof.Machine.execBerth a n m s
  | .unberth o => Sys2Proof.Machine.execUnberth o s
  | .mmas o ta tb => Sys2Proof.Machine.execMmas o ta tb s
  | .mmax o => Sys2Proof.Machine.execMmax o s
  | .accw a b c m => Sys2Proof.Machine.execAccw a b c m s
  | .accz row count m => Sys2Proof.Machine.execAccz row count m s
  | .accld d row m => Sys2Proof.Machine.execAccld d row m s
  | .accst row b m => Sys2Proof.Machine.execAccst row b m s
  | .accout d row b t rm sat n1 m => Sys2Proof.Machine.execAccout d row b t rm sat n1 m s
  | .cvtb d a b ty bl32 m => Sys2Proof.Machine.execCvtb d a b ty bl32 m s
  | .accflg d m => Sys2Proof.Machine.execAccflg d m s
  | .chain k row b mask m => Sys2Proof.Machine.execChain k row b mask m s
  | .chapply k row b m => Sys2Proof.Machine.execChapply k row b m s
  | .chld k a off m => Sys2Proof.Machine.execChld k a off m s
  | .chldId k m => Sys2Proof.Machine.execChldId k m s
  | .chst k a off m => Sys2Proof.Machine.execChst k a off m s
  | .slip sid cap1 rb1 a m => Sys2Proof.Machine.execSlip sid cap1 rb1 a m s
  | .slipcl o => Sys2Proof.Machine.execSlipcl o s
  | .ferry o => Sys2Proof.Machine.execFerry o s
  | .take d sid m => Sys2Proof.Machine.execTake d sid m s
  | .land sid a m => Sys2Proof.Machine.execLand sid a m s
  | .ltstat o => Sys2Proof.Machine.execLtstat o s
  | .ltfree o => Sys2Proof.Machine.execLtfree o s
  | .barArrive o => Sys2Proof.Machine.execBarArrive o s
  | .barWait br sx bn m => Sys2Proof.Machine.execBarWait br sx bn m s
  | .barSync o => Sys2Proof.Machine.execBarSync o s
  | .barq q br sd bn m => Sys2Proof.Machine.execBarq q br sd bn m s
  | .reggive peer n8 m => Sys2Proof.Machine.execReggive peer n8 m s
  | .regtake peer m => Sys2Proof.Machine.execRegtake peer m s
  | .launch o => Sys2Proof.Machine.execLaunch o s
  | .trap imm m => Sys2Proof.Machine.execTrap imm m s
  | .eret m => Sys2Proof.Machine.execEret m s
  | .sread rd sys m => Sys2Proof.Machine.execSread rd sys m s
  | .swrite ra sys m => Sys2Proof.Machine.execSwrite ra sys m s
  | .watch sc k sp idx a b m => Sys2Proof.Machine.execWatch sc k sp idx a b m s
  | .unwatch sc idx m => Sys2Proof.Machine.execUnwatch sc idx m s
  | .dbrk imm m => Sys2Proof.Machine.execDbrk imm m s
  | .ctxsaveAcc o => Sys2Proof.Machine.execCtxsaveAcc o s
  | .ctxsavePre o => Sys2Proof.Machine.execCtxsavePre o s
  | .ctxsaveSlice o => Sys2Proof.Machine.execCtxsaveSlice o s
  | .ctxsaveMig o => Sys2Proof.Machine.execCtxsaveMig o s
  | .ctxsaveDump o => Sys2Proof.Machine.execCtxsaveDump o s
  | .ctxloadAcc o => Sys2Proof.Machine.execCtxloadAcc o s
  | .ctxloadImg o => Sys2Proof.Machine.execCtxloadImg o s
  | .pilotset a ax b idx m => Sys2Proof.Machine.execPilotset a ax b idx m s
  | .pilotget d a ax idx m => Sys2Proof.Machine.execPilotget d a ax idx m s
  | .perfrd d hi ev m => Sys2Proof.Machine.execPerfrd d hi ev m s
  | .sample a off m => Sys2Proof.Machine.execSample a off m s
  | .haltt m => Sys2Proof.Machine.execHaltt m s
  | .resumet m => Sys2Proof.Machine.execResumet m s
  | .tlbinvAll m => Sys2Proof.Machine.execTlbinvAll m s
  | .tlbinvPage a m => Sys2Proof.Machine.execTlbinvPage a m s
  | .udf u => Sys2Proof.Machine.execUdf u s
  | .clauseDecode t g => Sys2Proof.Machine.execClauseDecode t g s
  | .headerWaitRelease t g => Sys2Proof.Machine.execHeaderWaitRelease t g s
  | .switchParkRelease t g => Sys2Proof.Machine.execSwitchParkRelease t g s
  | .scoreboardRelease t g => Sys2Proof.Machine.execScoreboardRelease t g s
  | .cadenceTurn t g => Sys2Proof.Machine.execCadenceTurn t g s
  | .longLatencyResultLands t g n => Sys2Proof.Machine.execLongLatencyResultLands t g n s
  | .homePerform n j => Sys2Proof.Machine.execHomePerform n j s
  | .parkedLdRelease t g => Sys2Proof.Machine.execParkedLdRelease t g s
  | .heldEntryPerformed n => Sys2Proof.Machine.execHeldEntryPerformed n s
  | .pwaitRelease t g => Sys2Proof.Machine.execPwaitRelease t g s
  | .cwwaitRelease t g => Sys2Proof.Machine.execCwwaitRelease t g s
  | .promotedAcquire n => Sys2Proof.Machine.execPromotedAcquire n s
  | .reorderBufferRelease n j => Sys2Proof.Machine.execReorderBufferRelease n j s
  | .trackerEntryFree t g => Sys2Proof.Machine.execTrackerEntryFree t g s
  | .copyOperationComplete n => Sys2Proof.Machine.execCopyOperationComplete n s
  | .svcansRetry fn pos => Sys2Proof.Machine.execSvcansRetry fn pos s
  | .svcansFail fn pos => Sys2Proof.Machine.execSvcansFail fn pos s
  | .faultRecordDelivery n => Sys2Proof.Machine.execFaultRecordDelivery n s
  | .handlerEntry t g => Sys2Proof.Machine.execHandlerEntry t g s
  | .pageMigrationOut ctx va => Sys2Proof.Machine.execPageMigrationOut ctx va s
  | .pageMigrationIn ctx va ia => Sys2Proof.Machine.execPageMigrationIn ctx va ia s
  | .migClearRetry t g => Sys2Proof.Machine.execMigClearRetry t g s
  | .hostShootdown ctx => Sys2Proof.Machine.execHostShootdown ctx s
  | .ferryRowArrival n => Sys2Proof.Machine.execFerryRowArrival n s
  | .slipAnswer n => Sys2Proof.Machine.execSlipAnswer n s
  | .landDelivery n => Sys2Proof.Machine.execLandDelivery n s
  | .landingTimeout core e => Sys2Proof.Machine.execLandingTimeout core e s
  | .berthReadDone n => Sys2Proof.Machine.execBerthReadDone n s
  | .mmaxOperationComplete n => Sys2Proof.Machine.execMmaxOperationComplete n s
  | .chainChunkComplete t g => Sys2Proof.Machine.execChainChunkComplete t g s
  | .carryMoveComplete t g => Sys2Proof.Machine.execCarryMoveComplete t g s
  | .finePreemptionRequest t => Sys2Proof.Machine.execFinePreemptionRequest t s
  | .preemptEntry t => Sys2Proof.Machine.execPreemptEntry t s
  | .sliceEndEntry t => Sys2Proof.Machine.execSliceEndEntry t s
  | .sliceEndFallback t => Sys2Proof.Machine.execSliceEndFallback t s
  | .launchRecordTaken fn off bytes => Sys2Proof.Machine.execLaunchRecordTaken fn off bytes s
  | .dispatcherCycle => Sys2Proof.Machine.execDispatcherCycle s
  | .periodBoundary => Sys2Proof.Machine.execPeriodBoundary s
  | .pilotDecision temperature => Sys2Proof.Machine.execPilotDecision temperature s
  | .controlTick hist => Sys2Proof.Machine.execControlTick hist s
  | .energyCapReached => Sys2Proof.Machine.execEnergyCapReached s
  | .hangReport t g => Sys2Proof.Machine.execHangReport t g s
  | .pilotAccessArrival n => Sys2Proof.Machine.execPilotAccessArrival n s
  | .pilotEnable v => Sys2Proof.Machine.execPilotEnable v s
  | .pilotStop v => Sys2Proof.Machine.execPilotStop v s
  | .pilotReplayUpdate v => Sys2Proof.Machine.execPilotReplayUpdate v s
  | .functionLevelReset fn => Sys2Proof.Machine.execFunctionLevelReset fn s
  | .contextCreate fn => Sys2Proof.Machine.execContextCreate fn s
  | .contextDestroy fn => Sys2Proof.Machine.execContextDestroy fn s
  | .registerWrite w => Sys2Proof.Machine.execRegisterWrite w s
  | .debugHalt fn z => Sys2Proof.Machine.execDebugHalt fn z s
  | .debugResume fn z => Sys2Proof.Machine.execDebugResume fn z s
  | .extend => Sys2Proof.Machine.execExtend s
  | .rearm => Sys2Proof.Machine.execRearm s
  | .getVersion => Sys2Proof.Machine.execGetVersion s
  | .getCapabilities => Sys2Proof.Machine.execGetCapabilities s
  | .negotiateAlgorithms => Sys2Proof.Machine.execNegotiateAlgorithms s
  | .getDigests => Sys2Proof.Machine.execGetDigests s
  | .getCertificate => Sys2Proof.Machine.execGetCertificate s
  | .challenge nonce => Sys2Proof.Machine.execChallenge nonce s
  | .getMeasurements index => Sys2Proof.Machine.execGetMeasurements index s
  | .powerOn image key sig => Sys2Proof.Machine.execPowerOn image key sig s
  | .stageHandoff image key sig => Sys2Proof.Machine.execStageHandoff image key sig s
  | .ready fuseAndCalibration => Sys2Proof.Machine.execReady fuseAndCalibration s
  | .stageTimeLimit => Sys2Proof.Machine.execStageTimeLimit s
  | .thermalTrip => Sys2Proof.Machine.execThermalTrip s
  | .powerFault => Sys2Proof.Machine.execPowerFault s
  | .contributionArrival fn link sender collective round payload => Sys2Proof.Machine.execContributionArrival fn link sender collective round payload s
  | .waitingContributionLands n => Sys2Proof.Machine.execWaitingContributionLands n s
  | .stragglers n => Sys2Proof.Machine.execStragglers n s
  | .causewayLinkDown link => Sys2Proof.Machine.execCausewayLinkDown link s
  | .causewayLinkUp link => Sys2Proof.Machine.execCausewayLinkUp link s
  | .scrubUnitFinished unit => Sys2Proof.Machine.execScrubUnitFinished unit s

end Sys2Proof.Machine
end

