-- ==== Sys2Proof/Machine/Run.lean ====
section
/-! DEFINITION. One step of the device: the steps that are enabled, the choice among them (R48, R162),
issuing a word, and the passing of time (R2, R227, R315, R327, R368). -/

namespace Sys2Proof.Machine

/-! ### Issuing a word -/

/-- The instruction at the issuing slot of a clause. -/
def Clause.instr (c : Clause) : Except DecodeError Instr :=
  decodeWords c.word.toNat (c.words.getD (c.slot + 1) 0).toNat

/-- Issues the word of the current group: held while a name it reads is pending, or one that it writes has
not returned (R42, R93). -/
def State.issueWord (s : State) : Host.Outcome State Fault Refusal :=
  let g := s.cg
  let c := g.cl
  match c.instr with
  | .error e =>
    .next (s.decodeTrap s.curTeam s.curGroup c.issue c.hdr (decodeCode e) c.word c.here)
  | .ok i =>
    if g.park = .none ∧ g.holds i = true then
      .next (s.modCg fun g => { g with park := .scoreboard })
    else exec i s

/-- Whether re-executing the word a group is held at would let it go on. -/
def State.wouldGo (s : State) (k g : Nat) : Bool :=
  let s' := { s with curTeam := k, curGroup := g }
  match s'.issueWord with
  | .next r => r.group k g != s.group k g
  | _ => true

/-- A group with a word to issue (R48). (DEDUCED, log 78) -/
def State.issuable (s : State) (t : Team) (g : Group) : Bool :=
  g.clause.isSome && t.running g && !g.entryDue &&
    (match g.park with
     | .none => true
     | .retry => true
     | .engine => s.wouldGo t.key g.index
     | .release => s.wouldGo t.key g.index
     | _ => false)

/-- The group each port issues from: the one that issued least recently, then the lower slot (R48). -/
def betterGroup (a b : Nat × Group) : Bool :=
  a.2.stamp < b.2.stamp || (a.2.stamp == b.2.stamp && a.2.slot < b.2.slot)

/-- The step at which the tenant of a context is throttled. -/
def State.throttle (s : State) (ctx : Nat) : Nat := s.appliedStep (s.ctxFunc ctx)

/-- A group is passed over while the phase of its port is below its tenant's step (R373). -/
def State.throttled (s : State) (t : Team) (g : Group) : Bool :=
  decide ((s.core t.core).phases.getD g.port 0 < s.throttle t.ctx)

/-- Groups that the ports may issue from, with the key of their team (R48, R373). -/
def State.issuableGroups (s : State) : List (Nat × Nat × Group) :=
  s.teams.flatMap fun t =>
    (t.groups.filter fun g => s.issuable t g && !s.throttled t g).map fun g => (t.core, t.key, g)

/-- A word that has left the group's slot counts as activity of its core (R378). -/
def State.slotUsed (s t : State) : State :=
  if (t.team? s.curTeam).isNone || (t.group s.curTeam s.curGroup).stamp == s.tick + 1 then t.spend s.ct.core 0 1
  else t

/-- Issues a word, with its energy. -/
def State.issueSlot (s : State) : Host.Outcome State Fault Refusal := onNext s.issueWord s.slotUsed

/-- The groups that the arbiters choose. (DESIGN CHOICE, log 3, 76) -/
def State.arbiter (s : State) : List (Nat × Nat) :=
  let all := s.issuableGroups
  (all.filter fun a => all.all fun b =>
    !(b.1 == a.1 && b.2.2.port == a.2.2.port && betterGroup b.2 a.2)).map fun a => (a.2.1, a.2.2.index)

/-! ### Enabled events -/

/-- Events about one group. -/
def groupEvents (t : Team) (g : Group) : List Instr :=
  let k := t.key
  let i := g.index
  [.clauseDecode k i, .headerWaitRelease k i, .switchParkRelease k i, .scoreboardRelease k i,
   .cadenceTurn k i, .parkedLdRelease k i, .pwaitRelease k i, .cwwaitRelease k i, .trackerEntryFree k i,
   .handlerEntry k i, .migClearRetry k i, .chainChunkComplete k i, .carryMoveComplete k i,
   .hangReport k i] ++
  (List.range g.pending.length).map fun n => .longLatencyResultLands k i n

/-- Events about one copy-family operation: any unit that is still to do. -/
def copyEvents (s : State) (i : Nat) (o : CopyOp) : List Instr :=
  .copyOperationComplete i ::
    (o.todo.flatMap fun j => [.homePerform (s.net.length + i) j, .reorderBufferRelease i j])

/-- Steps of the device that may be possible; `exec` answers with a fault for one that is not.
(DESIGN CHOICE, log 4) -/
def State.events (s : State) : List Instr :=
  (s.teams.flatMap fun t =>
    [.preemptEntry t.key, .sliceEndEntry t.key, .sliceEndFallback t.key] ++
      t.groups.flatMap fun g => groupEvents t g) ++
  ((List.range s.net.length).flatMap fun i =>
    [.homePerform i 0, .heldEntryPerformed i, .promotedAcquire i]) ++
  (s.copies.zipIdx.flatMap fun x => copyEvents s x.2 x.1) ++
  ((List.range (s.rowWrites.length + (s.cores.map fun c => c.2.landing.length).sum)).map fun i =>
    .homePerform (s.net.length + s.copies.length + i) 0) ++
  ((List.range s.faults.length).map fun i => .faultRecordDelivery i) ++
  ((List.range s.rowsInFlight.length).map fun i => .ferryRowArrival i) ++
  ((List.range s.answers.length).map fun i => .slipAnswer i) ++
  ((List.range s.lands.length).map fun i => .landDelivery i) ++
  (s.cores.flatMap fun c => c.2.landing.map fun e => .landingTimeout c.1 e.1) ++
  ((List.range s.mmaxs.length).flatMap fun i => [.berthReadDone i, .mmaxOperationComplete i]) ++
  ((List.range s.pilotNet.length).map fun i => .pilotAccessArrival i) ++
  ((List.range s.copies.length).map fun i => .stragglers i) ++
  ((List.range s.waitingIn.length).map fun i => .waitingContributionLands i) ++
  (s.scrub.map fun u => .scrubUnitFinished u) ++
  [.dispatcherCycle, .periodBoundary, .energyCapReached,
   .pilotDecision (Config.measuredTemperature s.tick), .controlTick s.tickSums] ++
  (match s.inbox with | [] => [] | e :: _ => [e])

/-- A step of the device: a group's word, or an event. -/
inductive Action where
  | issue (k g : Nat)
  | event (i : Instr)
  deriving DecidableEq, Repr

/-- The outcome is a next state. -/
def isNext (o : Host.Outcome State Fault Refusal) : Bool :=
  match o with | .next _ => true | _ => false

/-- The device runs once its start-up is complete, and until a thermal trip or power fault (R387,
R392). A device that holds teams is taken as started. (DEDUCED, log 82) -/
def State.stopped (s : State) : Bool :=
  match s.boot.stage with | .stopped => true | _ => false

/-- The enabled steps. (DESIGN CHOICE, log 3) -/
def State.actions (s : State) : List Action :=
  (s.arbiter.map fun a => .issue a.1 a.2) ++
    ((s.events.filter fun e => isNext (exec e s)).map .event)

/-- What is left of the inbox when an event has been taken. (DESIGN CHOICE, log 4) -/
def State.inboxAfter (s : State) (e : Instr) : List Instr :=
  match s.inbox with
  | x :: r => if x = e then r else s.inbox
  | [] => []

/-- Performs a step; an event taken from the environment leaves the inbox. (DESIGN CHOICE, log 4, 66) -/
def State.perform (s : State) (a : Action) : Host.Outcome State Fault Refusal :=
  match a with
  | .issue k g => { s with curTeam := k, curGroup := g }.issueSlot
  | .event e => onNext (exec e s) fun t => { t with inbox := s.inboxAfter e }

/-! ### Time -/

/-- Core cycles that pass on a core with this step. -/
def State.elapsed (s : State) (core : Nat) : Nat := Config.cycleGap (s.tick * 4096 + core)

/-- A group waits in a way its watchdog counts (R327): at a barrier, or at a `cwwait`. -/
def Group.waiting (g : Group) : Option Nat :=
  if g.halted || g.ended then none
  else match g.park with
    | .cwwait false => some 2
    | .cwwait true => some 3
    | _ => if g.readyLanes == 0 && g.lanesIn LaneState.isBarrier != 0 then some 1 else none

/-- Some party of the wait is halted (R328). -/
def State.partyHalted (s : State) (t : Team) (g : Group) (kind : Nat) : Bool :=
  let own := t.groups.any fun x => x.index != g.index && !x.ended && x.halted
  if kind = 3 && t.peloton then
    own || (s.teams.any fun u => t.sibling u && u.key != t.key &&
      u.groups.any fun x => !x.ended && x.halted)
  else own

/-- The watchdogs and the slice-end limit of a team advance (R315, R326-R328). (DESIGN CHOICE, log 5) -/
def State.teamTime (s : State) (t : Team) : Team :=
  let d := s.elapsed t.core
  { t with
    groups := t.groups.map fun g =>
      match g.waiting with
      | some kind =>
        if s.partyHalted t g kind then g else { g with watchdog := g.watchdog + d }
      | none => g
    stop := match t.stop with
      | .slice left =>
        if t.isHalted then t.stop else .slice (left - d)
      | x => x }

/-- Cycle counts and landing timers of a core advance; a timer counts while its team is resident
(R227, R353). (DESIGN CHOICE, log 5) -/
def State.coreTime (s : State) (core : Nat) (c : Core) : Core :=
  let d := s.elapsed core
  { c with
    cycles := (c.cycles + d) % 2 ^ 64
    phases := c.phases.map fun n => (n + d) % 16
    landing := c.landing.map fun e =>
      if (s.team? e.2.team).isSome && !e.2.complete then
        (e.1, { e.2 with timer := e.2.timer.map fun n => n - d })
      else e }

/-- Tenants with teams resident on a core, without repeats. -/
def State.tenantsOn (s : State) (core : Nat) : List Nat :=
  ((s.teams.filter fun t => t.core == core && !t.departed).map fun t => t.ctx - 1).eraseDups

/-- Charges a tenant in units of 1/720,720 core cycle (R368): each whole token is taken from its balance,
else it is borrowed (R369). The physical function's tenant 0 holds no budget. (DEDUCED, log 51) -/
def Func.charged (f : Func) (fn units : Nat) : Func :=
  let all := f.charge + units
  let n := all / (720720 * 65536)
  let excess := n - f.balance
  let f := { f with charge := all % (720720 * 65536), tokens := f.tokens + n }
  if fn = 0 then f
  else { f with balance := f.balance - n, debt := f.debt + excess, borrowed := f.borrowed + excess }

/-- A core with resident teams charges its cycles, divided equally among their tenants (R368). (DEDUCED, log 51) -/
def State.chargeCore (s : State) (core : Nat) : State :=
  let ts := s.tenantsOn core
  let d := s.elapsed core
  foldS (fun s fn => s.modFunc fn fun f => f.charged fn (d * (720720 / ts.length))) s ts

/-- The dispatcher's clock: it stands at a tick or boundary until that is done, and runs into none
unseen (R372, R377). (DESIGN CHOICE, log 5; DEDUCED, log 52, 80) -/
def Disp.nextCycle (d : Disp) (gap : Nat) : Nat :=
  if d.boundaryDue || d.tickDue then d.cycle
  else min (d.cycle + gap) ((d.cycle / 2 ^ 18 + 1) * 2 ^ 18)

/-- The dispatcher's clock and what it brings: the events at the queues of its cycle are over when a later one
begins (R362), and the energy of a period ends with it (R376). -/
def Disp.pass (d : Disp) (gap energy : Nat) : Disp :=
  let c' := d.nextCycle (gap + d.ahead)
  let boundary := decide (d.cycle / 2 ^ 24 < c' / 2 ^ 24)
  { d with
    cycle := c'
    ahead := d.cycle + d.ahead - c'
    order := if d.cycle + d.ahead < c' then 0 else d.order
    boundaryDue := d.boundaryDue || boundary
    periodEnd := if boundary then energy else d.periodEnd
    tickDue := d.tickDue || decide (d.cycle / 2 ^ 18 < c' / 2 ^ 18) }

/-- The activity of a core that nothing else counts: bank accesses, beats and flits (R378). (DESIGN CHOICE, log 59) -/
def State.coreActivity (s : State) (core : Nat) : State :=
  foldS (fun s kind => s.spend core kind (Config.activity s.tick core kind)) s [3, 4, 5]

/-- That of the I/O die, its links and routers. -/
def State.ioActivity (s : State) : State :=
  foldS (fun s kind => s.spendDie 16 kind (Config.activity s.tick 4095 kind)) s [0, 1]

/-- Time passes: every core's clock, and the dispatcher's with its periods and ticks (R368, R372); the
errors that words then hold are free (R301, R395). (DESIGN CHOICE, log 5, 28, 76) -/
def State.passTime (s : State) : State :=
  let cores := (s.teams.map fun t => t.core).eraseDups
  let s := (foldS State.coreActivity (foldS State.chargeCore s cores) cores).ioActivity
  { s with
    teams := s.teams.map s.teamTime
    cores := s.cores.map fun c => (c.1, s.coreTime c.1 c.2)
    disp := s.disp.pass (Config.cycleGap (s.tick * 4096 + 4095)) s.energySum
    eccHbm := Config.eccHbm s.tick
    eccTm := Config.eccTm s.tick
    eccRows := Config.eccRows s.tick
    eccSk := Config.eccSk s.tick
    eccRegs := Config.eccRegs s.tick
    poisonTm := Config.poisonTm s.tick
    poisonHbm := Config.poisonHbm s.tick
    tick := s.tick + 1
    choice := 0 }

/-- The outcome of a step with time passed. -/
def afterStep (o : Host.Outcome State Fault Refusal) : Host.Outcome State Fault Refusal :=
  match o with
  | .next s => .next s.passTime
  | .fault f => .fault f
  | .refused r => .refused r

/-- The step chosen from the enabled ones; a device with nothing to do waits. (DESIGN CHOICE, log 3) -/
def State.stepPick (s : State) (n : Nat) : Host.Outcome State Fault Refusal :=
  let l := s.actions
  match l[n % (if l.length = 0 then 1 else l.length)]? with
  | none => .next s.passTime
  | some a => afterStep (s.perform a)

/-- A device that a thermal trip has stopped only takes the next start (R391, R392, R395); what else comes from
outside finds nothing that answers. (DEDUCED, log 82) -/
def State.stoppedStep (s : State) : Host.Outcome State Fault Refusal :=
  match s.inbox with
  | [] => .next s.passTime
  | .powerOn image key sig :: _ => afterStep (s.perform (.event (.powerOn image key sig)))
  | _ :: r => .next ({ s with inbox := r }).passTime

/-- One step (R11, R48, R162): which enabled step is next is open. (DESIGN CHOICE, log 3) -/
def State.oneStep (s : State) : Host.Outcome State Fault Refusal :=
  if s.stopped then s.stoppedStep
  else
    match s.choice with
    | 0 => s.stepPick (Config.pick s.tick)
    | 1 => afterStep s.issueSlot
    | n + 2 => s.stepPick n

/-! ### A word placed at the fetch -/

/-- A team of one group on core 0 in context 1, its group past the header of a clause of these words.
(DESIGN CHOICE, log 8) -/
def placedTeam (words : List Word) (cls : Nat) : Team :=
  let g := Group.placed 0 0 0 0 0 128 0 256
  let g := { g with
    clause := some { hdr := 0, words := words, rel := 0, hasRel := false, cls := cls,
                     issue := fullMask, guard := fullMask, slot := 0, cadence := false }
    seq := 1
    lanes := g.lanes.map fun x => { x with pc := 4 } }
  { Team.blank with
    key := 1, ctx := 1, serial := 1, gx := 1, gy := 1, gz := 1, tmSize := 4096, spill := 256,
    quantum := 16, groups := [g] }

/-- The state with an instruction at the fetch: a context whose tables map its first 256 MiB one to
one, the clause at code offset 0 in main memory, and a group that stands at the clause's word.
(DESIGN CHOICE, log 8) -/
def State.placeWords (s : State) (all : List Word) : State :=
  let op := (all.headD 0).toNat / 2 ^ 24
  let words := all.take (if isFx op then 2 else 1)
  let cls := (opClass op).getD 0
  let hdr := words.length * 2 ^ 28 + cls * 2 ^ 25
  let code := leBytes 4 hdr ++ words.flatMap fun w => leBytes 4 w.toNat
  { s with
    teams := [placedTeam words cls]
    funcs := tins s.funcs 0
      { s.func 0 with exists_ := true, segbase := 0, segsize := 0x1000, ptbase := 0, codebase := 0x20000 }
    hbm := ((s.hbm.writeN 0 (leBytes 8 0x10003)).writeN 0x10000 (leBytes 8 0x39)).writeN 0x20000 code
    curTeam := 1, curGroup := 0, choice := 1 }

end Sys2Proof.Machine
end

