-- ==== Sys2Proof/Machine/Step.lean ====
section
/-! DEFINITION. The step of the device, and the state with an instruction at its fetch. -/

namespace Sys2Proof.Machine

/-- One step of the device. -/
def step (s : State) : Host.Outcome State Fault Refusal := s.oneStep

/-- The state with an instruction stored where the next step takes its word. The group stands past the
clause header, as after CLAUSE_DECODE; it stands for the launch of a program (log 8). -/
def State.withFetchWord (s : State) (nbits w : Nat) : State :=
  s.placeWords [BitVec.ofNat 32 (tableWords nbits w).1, BitVec.ofNat 32 (tableWords nbits w).2]

end Sys2Proof.Machine
end

