-- ==== Sys2Proof/Safety.lean ====
section
/-! DEFINITION. Safe runs: what every state of the device keeps, and the frame of a word: what an
issued word leaves alone. -/

namespace Sys2Proof.Safety

open Sys2Proof.Machine

/-- The memory of a team and its groups is in canonical form: team memory, spill slices and trap frames. -/
def teamOk (t : Team) : Bool := t.tm.wf && t.groups.all fun g => g.spill.wf && g.frame.wf

/-- Memory of every kind is in canonical form: main and host memory, that of every team, the pages in the capacity
tier, and the staged bytes of the apertures. -/
def memoryOk (s : State) : Bool :=
  s.hbm.wf && s.hostMem.wf && s.teams.all teamOk && s.capacity.all (fun x => x.2.mem.wf) &&
    s.funcs.all fun x => x.2.staged.wf

/-- A state whose memory is in canonical form. -/
def Inv (s : State) : Prop := memoryOk s = true

/-- A word can issue: its group is resident, has not ended, and has its 32 lanes (R13), and the general registers the
instruction names lie within the group's budget (R41, R79) and hold no uncorrectable error in an active
lane (R301). -/
structure CanIssue (i : Instr) (s : State) : Prop where
  team : (s.team? s.curTeam).isSome = true
  group : (s.ct.group? s.curGroup).isSome = true
  live : s.cg.ended = false
  lanes : s.cg.lanes.length = 32
  budget : withinBudget s.cg i = true
  intact : s.eccLanes i = 0

/-- The release word marks a register as last read by the issuing instruction (R43, R77): bit 2 * slot
stands for operand a, bit 2 * slot + 1 for operand b; a name the instruction also writes is not
released. -/
def released (s : State) (i : Instr) (n : RegName) : Bool :=
  s.cl.hasRel && !(writeNames i).contains n &&
    ((s.cl.rel.getLsbD (2 * s.cl.slot) && (operandA i).contains n) ||
     (s.cl.rel.getLsbD (2 * s.cl.slot + 1) && (operandB i).contains n))

/-- The code offset the lanes of a word that completes go on to: the next word, or past the clause
(R27, R75). -/
def nextPc (c : Clause) : Word :=
  if c.nextSlot < c.words.length then c.hdr + BitVec.ofNat 32 (4 * (c.nextSlot + 1)) else c.fall

/-- Everything but the issuing group is as before: all memory, every other team and group, every core,
function, queue and engine, and the registers of the device. -/
structure RestKept (s t : State) : Prop where
  device : { t with teams := s.teams, fresh := s.fresh } = s
  teams : ∀ k, k ≠ s.curTeam → t.team? k = s.team? k
  team : { t.ct with groups := s.ct.groups } = s.ct
  groups : ∀ g, g ≠ s.curGroup → t.ct.group? g = s.ct.group? g

/-- A group without its registers, pending results, lanes and the bookkeeping of the issue slot, of which the collector
latch is a part: its
special registers, rejoin slots, queue, slices, frames, trap registers, watchpoints, Chain record,
random seed, accumulator window and everything else it owns. -/
def hull (g : Group) : Group :=
  { g with g := [], p := [], s := [], k := [], c := [], pending := [], lanes := [], timer := 0,
           entry := none, watchdog := 0, perf := Perf.zero, clause := none, park := .none,
           accepted := 0, heldOp := none, since := none, stamp := 0, latch := [] }

/-- Registers the instruction does not write keep their values, and those it releases read 0 (R43). -/
structure RegsKept (i : Instr) (s t : State) : Prop where
  kept : ∀ n l, l < 32 → n ∉ writeNames i → released s i n = false → t.cg.read n l = s.cg.read n l
  freed : ∀ n l, l < 32 → released s i n = true → t.cg.read n l = 0

/-- A word changes registers it names as results and what `own` changes of its group; nothing else but
lanes and the bookkeeping of the issue slot. -/
structure OwnFrame (i : Instr) (own : Group → Group) (s t : State) : Prop where
  rest : RestKept s t
  own : hull t.cg = hull (own s.cg)
  regs : RegsKept i s t

/-- The frame of a word that completes in every lane of its issue set: beside that of `OwnFrame`, no lane
changes its state or stack pointer, and past any but a control-flow word the lanes of the issue set go
on to the next word. -/
structure WordFrame (i : Instr) (own : Group → Group) (s t : State) : Prop extends OwnFrame i own s t where
  lanes : ∀ l, l < 32 → (t.cg.lane l).st = (s.cg.lane l).st ∧ (t.cg.lane l).lsp = (s.cg.lane l).lsp
  pcs : isControlFlow s.cl.op = false → ∀ l, l < 32 → (t.cg.lane l).pc =
    if s.cl.issue.getLsbD l then nextPc s.cl else (s.cg.lane l).pc

/-- The issuing word is a control-flow word and the last of its clause, as R85 requires of it. -/
def AtEnd (s : State) : Prop := isControlFlow s.cl.op = true ∧ s.cl.words.length ≤ s.cl.nextSlot

/-- A lane is PARKED at the issuing word with a trap pending (R303). -/
def Trapped (s t : State) (l code addr : Nat) : Prop :=
  (t.cg.lane l).st = .parked (.trapped
    { code := code, addr := BitVec.ofNat 64 addr, word := s.cl.word, pc := s.cl.here, decode := false }) ∧
  (t.cg.lane l).pc = s.cl.here

/-- A result of the group that still has to land holds a value for an element (R91). -/
def Awaits (t : State) (id : Nat) (n : RegName) (l : Nat) (v : Word) : Prop :=
  ∃ r ∈ t.cg.pending, r.id = id ∧ r.need = 0 ∧ r.landed = false ∧ r.has n l = true ∧ r.value? n l = some v

/-- The names of the results that the group still waits for. -/
def pendingIds (s : State) : List Nat := s.cg.pending.map (·.id)

end Sys2Proof.Safety
end

