-- ==== Sys2Proof/Certificates/Slice0/Obligations.lean ====
section
/-! DEFINITION. The statements about the model for the provers, in the order of the specification's
chapters. -/

section

open Sys2Proof Sys2Proof.Machine Sys2Proof.Safety

namespace Sys2Proof

/-! ### Common forms -/

/-- Values of integer types as R109 takes them: signed under `.i32`, unsigned under `.w32`. -/
def sx (t : IntTy) (a : Word) : Int := match t with | .i32 => a.toInt | .w32 => (a.toNat : Int)

/-- The least and the largest value of a type (R109 `clamp`). -/
def tyLow (t : IntTy) : Int := match t with | .i32 => -2147483648 | .w32 => 0
def tyHigh (t : IntTy) : Int := match t with | .i32 => 2147483647 | .w32 => 4294967295

/-- Position and length of a bit field (R109). -/
def bfPos (b : Word) : Nat := min (b.toNat % 256) 32
def bfLen (b : Word) : Nat := min (b.toNat / 256 % 256) (32 - bfPos b)

/-- The comparison of two integers that a code names (R101). -/
def holds (c : Cmp) (a b : Int) : Prop :=
  match c with
  | .eq => a = b | .ne => a ≠ b | .lt => a < b | .le => a ≤ b | .gt => b < a | .ge => b ≤ a

/-! ### Integer instructions -/

/-- The result register of each integer instruction of one word, and its value in a lane, as R107 and
R109 define it. -/
def integerResult : Instr → Option (BitVec 7 × (Group → Nat → Word))
  | .add o => some (o.d, fun g l => BitVec.ofNat 32 ((g.rg o.a l).toNat + (g.rg o.b l).toNat))
  | .sub o => some (o.d, fun g l => BitVec.ofInt 32 ((g.rg o.a l).toNat - (g.rg o.b l).toNat : Int))
  | .mul o => some (o.d, fun g l => BitVec.ofNat 32 ((g.rg o.a l).toNat * (g.rg o.b l).toNat))
  | .mulhi o => some (o.d, fun g l => BitVec.ofInt 32 (sx o.t (g.rg o.a l) * sx o.t (g.rg o.b l) / 2 ^ 32))
  | .mad o t sat => some (o.d, fun g l =>
      let v := sx t (g.rg o.a l) * sx t (g.rg o.b l) + sx t (g.rg o.c l)
      BitVec.ofInt 32 (if sat then max (tyLow t) (min v (tyHigh t)) else v))
  | .min o => some (o.d, fun g l =>
      if sx o.t (g.rg o.a l) ≤ sx o.t (g.rg o.b l) then g.rg o.a l else g.rg o.b l)
  | .max o => some (o.d, fun g l =>
      if sx o.t (g.rg o.a l) ≥ sx o.t (g.rg o.b l) then g.rg o.a l else g.rg o.b l)
  | .abs o => some (o.d, fun g l => BitVec.ofNat 32 (g.rg o.a l).toInt.natAbs)
  | .neg o => some (o.d, fun g l => BitVec.ofInt 32 (-(g.rg o.a l).toInt))
  | .and o => some (o.d, fun g l => BitVec.ofNat 32 ((g.rg o.a l).toNat &&& (g.rg o.b l).toNat))
  | .or o => some (o.d, fun g l => BitVec.ofNat 32 ((g.rg o.a l).toNat ||| (g.rg o.b l).toNat))
  | .xor o => some (o.d, fun g l => BitVec.ofNat 32 ((g.rg o.a l).toNat ^^^ (g.rg o.b l).toNat))
  | .not o => some (o.d, fun g l => BitVec.ofNat 32 (2 ^ 32 - 1 - (g.rg o.a l).toNat))
  | .shl o => some (o.d, fun g l =>
      if (g.rg o.b l).toNat < 32 then BitVec.ofNat 32 ((g.rg o.a l).toNat * 2 ^ (g.rg o.b l).toNat) else 0)
  | .shr o => some (o.d, fun g l =>
      if (g.rg o.b l).toNat < 32 then BitVec.ofNat 32 ((g.rg o.a l).toNat / 2 ^ (g.rg o.b l).toNat) else 0)
  | .sar o => some (o.d, fun g l =>
      if (g.rg o.b l).toNat < 32 then BitVec.ofInt 32 ((g.rg o.a l).toInt / 2 ^ (g.rg o.b l).toNat)
      else if (g.rg o.a l).msb then BitVec.allOnes 32 else 0)
  | .clz o => some (o.d, fun g l =>
      if g.rg o.a l = 0 then 32 else BitVec.ofNat 32 (31 - Nat.log2 (g.rg o.a l).toNat))
  | .popc o => some (o.d, fun g l =>
      BitVec.ofNat 32 ((List.range 32).map fun j => (g.rg o.a l).toNat / 2 ^ j % 2).sum)
  | .brev o => some (o.d, fun g l => (g.rg o.a l).reverse)
  | .bfe o => some (o.d, fun g l =>
      let f := (g.rg o.a l).toNat / 2 ^ bfPos (g.rg o.b l)
      match o.t with
      | .w32 => BitVec.ofNat 32 (f % 2 ^ bfLen (g.rg o.b l))
      | .i32 => (BitVec.ofNat (bfLen (g.rg o.b l)) f).signExtend 32)
  | .bfi o => some (o.d, fun g l =>
      BitVec.ofNat 32 ((List.range 32).map fun j =>
        (if bfPos (g.rg o.b l) ≤ j ∧ j < bfPos (g.rg o.b l) + bfLen (g.rg o.b l)
         then (g.rg o.a l).toNat / 2 ^ (j - bfPos (g.rg o.b l)) % 2
         else (g.rg o.c l).toNat / 2 ^ j % 2) * 2 ^ j).sum)
  | .sel o p => some (o.d, fun g l => if g.rp p l then g.rg o.a l else g.rg o.b l)
  | .mov o => some (o.d, fun g l => g.rg o.a l)
  | .movi d imm _ => some (d, fun _ _ => imm)
  | .addi o imm => some (o.d, fun g l => BitVec.ofInt 32 ((g.rg o.a l).toNat + imm.toInt))
  | .lea o imm sh => some (o.d, fun g l =>
      BitVec.ofInt 32 ((g.rg o.a l).toNat + (g.rg o.b l).toNat * 2 ^ sh.toNat + imm.toInt))
  | .shli o => some (o.d, fun g l => BitVec.ofNat 32 ((g.rg o.a l).toNat * 2 ^ o.n.toNat))
  | .shri o => some (o.d, fun g l => BitVec.ofNat 32 ((g.rg o.a l).toNat / 2 ^ o.n.toNat))
  | .sari o => some (o.d, fun g l => BitVec.ofInt 32 ((g.rg o.a l).toInt / 2 ^ o.n.toNat))
  | _ => none

/-- R107, R109, R90, R98: every integer instruction with a result of one word completes; in each active
lane the result register holds the value of the rule, in the other lanes and in every other register
nothing changes but the releases of R43, no flag is set, and the rest of the device is as before. -/
def Claims.IntegerResults : Prop :=
  ∀ (i : Instr) (d : BitVec 7) (f : Group → Nat → Word) (s : State),
    integerResult i = some (d, f) → CanIssue i s →
    ∃ t, exec i s = .next t ∧ WordFrame i id s t ∧ pendingIds t = pendingIds s ∧
      ∀ l, l < 32 → t.cg.rg d l = if (s.active i).getLsbD l then f s.cg l else s.cg.rg d l

/-- R108: `add64` and `sub64` complete; in each active lane the pair {d+1, d} holds the sum or difference
of the pairs {a+1, a} and {b+1, b} modulo 2^64, the field naming the low word. -/
def Claims.PairResults : Prop :=
  ∀ (o : OpDAB) (minus : Bool) (s : State),
    let i : Instr := if minus then .sub64 o else .add64 o
    let v (l : Nat) : Nat :=
      if minus then (s.cg.rg64 o.a l + (2 ^ 64 - s.cg.rg64 o.b l)) % 2 ^ 64
      else (s.cg.rg64 o.a l + s.cg.rg64 o.b l) % 2 ^ 64
    CanIssue i s →
    ∃ t, exec i s = .next t ∧ WordFrame i id s t ∧ pendingIds t = pendingIds s ∧
      ∀ l, l < 32 → t.cg.rg64 o.d l = if (s.active i).getLsbD l then v l else s.cg.rg64 o.d l

end Sys2Proof

/-- R107 to R109: the integer instructions complete with the values of their rules, in words and in
pairs. -/
def Obligations.IntegerResults : Prop :=
  Claims.IntegerResults ∧ Claims.PairResults

namespace Sys2Proof

/-! ### Predicates -/

/-- The result of each instruction that writes a predicate in every active lane, as R101, R109, R118 and
R119 define it; `s` is the state before the instruction. -/
def predicateResult (s : State) : Instr → Option (BitVec 6 × (Nat → Prop))
  | .isetp p a b cc t _ => some (p, fun l =>
      match t with
      | .i32 => holds cc (s.cg.rg a l).toInt (s.cg.rg b l).toInt
      | .w32 => holds cc (s.cg.rg a l).toNat (s.cg.rg b l).toNat
      | .i64 => holds cc (BitVec.ofNat 64 (s.cg.rg64 a l)).toInt (BitVec.ofNat 64 (s.cg.rg64 b l)).toInt
      | .w64 => holds cc (s.cg.rg64 a l) (s.cg.rg64 b l))
  | .ssetp p a b cc t _ => some (p, fun _ => holds cc (sx t (s.cg.rs a)) (sx t (s.cg.rs b)))
  | .pand o => some (o.pd, fun l => (s.cg.rp o.pa l ^^ o.na) = true ∧ (s.cg.rp o.pb l ^^ o.nb) = true)
  | .por o => some (o.pd, fun l => (s.cg.rp o.pa l ^^ o.na) = true ∨ (s.cg.rp o.pb l ^^ o.nb) = true)
  | .pxor o => some (o.pd, fun l => (s.cg.rp o.pa l ^^ o.na) ≠ (s.cg.rp o.pb l ^^ o.nb))
  | .pmov o => some (o.pd, fun l => (s.cg.rp o.pa l ^^ o.na) = true)
  | .vote o mode => some (o.pd, fun _ =>
      let act := s.active (.vote o mode)
      let x (l : Nat) : Bool := s.cg.rp o.pa l ^^ o.na
      match mode with
      | .some => ∃ l, act.getLsbD l = true ∧ x l = true
      | .each => ∀ l, act.getLsbD l = true → x l = true
      | .same => ∀ l k, act.getLsbD l = true → act.getLsbD k = true → x l = x k
      | .odd => ((List.range 32).filter fun l => act.getLsbD l && x l).length % 2 = 1)
  | .elect o => some (o.pd, fun l =>
      (s.cg.rp o.pa l ^^ o.na) = true ∧
        ∀ k, k < l → (s.active (.elect o)).getLsbD k = true → (s.cg.rp o.pa k ^^ o.na) = false)
  | _ => none

/-- R109, R118, R119, R13: a comparison, a predicate operation, a vote or an election completes; in each
active lane the destination predicate is true exactly when the rule says so; the other lanes keep theirs;
p0 discards the result and still reads true. -/
def Claims.PredicateResults : Prop :=
  ∀ (i : Instr) (p : BitVec 6) (f : Nat → Prop) (s : State),
    predicateResult s i = some (p, f) → CanIssue i s →
    ∃ t, exec i s = .next t ∧ WordFrame i id s t ∧ pendingIds t = pendingIds s ∧
      (p = 0 → ∀ l, l < 32 → t.cg.rp p l = true) ∧
      (p ≠ 0 → ∀ l, l < 32 → ((s.active i).getLsbD l = true → (t.cg.rp p l = true ↔ f l)) ∧
        ((s.active i).getLsbD l = false → t.cg.rp p l = s.cg.rp p l))

/-! ### Scalars -/

/-- The result register of each scalar instruction and its value (R119). -/
def scalarResult : Instr → Option (BitVec 6 × (Group → Word))
  | .smov d a _ => some (d, fun g => g.rs a)
  | .smovi d imm _ => some (d, fun _ => imm)
  | .sadd o => some (o.d, fun g => BitVec.ofNat 32 ((g.rs o.a).toNat + (g.rs o.b).toNat))
  | .ssub o => some (o.d, fun g => BitVec.ofInt 32 ((g.rs o.a).toNat - (g.rs o.b).toNat : Int))
  | .smul o => some (o.d, fun g => BitVec.ofNat 32 ((g.rs o.a).toNat * (g.rs o.b).toNat))
  | .sand o => some (o.d, fun g => BitVec.ofNat 32 ((g.rs o.a).toNat &&& (g.rs o.b).toNat))
  | .sor o => some (o.d, fun g => BitVec.ofNat 32 ((g.rs o.a).toNat ||| (g.rs o.b).toNat))
  | .sxor o => some (o.d, fun g => BitVec.ofNat 32 ((g.rs o.a).toNat ^^^ (g.rs o.b).toNat))
  | .sshl o => some (o.d, fun g =>
      if (g.rs o.b).toNat < 32 then BitVec.ofNat 32 ((g.rs o.a).toNat * 2 ^ (g.rs o.b).toNat) else 0)
  | .sshr o => some (o.d, fun g =>
      if (g.rs o.b).toNat < 32 then BitVec.ofNat 32 ((g.rs o.a).toNat / 2 ^ (g.rs o.b).toNat) else 0)
  | .slea o imm sh => some (o.d, fun g =>
      BitVec.ofInt 32 ((g.rs o.a).toNat + (g.rs o.b).toNat * 2 ^ sh.toNat + imm.toInt))
  | .g2s d a lane _ => some (d, fun g => g.rg a lane.toNat)
  | _ => none

/-- R119: a scalar instruction executes once for the group. It takes effect when its G bit is 0 or the
guard is true in a lane of the issue set (that is, when some lane is active): its register then holds the
rule's value; else the register keeps its value. `g2s` reads the named lane whatever that lane's state. -/
def Claims.ScalarResults : Prop :=
  ∀ (i : Instr) (d : BitVec 6) (f : Group → Word) (s : State),
    scalarResult i = some (d, f) → CanIssue i s →
    ∃ t, exec i s = .next t ∧ WordFrame i id s t ∧ pendingIds t = pendingIds s ∧
      t.cg.rs d = if s.active i = 0 then s.cg.rs d else f s.cg

/-- R119: `s2g` writes its scalar to the destination register in every active lane. -/
def Claims.ScalarToLanes : Prop :=
  ∀ (d : BitVec 7) (a : BitVec 6) (m : Mods) (s : State), CanIssue (.s2g d a m) s →
    ∃ t, exec (.s2g d a m) s = .next t ∧ WordFrame (.s2g d a m) id s t ∧ pendingIds t = pendingIds s ∧
      ∀ l, l < 32 → t.cg.rg d l =
        if (s.active (.s2g d a m)).getLsbD l then s.cg.rs a else s.cg.rg d l

end Sys2Proof

/-- R109, R118, R119: predicate and scalar instructions complete with the values of their rules. -/
def Obligations.UniformAndPredicateResults : Prop :=
  Claims.PredicateResults ∧ Claims.ScalarResults ∧ Claims.ScalarToLanes

namespace Sys2Proof

/-! ### Floating point -/

/-- The two 16-bit halves of a register (R112). -/
def lowPart (w : Word) : Nat := w.toNat % 2 ^ 16
def highPart (w : Word) : Nat := w.toNat / 2 ^ 16

/-- A pattern with the flags of its computation. -/
def one (r : Nat × Nat) : Word × Nat := (BitVec.ofNat 32 r.1, r.2)

/-- Two 16-bit results packed, the flags of both ORed (R112). -/
def two (lo hi : Nat × Nat) : Word × Nat := (BitVec.ofNat 32 (lo.1 % 2 ^ 16 + hi.1 * 2 ^ 16), lo.2 ||| hi.2)

/-- The 16-bit format of a paired instruction. -/
def half16 (t : PTy) : FTy := match t with | .f16 => .f16 | .bf16 => .bf16

/-- The result register of each short-latency floating-point instruction, and its pattern and flags in a
lane: the exact operation rounded once to the format (R110, R112, R114 to R116). -/
def floatResult : Instr → Option (BitVec 7 × (Group → Nat → Word × Nat))
  | .fadd o => some (o.d, fun g l => one (fpAdd .f32 o.rm (g.rg o.a l).toNat (g.rg o.b l).toNat))
  | .fsub o => some (o.d, fun g l => one (fpSub .f32 o.rm (g.rg o.a l).toNat (g.rg o.b l).toNat))
  | .fmul o => some (o.d, fun g l => one (fpMul .f32 o.rm (g.rg o.a l).toNat (g.rg o.b l).toNat))
  | .ffma o rm => some (o.d, fun g l =>
      one (fpFma .f32 rm (g.rg o.a l).toNat (g.rg o.b l).toNat (g.rg o.c l).toNat))
  | .fmin o => some (o.d, fun g l => one (fpMinMax false (g.rg o.a l).toNat (g.rg o.b l).toNat))
  | .fmax o => some (o.d, fun g l => one (fpMinMax true (g.rg o.a l).toNat (g.rg o.b l).toNat))
  | .pfadd o => some (o.d, fun g l =>
      two (fpAdd (half16 o.t) o.rm (lowPart (g.rg o.a l)) (lowPart (g.rg o.b l)))
        (fpAdd (half16 o.t) o.rm (highPart (g.rg o.a l)) (highPart (g.rg o.b l))))
  | .pfmul o => some (o.d, fun g l =>
      two (fpMul (half16 o.t) o.rm (lowPart (g.rg o.a l)) (lowPart (g.rg o.b l)))
        (fpMul (half16 o.t) o.rm (highPart (g.rg o.a l)) (highPart (g.rg o.b l))))
  | .pffma o t rm => some (o.d, fun g l =>
      two (fpFma (half16 t) rm (lowPart (g.rg o.a l)) (lowPart (g.rg o.b l)) (lowPart (g.rg o.c l)))
        (fpFma (half16 t) rm (highPart (g.rg o.a l)) (highPart (g.rg o.b l)) (highPart (g.rg o.c l))))
  | .frnd o => some (o.d, fun g l => one (fpRound o.rm (g.rg o.a l).toNat))
  | .cvt o dt st rm sat b c => some (o.d, fun g l =>
      match rm, dt with
      | .det r, _ => one (fpCvt dt st r sat (g.rg o.a l).toNat)
      | .rs, .fp t => one (fpCvtRs t sat (g.rg o.a l).toNat
          (draw16 g.rngseed.toNat (g.rs c).toNat (g.rg b l).toNat))
      | .rs, _ => one (fpCvt dt st .rne sat (g.rg o.a l).toNat))
  | _ => none

/-- A set trap enable of `%fpflags` meets these flags: bit 8 + n enables a trap for flag n (R102, R103). -/
def meetsEnable (g : Group) (fl : Nat) : Prop := (g.fpflags.toNat / 2 ^ 8 % 2 ^ 5) &&& fl ≠ 0

/-- The flags of the active lanes ORed into `%fpflags` (R103). -/
def orFlags (m : Mask) (f : Nat → Nat) (g : Group) : Group :=
  { g with fpflags := g.fpflags ||| BitVec.ofNat 32 ((lanesOf m).foldl (fun n l => n ||| f l) 0 % 32) }

/-- R103, R110, R112, R114, R115: where no active lane's flags meet a set trap enable, a floating-point
instruction of short latency completes; each active lane's destination holds the rounded result, the
other lanes keep theirs, and the flags of the active lanes, of no other, are ORed into `%fpflags`. -/
def Claims.FloatResults : Prop :=
  ∀ (i : Instr) (d : BitVec 7) (f : Group → Nat → Word × Nat) (s : State),
    floatResult i = some (d, f) → CanIssue i s →
    (∀ l, (s.active i).getLsbD l = true → ¬ meetsEnable s.cg (f s.cg l).2) →
    ∃ t, exec i s = .next t ∧ WordFrame i (orFlags (s.active i) fun l => (f s.cg l).2) s t ∧
      pendingIds t = pendingIds s ∧
      ∀ l, l < 32 → t.cg.rg d l = if (s.active i).getLsbD l then (f s.cg l).1 else s.cg.rg d l

/-- R103 and R110: `fsetp` writes the comparison of R101 to its predicate in each active lane. Codes 0 to
5 are false, and codes 8 to 13 true, when an operand is a NaN; `.num` and `.nan` tell whether one is. -/
def Claims.FloatCompare : Prop :=
  ∀ (p : BitVec 6) (a b : BitVec 7) (cc : FCmp) (m : Mods) (s : State),
    let i : Instr := .fsetp p a b cc m
    let x (l : Nat) : FVal := unpackF .f32 (s.cg.rg a l).toNat
    let y (l : Nat) : FVal := unpackF .f32 (s.cg.rg b l).toNat
    let isNaN (l : Nat) : Prop := (x l).isNan = true ∨ (y l).isNan = true
    let fl (l : Nat) : Nat := if x l = .nan true ∨ y l = .nan true then 1 else 0
    let holdsIn (l : Nat) : Prop :=
      match cc with
      | .num => ¬ isNaN l
      | .nan => isNaN l
      | .ord c => ¬ isNaN l ∧ holds c (cmpV (x l) (y l)) 0
      | .unord c => isNaN l ∨ holds c (cmpV (x l) (y l)) 0
    CanIssue i s →
    (∀ l, (s.active i).getLsbD l = true → ¬ meetsEnable s.cg (fl l)) →
    ∃ t, exec i s = .next t ∧ WordFrame i (orFlags (s.active i) fl) s t ∧ pendingIds t = pendingIds s ∧
      (p = 0 → ∀ l, l < 32 → t.cg.rp p l = true) ∧
      (p ≠ 0 → ∀ l, l < 32 → ((s.active i).getLsbD l = true → (t.cg.rp p l = true ↔ holdsIn l)) ∧
        ((s.active i).getLsbD l = false → t.cg.rp p l = s.cg.rp p l))

end Sys2Proof

/-- R103, R110, R112, R115: short-latency floating-point results and comparisons, with their flags. Readings: log 70. -/
def Obligations.FloatResults : Prop :=
  Claims.FloatResults ∧ Claims.FloatCompare

/-- R103: when the flags raised in an active lane of a floating-point instruction meet a set TE bit, that
lane traps FP_EXCEPTION: it is PARKED with the code pending and its destination is left unchanged; its
flags are recorded with those of the other active lanes, which receive their results. Readings: log 70. -/
def Obligations.FloatTraps : Prop :=
  ∀ (i : Instr) (d : BitVec 7) (f : Group → Nat → Word × Nat) (s : State),
    floatResult i = some (d, f) → CanIssue i s → s.cg.inSup = false →
    (∃ l, (s.active i).getLsbD l = true ∧ meetsEnable s.cg (f s.cg l).2) →
    ∃ t, exec i s = .next t ∧ RestKept s t ∧
      t.cg.fpflags = (orFlags (s.active i) (fun l => (f s.cg l).2) s.cg).fpflags ∧
      ∀ l, l < 32 →
        ((s.active i).getLsbD l = true → meetsEnable s.cg (f s.cg l).2 →
          t.cg.rg d l = s.cg.rg d l ∧ ∃ p, (t.cg.lane l).st = .parked (.trapped p) ∧ p.code = 0x28) ∧
        ((s.active i).getLsbD l = true → ¬ meetsEnable s.cg (f s.cg l).2 →
          t.cg.rg d l = (f s.cg l).1 ∧ (t.cg.lane l).st = (s.cg.lane l).st) ∧
        ((s.active i).getLsbD l = false → t.cg.rg d l = s.cg.rg d l)

/-- R111: `fabs` and `fneg` clear or invert bit 31 of a non-NaN value; a NaN operand (exponent all ones,
fraction not zero) gives 0x7FC0_0000; neither sets a flag; and a B field that is not 0 traps at decode. -/
def Obligations.SignInstructions : Prop :=
  (∀ (o : OpDA) (neg : Bool) (s : State),
    let i : Instr := if neg then .fneg o else .fabs o
    let v (x : Word) : Word :=
      if (x.toNat / 2 ^ 23 % 2 ^ 8 = 255 ∧ x.toNat % 2 ^ 23 ≠ 0) then 0x7FC00000
      else if neg then x ^^^ 0x80000000 else x &&& 0x7FFFFFFF
    CanIssue i s →
    ∃ t, exec i s = .next t ∧ WordFrame i id s t ∧ pendingIds t = pendingIds s ∧
      ∀ l, l < 32 → t.cg.rg o.d l = if (s.active i).getLsbD l then v (s.cg.rg o.a l) else s.cg.rg o.d l) ∧
  (∀ (w : Nat), w < 2 ^ 32 → (w / 2 ^ 24 = 0x36 ∨ w / 2 ^ 24 = 0x37) → w / 2 ^ 3 % 2 ^ 7 ≠ 0 →
    decodeWords w 0 = .error .illegalOperand)

namespace Sys2Proof

/-- The class bit of a pattern (R113), from its sign, exponent and fraction fields. -/
def classBit (t : FTy) (x : Nat) : Nat :=
  let frac := x % 2 ^ fracBits t
  let ex := x / 2 ^ fracBits t % 2 ^ expBits t
  let neg : Prop := x / 2 ^ (fracBits t + expBits t) % 2 = 1
  if t = .e4m3 ∧ ex = 15 then
    if frac = 7 then 9 else if neg then 1 else 6
  else if ex = 2 ^ expBits t - 1 then
    if frac = 0 then (if neg then 0 else 7)
    else if frac / 2 ^ (fracBits t - 1) = 0 then 8 else 9
  else if ex = 0 then
    if frac = 0 then (if neg then 3 else 4) else if neg then 2 else 5
  else if neg then 1 else 6

end Sys2Proof

/-- R113: `fclass` writes the one-hot class mask of the value in the low bits of a; E4M3 has no
infinities, and its NaN code counts as quiet. -/
def Obligations.ClassMask : Prop :=
  ∀ (o : OpDA) (t : FTy) (s : State), CanIssue (.fclass o t) s →
    ∃ u, exec (.fclass o t) s = .next u ∧ WordFrame (.fclass o t) id s u ∧ pendingIds u = pendingIds s ∧
      ∀ l, l < 32 → u.cg.rg o.d l =
        if (s.active (.fclass o t)).getLsbD l then BitVec.ofNat 32 (2 ^ classBit t (s.cg.rg o.a l).toNat)
        else s.cg.rg o.d l

namespace Sys2Proof

/-- The functions of R114 by instruction. -/
def unaryResult : Instr → Option (OpFDA × (Rm → Nat → Nat × Nat))
  | .rcp o => some (o, fpRcp)
  | .rsq o => some (o, fpRsq)
  | .sqrt o => some (o, fpSqrt)
  | .exp2 o => some (o, fpExp2)
  | .log2 o => some (o, fpLog2)
  | _ => none

/-- A finite FP32 pattern, and the exact value of one in units of 2^-149, from its fields (R236). -/
def finite32 (x : Nat) : Prop := x < 2 ^ 32 ∧ x / 2 ^ 23 % 2 ^ 8 ≠ 255
def units (x : Nat) : Int :=
  let ex := x / 2 ^ 23 % 2 ^ 8
  let v : Nat := (x % 2 ^ 23 + if ex = 0 then 0 else 2 ^ 23) * 2 ^ (max ex 1 - 1)
  if x / 2 ^ 31 % 2 = 1 then -v else v

/-- An FP32 NaN, quiet or signalling; a signalling one; and a finite value below 0 (R103, R236). -/
def isNaN32 (x : Nat) : Prop := x < 2 ^ 32 ∧ x / 2 ^ 23 % 2 ^ 8 = 255 ∧ x % 2 ^ 23 ≠ 0
def signals32 (x : Nat) : Prop := isNaN32 x ∧ x % 2 ^ 23 < 2 ^ 22
def below0 (x : Nat) : Prop := 2 ^ 31 < x ∧ x < 0xFF800000

/-- The patterns of R114's table for ±0, ±∞ and 1.0, with whether they set NV; `none` for the rows that
stand in `specialRows`. -/
def specialResult : Instr → Nat → Option (Nat × Bool)
  | .rcp _, x => match x with
    | 0x00000000 => some (0x7F800000, false) | 0x80000000 => some (0xFF800000, false)
    | 0x7F800000 => some (0, false) | 0xFF800000 => some (0x80000000, false) | _ => none
  | .rsq _, x => match x with
    | 0x00000000 => some (0x7F800000, false) | 0x80000000 => some (0xFF800000, false)
    | 0x7F800000 => some (0, false) | 0xFF800000 => some (0x7FC00000, true) | _ => none
  | .sqrt _, x => match x with
    | 0x00000000 => some (0, false) | 0x80000000 => some (0x80000000, false)
    | 0x7F800000 => some (0x7F800000, false) | 0xFF800000 => some (0x7FC00000, true) | _ => none
  | .exp2 _, x => match x with
    | 0x00000000 => some (0x3F800000, false) | 0x80000000 => some (0x3F800000, false)
    | 0x7F800000 => some (0x7F800000, false) | 0xFF800000 => some (0, false) | _ => none
  | .log2 _, x => match x with
    | 0x00000000 => some (0xFF800000, false) | 0x80000000 => some (0xFF800000, false)
    | 0x7F800000 => some (0x7F800000, false) | 0xFF800000 => some (0x7FC00000, true)
    | 0x3F800000 => some (0, false) | _ => none
  | _, _ => none

/-- The other rounding direction under a change of sign. -/
def mirrored : Rm → Rm
  | .rd => .ru | .ru => .rd | r => r

/-- The rows of R114's table over many patterns: every NaN gives the canonical NaN, with NV where it
signals; `rsq`, `sqrt` and `log2` of every finite value below 0 give a NaN with NV; `rcp` of one is
-1/|a|, rounded in the mirrored direction. -/
structure SpecialRows (i : Instr) (f : Rm → Nat → Nat × Nat) (rm : Rm) : Prop where
  nan : ∀ x, isNaN32 x → (signals32 x → f rm x = (0x7FC00000, 1)) ∧ (¬ signals32 x → f rm x = (0x7FC00000, 0))
  negative : ∀ x, below0 x → ((∃ o, i = .rsq o ∨ i = .sqrt o ∨ i = .log2 o) → f rm x = (0x7FC00000, 1)) ∧
    ((∃ o, i = .rcp o) → f rm x = (2 ^ 31 + (f (mirrored rm) (x - 2 ^ 31)).1, (f (mirrored rm) (x - 2 ^ 31)).2))

/-- Where the exact value of R114 is the value of a finite pattern z other than 0, that pattern is the
result and no flag is set: 1/a, 1/√a and √a; 2^a of an integer a; log₂a of a power of two. -/
structure ExactValues (i : Instr) (f : Rm → Nat → Nat × Nat) (rm : Rm) : Prop where
  roots : ∀ x z, finite32 x → finite32 z → z < 2 ^ 31 → units z ≠ 0 →
    ((∃ o, i = .rcp o) → units x * units z = 2 ^ 298 → f rm x = (z, 0)) ∧
    ((∃ o, i = .rsq o) → units z * units z * units x = 2 ^ 447 → f rm x = (z, 0)) ∧
    ((∃ o, i = .sqrt o) → units z * units z = units x * 2 ^ 149 → f rm x = (z, 0))
  powers : ∀ x z (n : Int), finite32 x → finite32 z → units x = n * 2 ^ 149 → -149 ≤ n → n ≤ 127 →
    units z = 2 ^ (n + 149).toNat → (∃ o, i = .exp2 o) → f rm x = (z, 0)
  logs : ∀ x z (k : Nat), finite32 x → finite32 z → units x = 2 ^ k → k ≠ 149 →
    units z = ((k : Int) - 149) * 2 ^ 149 → (∃ o, i = .log2 o) → f rm x = (z, 0)

end Sys2Proof

/-- R91, R114: `rcp`, `rsq`, `sqrt`, `exp2` and `log2` complete with a long-latency result: the value is
bound for the destination in each active lane and lands later; the flags are recorded at once; the
special operands give the values of R114's table, and an exact value that FP32 holds is the result. -/
def Obligations.LongFloatResults : Prop :=
  ∀ (i : Instr) (o : OpFDA) (f : Rm → Nat → Nat × Nat) (s : State),
    unaryResult i = some (o, f) → CanIssue i s →
    let r (l : Nat) : Nat × Nat := f o.rm (s.cg.rg o.a l).toNat
    (∀ l, (s.active i).getLsbD l = true → ¬ meetsEnable s.cg (r l).2) →
    (∃ t, exec i s = .next t ∧ WordFrame i (orFlags (s.active i) fun l => (r l).2) s t ∧
      t.fresh = s.fresh + 1 ∧ pendingIds t = pendingIds s ++ [s.fresh] ∧
      ∀ l, (s.active i).getLsbD l = true → Awaits t s.fresh (.g o.d.toNat) l (BitVec.ofNat 32 (r l).1)) ∧
    (∀ x v nv, specialResult i x = some (v, nv) → f o.rm x = (v, if nv then 1 else 0)) ∧
    SpecialRows i f o.rm ∧ ExactValues i f o.rm

namespace Sys2Proof

/-- A pattern of a format whose value is finite, and that value in units of 2^-149, from the fields in the
pattern's low bits (R115, R236). -/
def finiteIn (t : FTy) (x : Nat) : Prop :=
  match t with
  | .e4m3 => x % 2 ^ 7 ≠ 127
  | _ => x / 2 ^ fracBits t % 2 ^ expBits t ≠ 2 ^ expBits t - 1
def unitsIn (t : FTy) (x : Nat) : Int :=
  let ex := x / 2 ^ fracBits t % 2 ^ expBits t
  let v : Nat := (x % 2 ^ fracBits t + if ex = 0 then 0 else 2 ^ fracBits t) *
    2 ^ (149 + max ex 1 - expBias t - fracBits t)
  if x / 2 ^ (fracBits t + expBits t) % 2 = 1 then -v else v

/-- A finite pattern of a format, of its width. -/
def patternOf (t : FTy) (z : Nat) : Prop := z < 2 ^ (1 + expBits t + fracBits t) ∧ finiteIn t z

/-- R103, R110, R112: where the exact sum, difference, product or fused sum of finite values is the value of
a pattern of the format and is not zero, that pattern is the result in every rounding mode, and no flag is
set; both orders of the operands of a sum or product give one result. -/
def Claims.ExactOperations : Prop :=
  (∀ (t : FTy) (rm : Rm) (x y z : Nat), finiteIn t x → finiteIn t y → patternOf t z → unitsIn t z ≠ 0 →
    (unitsIn t x + unitsIn t y = unitsIn t z → fpAdd t rm x y = (z, 0)) ∧
    (unitsIn t x - unitsIn t y = unitsIn t z → fpSub t rm x y = (z, 0)) ∧
    (unitsIn t x * unitsIn t y = unitsIn t z * 2 ^ 149 → fpMul t rm x y = (z, 0)) ∧
    ∀ c, finiteIn t c → unitsIn t x * unitsIn t y + unitsIn t c * 2 ^ 149 = unitsIn t z * 2 ^ 149 →
      fpFma t rm x y c = (z, 0)) ∧
  (∀ (t : FTy) (rm : Rm) (x y : Nat), fpAdd t rm x y = fpAdd t rm y x ∧ fpMul t rm x y = fpMul t rm y x)

/-- R110: `fmin` and `fmax` give the smaller and the larger of two finite values, -0 ordered below +0; of a
NaN and another operand, the other; NV is set exactly when a NaN signals. -/
def Claims.MinMax : Prop :=
  (∀ (x y : Nat), finite32 x → finite32 y → (units x < units y ∨ (x = 0x80000000 ∧ y = 0)) →
    fpMinMax false x y = (x, 0) ∧ fpMinMax false y x = (x, 0) ∧ fpMinMax true x y = (y, 0) ∧
      fpMinMax true y x = (y, 0)) ∧
  (∀ (isMax : Bool) (x y : Nat) (nv : Nat), isNaN32 x → (signals32 x → nv = 1) → (¬ signals32 x → nv = 0) →
    (finite32 y → fpMinMax isMax x y = (y, nv) ∧ fpMinMax isMax y x = (y, nv)) ∧
    (isNaN32 y → ¬ signals32 y → fpMinMax isMax x y = (0x7FC00000, nv)))

/-- k is the integer that a value of v units rounds to (R103, R114, R115). -/
def roundsTo (rm : Rm) (v k : Int) : Prop :=
  match rm with
  | .rne => 2 * (k * 2 ^ 149 - v).natAbs < 2 ^ 149 ∨ 2 * (k * 2 ^ 149 - v).natAbs = 2 ^ 149 ∧ k % 2 = 0
  | .rz => if v < 0 then v ≤ k * 2 ^ 149 ∧ k * 2 ^ 149 < v + 2 ^ 149
      else k * 2 ^ 149 ≤ v ∧ v < k * 2 ^ 149 + 2 ^ 149
  | .rd => k * 2 ^ 149 ≤ v ∧ v < k * 2 ^ 149 + 2 ^ 149
  | .ru => v ≤ k * 2 ^ 149 ∧ k * 2 ^ 149 < v + 2 ^ 149

/-- The integer in the low bits of a register, and the least and the largest of a type, for the integer types
of `cvt` (R115). -/
def intValue : CvtTy → Nat → Int
  | .i32, x => (BitVec.ofNat 32 x).toInt | .w32, x => (x % 2 ^ 32 : Nat)
  | .i16, x => (BitVec.ofNat 16 x).toInt | .w16, x => (x % 2 ^ 16 : Nat)
  | .i8, x => (BitVec.ofNat 8 x).toInt | .w8, x => (x % 2 ^ 8 : Nat)
  | .fp _, _ => 0
def intRange : CvtTy → Option (Int × Int)
  | .i32 => some (-2 ^ 31, 2 ^ 31 - 1) | .w32 => some (0, 2 ^ 32 - 1)
  | .i16 => some (-2 ^ 15, 2 ^ 15 - 1) | .w16 => some (0, 2 ^ 16 - 1)
  | .i8 => some (-2 ^ 7, 2 ^ 7 - 1) | .w8 => some (0, 2 ^ 8 - 1)
  | .fp _ => none

/-- R114 to R116: `frnd` gives the integer its mode rounds to, with the operand's sign, and no flag. A
conversion between formats, or from an integer, of a value the target holds gives it, under the stochastic
rounding too, with no flag. A conversion to an integer rounds, clamps a value out of range with NV, and
sets NX when rounding changed the value; between integers SAT clamps, else the low bits count. -/
def Claims.ExactConversions : Prop :=
  (∀ (rm : Rm) (x : Nat), finite32 x → ∃ z k, fpRound rm x = (z, 0) ∧ finite32 z ∧ z / 2 ^ 31 = x / 2 ^ 31 ∧
    units z = k * 2 ^ 149 ∧ roundsTo rm (units x) k) ∧
  (∀ (t u : FTy) (rm : Rm) (sat : Bool) (x z : Nat), finiteIn u x → patternOf t z → unitsIn t z ≠ 0 →
    unitsIn u x = unitsIn t z → fpCvt (.fp t) (.fp u) rm sat x = (z, 0)) ∧
  (∀ (t : FTy) (sat : Bool) (x z r : Nat), finite32 x → patternOf t z → unitsIn t z ≠ 0 →
    units x = unitsIn t z → r < 2 ^ 16 → fpCvtRs t sat x r = (z, 0)) ∧
  (∀ (t : FTy) (st : CvtTy) (b : Int × Int) (rm : Rm) (sat : Bool) (x z : Nat), intRange st = some b →
    patternOf t z → unitsIn t z ≠ 0 → intValue st x * 2 ^ 149 = unitsIn t z →
    fpCvt (.fp t) st rm sat x = (z, 0)) ∧
  (∀ (dt : CvtTy) (lo hi : Int) (u : FTy) (rm : Rm) (sat : Bool) (x : Nat) (k : Int),
    intRange dt = some (lo, hi) → finiteIn u x → roundsTo rm (unitsIn u x) k →
    fpCvt dt (.fp u) rm sat x =
      if k < lo ∨ hi < k then ((BitVec.ofInt 32 (max lo (min k hi))).toNat, 1)
      else ((BitVec.ofInt 32 k).toNat, if k * 2 ^ 149 = unitsIn u x then 0 else 8)) ∧
  (∀ (dt st : CvtTy) (lo hi : Int) (b : Int × Int) (rm : Rm) (sat : Bool) (x : Nat),
    intRange dt = some (lo, hi) → intRange st = some b →
    fpCvt dt st rm sat x = ((BitVec.ofInt 32 (if sat then max lo (min (intValue st x) hi)
      else intValue dt (BitVec.ofInt 32 (intValue st x)).toNat)).toNat, 0))

end Sys2Proof

/-- R103, R110, R112, R114 to R116: the values of floating-point results, exact ones in every rounding mode:
sums, products, fused sums, minimum and maximum, integral values and conversions. -/
def Obligations.ExactSums : Prop :=
  Claims.ExactOperations ∧ Claims.MinMax ∧ Claims.ExactConversions

namespace Sys2Proof

/-! ### Lane exchange and random numbers -/

/-- The source lane of lane L (R120). -/
def sourceLane (mode : ShflMode) (L b : Nat) : Option Nat :=
  match mode with
  | .src => some (b % 32)
  | .back => if L < b then none else some (L - b)
  | .ahead => if 31 < L + b then none else some (L + b)
  | .mirror => some (L ^^^ (b % 32))
  | .rot => some ((L + b % 32) % 32)

/-- R120: `shfl` completes; its results land later (R91): where the source lane exists and is active, d
is bound for the source lane's a and p[P] for true; otherwise d is bound for L's own a and p[P] for
false; a P of 0 discards the flag. -/
def Claims.Shuffle : Prop :=
  ∀ (o : OpDAB) (p : BitVec 6) (mode : ShflMode) (imm : Bool) (lane : BitVec 5) (s : State),
    let i : Instr := .shfl o p mode imm lane
    let b (l : Nat) : Nat := if imm then lane.toNat else (s.cg.rg o.b l).toNat
    CanIssue i s →
    ∃ t, exec i s = .next t ∧ WordFrame i id s t ∧ t.fresh = s.fresh + 1 ∧
      pendingIds t = pendingIds s ++ [s.fresh] ∧
      (p = 0 → ∀ l, l < 32 → t.cg.rp p l = true) ∧
      ∀ l, (s.active i).getLsbD l = true →
        (∀ k, sourceLane mode l (b l) = some k → (s.active i).getLsbD k = true →
          Awaits t s.fresh (.g o.d.toNat) l (s.cg.rg o.a k) ∧
          (p ≠ 0 → Awaits t s.fresh (.p p.toNat) l 1)) ∧
        ((∀ k, sourceLane mode l (b l) = some k → (s.active i).getLsbD k = false) →
          Awaits t s.fresh (.g o.d.toNat) l (s.cg.rg o.a l) ∧
          (p ≠ 0 → Awaits t s.fresh (.p p.toNat) l 0))

/-- One step of a reduction, with its flags (R121): integer sums wrap, FP32 sums round under RM, FP32
minimum and maximum follow `fmin` and `fmax`. -/
def combine (op : RedOp) (t : RedTy) (rm : Rm) (x y : Word) : Word × Nat :=
  match op, t with
  | .add, .f32 => one (fpAdd .f32 rm x.toNat y.toNat)
  | .add, _ => (BitVec.ofNat 32 (x.toNat + y.toNat), 0)
  | .min, .f32 => one (fpMinMax false x.toNat y.toNat)
  | .min, .i32 => (if x.toInt ≤ y.toInt then x else y, 0)
  | .min, .w32 => (if x.toNat ≤ y.toNat then x else y, 0)
  | .max, .f32 => one (fpMinMax true x.toNat y.toNat)
  | .max, .i32 => (if y.toInt ≤ x.toInt then x else y, 0)
  | .max, .w32 => (if y.toNat ≤ x.toNat then x else y, 0)
  | .and, _ => (x &&& y, 0)
  | .or, _ => (x ||| y, 0)
  | .xor, _ => (x ^^^ y, 0)

/-- The combination of values in order from the first on, with the flags of its steps. -/
def combineAll (op : RedOp) (t : RedTy) (rm : Rm) : List Word → Option (Word × Nat)
  | [] => none
  | x :: xs => some (xs.foldl (fun acc y =>
      ((combine op t rm acc.1 y).1, acc.2 ||| (combine op t rm acc.1 y).2)) (x, 0))

/-- The identity that `prfx.excl` gives the first active lane (R121). -/
def identityOf (op : RedOp) (t : RedTy) : Word :=
  match op, t with
  | .add, _ | .or, _ | .xor, _ => 0
  | .and, _ => 0xFFFFFFFF
  | .min, .i32 => 0x7FFFFFFF | .min, .w32 => 0xFFFFFFFF | .min, .f32 => 0x7F800000
  | .max, .i32 => 0x80000000 | .max, .w32 => 0 | .max, .f32 => 0xFF800000

/-- R121, R91: `redux` binds, in every active lane, the combination of a over the active lanes in
ascending order; `prfx` the combination up to each lane, or under EXCL below it, the first active lane
then receiving the identity. Integer steps raise no flag; where the flags of FP32 steps meet no trap
enable, they are recorded. -/
def Claims.Reductions : Prop :=
  (∀ (o : OpDA) (op : RedOp) (ty : RedTy) (rm : Rm) (s : State),
    let i : Instr := .redux o op ty rm
    let all := combineAll op ty rm ((lanesOf (s.active i)).map fun l => s.cg.rg o.a l)
    let fl := (all.map (·.2)).getD 0
    CanIssue i s → ¬ meetsEnable s.cg fl →
    ∃ t, exec i s = .next t ∧ WordFrame i (orFlags 1 fun _ => fl) s t ∧
      pendingIds t = pendingIds s ++ [s.fresh] ∧
      ∀ l, (s.active i).getLsbD l = true → ∃ r, all = some r ∧ Awaits t s.fresh (.g o.d.toNat) l r.1) ∧
  (∀ (o : OpDA) (op : RedOp) (ty : RedTy) (rm : Rm) (excl : Bool) (s : State),
    let i : Instr := .prfx o op ty rm excl
    let upTo (l : Nat) := combineAll op ty rm
      (((lanesOf (s.active i)).filter fun k => if excl then k < l else k ≤ l).map fun k => s.cg.rg o.a k)
    let fl (l : Nat) : Nat := ((upTo l).map (·.2)).getD 0
    CanIssue i s → ¬ meetsEnable s.cg ((lanesOf (s.active i)).foldl (fun n l => n ||| fl l) 0) →
    ∃ t, exec i s = .next t ∧ WordFrame i (orFlags (s.active i) fl) s t ∧
      pendingIds t = pendingIds s ++ [s.fresh] ∧
      ∀ l, (s.active i).getLsbD l = true →
        Awaits t s.fresh (.g o.d.toNat) l (((upTo l).map (·.1)).getD (identityOf op ty)))

/-- The value of each random-number instruction for the draws of R123: the stream is b, the index e is
a, and the result depends on `%rngseed`, the stream and the index alone. -/
def randomResult : Instr → Option (OpDAB × (Nat → Nat → Nat → Word))
  | .rng o .w32 => some (o, fun seed stream e => BitVec.ofNat 32 (draw32 seed stream e))
  | .rng o .w16 => some (o, fun seed stream e => BitVec.ofNat 32 (draw16 seed stream e))
  | .rngn o => some (o, fun seed stream e => BitVec.ofNat 32 (rngnPat (draw32 seed stream e)))
  | .rngf o => some (o, fun seed stream e => BitVec.ofNat 32 (rngfPat (draw32 seed stream e)))
  | _ => none

/-- R123: `rng`, `rngn` and `rngf` complete and set no flag; each active lane receives a value that is
one function of `%rngseed`, the stream b and the index a, whatever the lane, group, core or time. -/
def Claims.RandomNumbers : Prop :=
  ∀ (i : Instr) (o : OpDAB) (f : Nat → Nat → Nat → Word) (s : State),
    randomResult i = some (o, f) → CanIssue i s →
    ∃ t, exec i s = .next t ∧ WordFrame i id s t ∧ pendingIds t = pendingIds s ∧
      ∀ l, l < 32 → t.cg.rg o.d l =
        if (s.active i).getLsbD l then
          f s.cg.rngseed.toNat (s.cg.rg o.b l).toNat (s.cg.rg o.a l).toNat
        else s.cg.rg o.d l

end Sys2Proof

/-- R120, R121, R123: lane exchange, reductions over lanes, and random numbers. -/
def Obligations.LanesAndDraws : Prop :=
  Claims.Shuffle ∧ Claims.Reductions ∧ Claims.RandomNumbers

namespace Sys2Proof

/-! ### Control flow -/

/-- The offset a direct branch names: `here + 4 * sext(OFF)`, modulo 2^32 (R80, R104). -/
def labelOf (s : State) {w : Nat} (off : BitVec w) : Word :=
  BitVec.ofInt 32 ((s.cl.here.toNat : Int) + 4 * off.toInt)

/-- The offset a lane goes to under each branch: `bra` and `call` by their label, `brx` and `callx` by
the lane's register a (R104); and whether the branch pushes the fall-through offset. -/
def branchTarget (s : State) : Instr → Option ((Nat → Word) × Bool)
  | .bra off _ => some (fun _ => labelOf s off, false)
  | .brx o => some (fun l => s.cg.rg o.a l, false)
  | .call off _ => some (fun _ => labelOf s off, true)
  | .callx o => some (fun l => s.cg.rg o.a l, true)
  | _ => none

/-- R104, R90: a branch whose targets are words, and which has room to push where it pushes, completes:
each active lane goes to its target, a lane of the issue set that is guarded off falls through, every
other lane stays; a call lowers the lane's stack pointer by one word and stores the fall-through offset
there, in the lane's own slice, and every other byte of the slices is as before. -/
def Claims.Branches : Prop :=
  ∀ (i : Instr) (target : Nat → Word) (push : Bool) (s : State),
    branchTarget s i = some (target, push) → CanIssue i s → AtEnd s →
    (∀ l, (s.active i).getLsbD l = true → (target l).toNat % 4 = 0 ∧
      (push = true → 1 ≤ (s.cg.lane l).lsp.toNat ∧ 4 * (s.cg.lane l).lsp.toNat ≤ s.ct.spill)) →
    ∃ t, exec i s = .next t ∧ OwnFrame i (fun g => { g with spill := t.cg.spill }) s t ∧
      pendingIds t = pendingIds s ∧
      ∀ l, l < 32 → (t.cg.lane l).st = (s.cg.lane l).st ∧
        (t.cg.lane l).pc = (if (s.active i).getLsbD l then target l
          else if s.cl.issue.getLsbD l then s.cl.fall else (s.cg.lane l).pc) ∧
        (t.cg.lane l).lsp.toNat =
          (s.cg.lane l).lsp.toNat - (if push && (s.active i).getLsbD l then 1 else 0) ∧
        (push = true → (s.active i).getLsbD l = true →
          t.cg.spill.readLe (spillKey l (4 * (t.cg.lane l).lsp.toNat)) 4 = s.cl.fall.toNat) ∧
        ∀ off, off < 65536 →
          (push = true → (s.active i).getLsbD l = true →
            off < 4 * (t.cg.lane l).lsp.toNat ∨ 4 * (t.cg.lane l).lsp.toNat + 4 ≤ off) →
          t.cg.spill.read (spillKey l off) = s.cg.spill.read (spillKey l off)

/-- R104: `ret` pops the lane's return offset: a lane whose stack holds a word and whose popped offset is
a word's goes there with its stack pointer one word higher; the slices are as before. A lane whose stack
is empty traps SCRATCH_RANGE, and one whose word holds an uncorrectable error (R301) ECC_UNCORRECTABLE, with
its stack pointer unchanged. -/
def Claims.Return : Prop :=
  (∀ (m : Mods) (s : State), CanIssue (.ret m) s → AtEnd s →
    (∀ l, (s.active (.ret m)).getLsbD l = true →
      4 * (s.cg.lane l).lsp.toNat + 4 ≤ s.ct.spill ∧
      s.skEcc s.ct s.cg l (4 * (s.cg.lane l).lsp.toNat) 4 = false ∧
      s.cg.spill.readLe (spillKey l (4 * (s.cg.lane l).lsp.toNat)) 4 % 4 = 0) →
    ∃ t, exec (.ret m) s = .next t ∧ OwnFrame (.ret m) id s t ∧ pendingIds t = pendingIds s ∧
      ∀ l, l < 32 → (t.cg.lane l).st = (s.cg.lane l).st ∧
        (t.cg.lane l).pc = (if (s.active (.ret m)).getLsbD l then
            BitVec.ofNat 32 (s.cg.spill.readLe (spillKey l (4 * (s.cg.lane l).lsp.toNat)) 4)
          else if s.cl.issue.getLsbD l then s.cl.fall else (s.cg.lane l).pc) ∧
        (t.cg.lane l).lsp =
          (if (s.active (.ret m)).getLsbD l then (s.cg.lane l).lsp + 1 else (s.cg.lane l).lsp)) ∧
  (∀ (m : Mods) (s : State), CanIssue (.ret m) s → AtEnd s → s.cg.inSup = false →
    (∀ l, (s.active (.ret m)).getLsbD l = true → s.ct.spill < 4 * (s.cg.lane l).lsp.toNat + 4) →
    ∃ t, exec (.ret m) s = .next t ∧ RestKept s t ∧ ∀ l, (s.active (.ret m)).getLsbD l = true →
      Trapped s t l 0x0B (4 * (s.cg.lane l).lsp.toNat) ∧ (t.cg.lane l).lsp = (s.cg.lane l).lsp) ∧
  (∀ (m : Mods) (s : State), CanIssue (.ret m) s → AtEnd s → s.cg.inSup = false →
    (∀ l, (s.active (.ret m)).getLsbD l = true → 4 * (s.cg.lane l).lsp.toNat + 4 ≤ s.ct.spill ∧
      s.skEcc s.ct s.cg l (4 * (s.cg.lane l).lsp.toNat) 4 = true) →
    ∃ t, exec (.ret m) s = .next t ∧ RestKept s t ∧ ∀ l, (s.active (.ret m)).getLsbD l = true →
      Trapped s t l 0x48 (4 * (s.cg.lane l).lsp.toNat) ∧ (t.cg.lane l).lsp = (s.cg.lane l).lsp)

end Sys2Proof

/-- R104, R105: branches, calls and returns complete. -/
def Obligations.Branches : Prop :=
  Claims.Branches ∧ Claims.Return

namespace Sys2Proof

/-- R104, R17: a branch to an offset that is no word's traps MISALIGNED with the target as its address, and a
`call` or `callx` whose push falls outside the lane's slice SCRATCH_RANGE with its stack pointer as the
address, in the lanes concerned, whose stack pointers stand; the other active lanes branch. -/
def Claims.BranchTraps : Prop :=
  (∀ (i : Instr) (target : Nat → Word) (push : Bool) (s : State),
    branchTarget s i = some (target, push) → CanIssue i s → AtEnd s → s.cg.inSup = false →
    let noRoom (l : Nat) : Prop :=
      push = true ∧ ((s.cg.lane l).lsp.toNat = 0 ∨ s.ct.spill < 4 * (s.cg.lane l).lsp.toNat)
    ∃ t, exec i s = .next t ∧ RestKept s t ∧
      ∀ l, (s.active i).getLsbD l = true →
        ((target l).toNat % 4 ≠ 0 →
          Trapped s t l 0x0C (target l).toNat ∧ (t.cg.lane l).lsp = (s.cg.lane l).lsp) ∧
        ((target l).toNat % 4 = 0 → noRoom l →
          Trapped s t l 0x0B (4 * (s.cg.lane l).lsp.toNat) ∧ (t.cg.lane l).lsp = (s.cg.lane l).lsp) ∧
        ((target l).toNat % 4 = 0 → ¬ noRoom l →
          (t.cg.lane l).pc = target l ∧ (t.cg.lane l).st = (s.cg.lane l).st)) ∧
  (∀ (m : Mods) (s : State), CanIssue (.ret m) s → AtEnd s → s.cg.inSup = false →
    (∀ l, (s.active (.ret m)).getLsbD l = true → 4 * (s.cg.lane l).lsp.toNat + 4 ≤ s.ct.spill ∧
      s.skEcc s.ct s.cg l (4 * (s.cg.lane l).lsp.toNat) 4 = false ∧
      s.cg.spill.readLe (spillKey l (4 * (s.cg.lane l).lsp.toNat)) 4 % 4 ≠ 0) →
    ∃ t, exec (.ret m) s = .next t ∧ RestKept s t ∧ ∀ l, (s.active (.ret m)).getLsbD l = true →
      Trapped s t l 0x0C (s.cg.spill.readLe (spillKey l (4 * (s.cg.lane l).lsp.toNat)) 4) ∧
      (t.cg.lane l).lsp = (s.cg.lane l).lsp)

/-- R104, R34: `nop` does nothing but pass the word. `yield` falls through, its lanes active or not; when a
lane of the group is READY outside the issue set, the cadence timer becomes one more than the threshold, the greater of LIMIT
and 16 (R33), so that the next header takes a cadence turn. -/
def Claims.NopAndYield : Prop :=
  (∀ (m : Mods) (s : State), CanIssue (.nop m) s →
    ∃ t, exec (.nop m) s = .next t ∧ WordFrame (.nop m) id s t ∧ pendingIds t = pendingIds s) ∧
  (∀ (m : Mods) (s : State), CanIssue (.yield m) s → AtEnd s →
    ∃ t, exec (.yield m) s = .next t ∧ OwnFrame (.yield m) id s t ∧ pendingIds t = pendingIds s ∧
      (∀ l, l < 32 → (t.cg.lane l).st = (s.cg.lane l).st ∧ (t.cg.lane l).lsp = (s.cg.lane l).lsp ∧
        (t.cg.lane l).pc = (if s.cl.issue.getLsbD l then s.cl.fall else (s.cg.lane l).pc)) ∧
      ((∃ l, (s.cg.lane l).st = .ready ∧ l < 32 ∧ s.cl.issue.getLsbD l = false) →
        t.cg.timer = max s.cg.limit.toNat 16 + 1))

end Sys2Proof

/-- R29: `enrol j` adds the lanes of its issue set, guarded off or not, to slot j's member mask and
records the label's offset; if the slot is not free and its target differs, it traps ILLEGAL_OPERAND in
every lane of the issue set and the slot is unchanged. In a handler the lanes that were no members are noted as
its own, which is the model's reading of R306 (log 13). -/
def Obligations.Enrol : Prop :=
  (∀ (j : BitVec 3) (off : BitVec 18) (m : Mods) (s : State),
    CanIssue (.enrol j off m) s →
    ((s.cg.slotJ j.toNat).members = 0 ∨ (s.cg.slotJ j.toNat).target = labelOf s off) →
    ∃ t, exec (.enrol j off m) s = .next t ∧
      WordFrame (.enrol j off m) (fun g => { g with rejoins := t.cg.rejoins, frames := t.cg.frames }) s t ∧
      t.cg.frames = (match s.cg.frames with
        | [] => []
        | f :: r =>
          let own := tget 0 f.enrolled j.toNat ||| s.cl.issue &&& ~~~(s.cg.slotJ j.toNat).members
          { f with enrolled := tput 0 f.enrolled j.toNat own } :: r) ∧
      (t.cg.slotJ j.toNat).members = (s.cg.slotJ j.toNat).members ||| s.cl.issue ∧
      (t.cg.slotJ j.toNat).arrived = (s.cg.slotJ j.toNat).arrived ∧
      (t.cg.slotJ j.toNat).target = labelOf s off ∧
      ∀ k, k ≠ j.toNat → t.cg.slotJ k = s.cg.slotJ k) ∧
  (∀ (j : BitVec 3) (off : BitVec 18) (m : Mods) (s : State),
    CanIssue (.enrol j off m) s → s.cg.inSup = false →
    (s.cg.slotJ j.toNat).members ≠ 0 → (s.cg.slotJ j.toNat).target ≠ labelOf s off →
    ∃ t, exec (.enrol j off m) s = .next t ∧ RestKept s t ∧ t.cg.rejoins = s.cg.rejoins ∧
      ∀ l, s.cl.issue.getLsbD l = true → Trapped s t l 3 0)

namespace Sys2Proof

/-- The members that a slot still waits for (R30): those that have not arrived; a lane that exits is a member no
more (R31). -/
def missing (members arrived : Mask) : Mask := members &&& ~~~arrived

/-- R30: a lane that executes `rejoin j` goes on without effect where it is not enrolled; enrolled lanes
trap ILLEGAL_OPERAND where the clause does not begin at the slot's target; otherwise they arrive and
wait in REJOIN(j) with their PC past the clause, and when the arrived mask covers every member that has not
exited, every lane in REJOIN(j) becomes READY and the slot is free: the lanes that arrive now go on past
this clause, those that waited past the clause in which they arrived. -/
def Claims.RejoinArrival : Prop :=
  ∀ (j : BitVec 3) (m : Mods) (s : State),
    let i : Instr := .rejoin j m
    let r := s.cg.slotJ j.toNat
    let arriving := s.active i &&& r.members
    CanIssue i s → AtEnd s → s.cg.inSup = false →
    ∃ t, exec i s = .next t ∧ RestKept s t ∧
      (∀ l, s.cl.issue.getLsbD l = true → arriving.getLsbD l = false →
        (t.cg.lane l).pc = s.cl.fall ∧
        ((∀ k, (s.cg.lane l).st ≠ .rejoin k) → (t.cg.lane l).st = (s.cg.lane l).st)) ∧
      (arriving = 0 → t.cg.rejoins = s.cg.rejoins) ∧
      (arriving ≠ 0 → r.target ≠ s.cl.hdr → t.cg.rejoins = s.cg.rejoins ∧
        ∀ l, arriving.getLsbD l = true → Trapped s t l 3 0) ∧
      (arriving ≠ 0 → r.target = s.cl.hdr → missing r.members (r.arrived ||| arriving) ≠ 0 →
        t.cg.slotJ j.toNat = { r with arrived := r.arrived ||| arriving } ∧
        ∀ l, arriving.getLsbD l = true → l < 32 →
          (t.cg.lane l).st = .rejoin j.toNat ∧ (t.cg.lane l).pc = s.cl.fall) ∧
      (arriving ≠ 0 → r.target = s.cl.hdr → missing r.members (r.arrived ||| arriving) = 0 →
        t.cg.slotJ j.toNat = Rejoin.reset ∧
        ∀ l, l < 32 →
          (arriving.getLsbD l = true → (t.cg.lane l).st = .ready ∧ (t.cg.lane l).pc = s.cl.fall) ∧
          ((s.cg.lane l).st = .rejoin j.toNat → s.cl.issue.getLsbD l = false →
            (t.cg.lane l).st = .ready ∧ (t.cg.lane l).pc = (s.cg.lane l).pc))

/-- R23, R27, R31: `exit` outside a handler ends its active lanes: they are EXITED, `%exmask` shows them,
and they leave every member mask; a slot that then waits for no member is free, and the lanes that waited
for it are READY where they stood; where a lane of the group has not exited, the group goes on, and the
rest of the device is as before. -/
def Claims.ExitLanes : Prop :=
  ∀ (m : Mods) (s : State),
    let act := s.active (.exit m)
    let r (j : Nat) : Rejoin := s.cg.slotJ j
    let left (j : Nat) : Mask := (r j).members &&& ~~~act
    let frees (j : Nat) : Prop := j < 8 ∧ left j ≠ 0 ∧ missing (left j) (r j).arrived = 0
    CanIssue (.exit m) s → AtEnd s → s.cg.frames = [] →
    (∃ l, l < 32 ∧ act.getLsbD l = false ∧ (s.cg.lane l).st.isExited = false) →
    (∀ g ∈ s.ct.groups, g.index ≠ s.curGroup → g.canEnd = false) →
    ∃ t, exec (.exit m) s = .next t ∧ RestKept s t ∧
      t.cg.exmask = s.cg.exmask ||| act ∧
      (∀ l, act.getLsbD l = true → (t.cg.lane l).st = .exited) ∧
      (∀ j, j < 8 → (frees j → t.cg.slotJ j = Rejoin.reset) ∧
        (¬ frees j → (t.cg.slotJ j).members = left j ∧ (left j ≠ 0 →
          (t.cg.slotJ j).arrived = (r j).arrived ∧ (t.cg.slotJ j).target = (r j).target))) ∧
      ∀ l, l < 32 → act.getLsbD l = false →
        ((∃ j, (s.cg.lane l).st = .rejoin j ∧ frees j) → (t.cg.lane l).st = .ready) ∧
        ((¬ ∃ j, (s.cg.lane l).st = .rejoin j ∧ frees j) → (t.cg.lane l).st = (s.cg.lane l).st) ∧
        (t.cg.lane l).pc = (if s.cl.issue.getLsbD l then s.cl.fall else (s.cg.lane l).pc)

/-- Every lane of the group has exited once the active lanes of the word have. -/
def lastLanes (s : State) (act : Mask) : Prop :=
  ∀ l, l < 32 → act.getLsbD l = true ∨ (s.cg.lane l).st.isExited = true

/-- Every long-latency result of the group has returned, or is bound for nothing (R23). -/
def resultsBack (g : Group) : Prop := ∀ r ∈ g.pending, r.landed = true ∨ ∀ x ∈ r.live, x.2 = 0

/-- No other group of the issuing group's team is at its end, nor at a rendezvous with it (R23, R133). -/
def othersGoOn (s : State) : Prop :=
  ∀ g ∈ s.ct.groups, g.index ≠ s.curGroup → g.canEnd = false ∧ g.park ≠ .rendezvous

/-- The packets a word sends, after those that were on their way: place, operation and release scope of
each, all from the issuing group and core. A release among them is ordered after all that was on its way
and after the word's own drain (R169, R170). -/
structure Sends (s t : State) (ops : List (TmLoc × PacketOp × Option Scope)) : Prop where
  sent : ∃ ps : List Packet, t.net = s.net ++ ps ∧ (ps.map fun p => (p.loc, p.op, p.rel.map (·.1))) = ops ∧
    ∀ p ∈ ps, p.core = s.ct.core ∧ p.team = s.ct.key ∧ p.group = s.curGroup ∧ p.phase = none ∧
      p.held = false ∧ p.released = false ∧
      ∀ sc n, p.rel = some (sc, n) → s.fresh ≤ n ∧ n ≤ p.id ∧ ∀ q ∈ ps, q.rel = none → q.id < n

/-- The writes that a drain sends: the queue's entries in program order (R167, R168). -/
def queueOps (q : List QItem) : List (TmLoc × PacketOp × Option Scope) :=
  (queueWrites q).map fun w => (w.loc, .write w.bytes, none)

/-- The order in which a commit performs the writes of one queue (R38, R39): threads ascending, each in program
order. -/
def threadWrites (q : List QItem) : List LaneWrite :=
  (List.range 32).flatMap fun l => (queueWrites q).filter fun w => w.lane == l

/-- R306, R309, R31: a handler lane that executes `exit` ends as a handler lane. While another has not exited the
handler goes on: `%exmask` and the recorded lanes are as before, and the exiting lanes leave the members that the
handler has enrolled (log 13), with the test of R30. When every handler lane has exited the handler ends: every
lane of the group is EXITED, its entry, its rejoin slots and its undelivered records are gone, and the group ends
with its results (R23). -/
def Claims.HandlerExit : Prop :=
  (∀ (m : Mods) (s : State) (f : Frame) (rest : List Frame),
    let act := s.active (.exit m)
    let r (j : Nat) : Rejoin := s.cg.slotJ j
    let left (j : Nat) : Mask := (r j).members &&& ~~~(act &&& tget 0 f.enrolled j)
    let frees (j : Nat) : Prop := j < 8 ∧ left j ≠ 0 ∧ missing (left j) (r j).arrived = 0
    CanIssue (.exit m) s → AtEnd s → s.cg.frames = f :: rest → ¬ lastLanes s act → othersGoOn s →
    ∃ t, exec (.exit m) s = .next t ∧ RestKept s t ∧ t.cg.exmask = s.cg.exmask ∧ t.cg.ended = false ∧
      (∀ l, act.getLsbD l = true → (t.cg.lane l).st = .exited) ∧
      (∀ j, j < 8 → (frees j → t.cg.slotJ j = Rejoin.reset) ∧
        (¬ frees j → (t.cg.slotJ j).members = left j)) ∧
      (∀ l, l < 32 → act.getLsbD l = false → ¬ (∃ j, (s.cg.lane l).st = .rejoin j ∧ frees j) →
        (t.cg.lane l).st = (s.cg.lane l).st) ∧
      (∀ l, l < 32 → act.getLsbD l = false → (∃ j, (s.cg.lane l).st = .rejoin j ∧ frees j) →
        (t.cg.lane l).st = .ready) ∧
      t.cg.frames.length = s.cg.frames.length ∧
      ((∀ j, ¬ frees j) → t.cg.frames.map (·.lanes) = s.cg.frames.map (·.lanes))) ∧
  (∀ (m : Mods) (s : State),
    let act := s.active (.exit m)
    CanIssue (.exit m) s → AtEnd s → s.cg.frames ≠ [] → lastLanes s act → othersGoOn s →
    (∃ g ∈ s.ct.groups, g.index ≠ s.curGroup ∧ g.ended = false) → (∀ a b, s.ct.stop ≠ .handler a b) →
    ∃ t, exec (.exit m) s = .next t ∧ t.cg.frames = [] ∧ t.cg.entry = none ∧
      (∀ l, l < 32 → (t.cg.lane l).st = .exited) ∧ (∀ j, t.cg.slotJ j = Rejoin.reset) ∧
      (∀ r ∈ s.ct.records, r.group = s.curGroup → r.grpslot = s.cg.grpslot → r ∉ t.ct.records) ∧
      (resultsBack s.cg → t.cg.ended = true) ∧ (¬ resultsBack s.cg → t.cg.ended = false))

/-- R23, R37, R39: `exit` of the last lanes of a group whose results have returned ends the group: where its queue
ends with an entry, the queue drains; otherwise it stays. Barrier 0 expects one arrival less: a phase that this
satisfies completes at once, and its lanes are READY. Other groups and teams are as before. -/
def Claims.GroupEnds : Prop :=
  ∀ (m : Mods) (s : State),
    let act := s.active (.exit m)
    let x := s.ct.barrier 0
    let drained : Prop := ∃ ws, s.cg.queue.getLast? = some (.entry ws)
    CanIssue (.exit m) s → AtEnd s → s.cg.frames = [] → lastLanes s act → resultsBack s.cg → othersGoOn s →
    2 ≤ s.ct.live → (s.ct.groups.map (·.index)).Nodup → s.ct.records = [] →
    ((x.closing = true ∨ x.cur.booked = 0 ∨ x.cur.booked + 1 < s.ct.live) →
      ∃ t, exec (.exit m) s = .next t ∧ t.cg.ended = true ∧ t.ct.live + 1 = s.ct.live ∧
        { t with teams := s.teams, fresh := s.fresh, net := s.net } = s ∧
        (∀ k, k ≠ s.curTeam → t.team? k = s.team? k) ∧ { t.ct with groups := s.ct.groups } = s.ct ∧
        (∀ g, g ≠ s.curGroup → t.ct.group? g = s.ct.group? g) ∧
        (drained → Sends s t (queueOps s.cg.queue) ∧ t.cg.queue = []) ∧
        (¬ drained → t.net = s.net ∧ t.cg.queue = s.cg.queue)) ∧
    (x.closing = false → 1 ≤ x.cur.booked → s.ct.live ≤ x.cur.booked + 1 →
      (x.nxt.booked = 0 ∨ x.nxt.booked + 1 < s.ct.live) →
      (∀ g ∈ s.ct.groups, ∀ q ∈ g.queue, ∃ c w, q = .arrival c w) → (∀ p ∈ s.net, p.team ≠ s.curTeam) →
      (s.ctxFunc s.ct.ctx).tracectl.getLsbD 1 = false →
      ∃ t, exec (.exit m) s = .next t ∧ t.cg.ended = true ∧
        t.ct.barrier 0 = { x with count := x.count + 1, cur := x.nxt, nxt := Booking.empty } ∧
        ∀ g h, s.ct.group? g.index = some g → t.ct.group? g.index = some h →
          ∀ l, l < 32 → (g.lane l).st = .barrier 0 x.count → g.index ≠ s.curGroup → (h.lane l).st = .ready)

/-- R39: `exit` of the last lanes of the last group of a team commits what its groups have queued: the exiting
group's queue drains first where it ends with an entry, and then every group's writes leave, groups and threads
ascending. The team stays until they have been performed (R24). -/
def Claims.LastGroupCommits : Prop :=
  ∀ (m : Mods) (s : State),
    let act := s.active (.exit m)
    let k := s.curTeam
    let drained : Bool := match s.cg.queue.getLast? with | some (.entry _) => true | _ => false
    let early := if drained = true then (queueWrites s.cg.queue).map fun w => (s.curGroup, w.loc, PacketOp.write w.bytes) else []
    let commit := (List.range 32).flatMap fun i => match s.ct.group? i with
      | some y => (threadWrites (if i = s.curGroup ∧ drained = true then [] else y.queue)).map fun w =>
          (i, w.loc, PacketOp.write w.bytes)
      | none => []
    CanIssue (.exit m) s → AtEnd s → s.cg.frames = [] → lastLanes s act → resultsBack s.cg →
    (∀ y ∈ s.ct.groups, y.index < 32 ∧ (y.index ≠ s.curGroup → y.ended = true)) →
    ((s.ct.barrier 0).closing = true ∨ (s.ct.barrier 0).cur.booked = 0) → s.ct.records = [] →
    early ++ commit ≠ [] →
    ∃ t ps, exec (.exit m) s = .next t ∧ (t.team? k).isSome = true ∧ t.cg.ended = true ∧ t.net = s.net ++ ps ∧
      (ps.map fun p => (p.group, p.loc, p.op)) = early ++ commit ∧
      (∀ p ∈ ps, p.team = k ∧ p.core = s.ct.core ∧ p.held = false) ∧
      ∀ i y, t.ct.group? i = some y → y.queue = []

/-- R24: `exit` of the last lanes of the last group of a team that has nothing queued and nothing under way ends the
team: the team is gone with its memory, and so are its berth records, its landing entries and its slips; its grid has
one team less to end, or is complete, and then its completion word, where it has one, receives 1 (R360). -/
def Claims.TeamEnds : Prop :=
  ∀ (m : Mods) (s : State) (g : Grid),
    let act := s.active (.exit m)
    let k := s.curTeam
    let c := s.ct.core
    CanIssue (.exit m) s → AtEnd s → s.cg.frames = [] → lastLanes s act → resultsBack s.cg →
    (∀ y ∈ s.ct.groups, y.queue = [] ∧ y.chprog = none ∧ (y.index ≠ s.curGroup → y.ended = true)) →
    (∀ o ∈ s.copies, o.team ≠ k) → (∀ o ∈ s.mmaxs, o.team ≠ k) → (∀ l ∈ s.lands, l.team ≠ k) →
    (∀ e ∈ (s.core c).landing, e.2.team = k → e.2.complete = true) → (∀ p ∈ s.net, p.team ≠ k ∧ p.loc.team ≠ k) →
    s.ct.records = [] → s.ct.peloton = false → (s.ctxFunc s.ct.ctx).tracectl = 0 →
    s.grid? s.ct.grid = some g → g.replayRecs = [] →
    (∀ x ∈ s.grids, x.follows ≠ some (s.ct.grid, s.ct.linear)) →
    ∃ t, exec (.exit m) s = .next t ∧ t.team? k = none ∧ (∀ j, j ≠ k → t.team? j = s.team? j) ∧
      (t.core c).berths = (s.core c).berths.filter (fun b => b.2.team != k) ∧
      (t.core c).landing = (s.core c).landing.filter (fun e => e.2.team != k) ∧
      (t.core c).slips = (s.core c).slips.filter (fun e => e.2.team != k) ∧
      (1 < g.unended → t.grid? s.ct.grid = some { g with unended := g.unended - 1 } ∧ t.hbm = s.hbm) ∧
      (g.unended ≤ 1 → t.grid? s.ct.grid = none ∧ (g.record.cw = 0 → t.hbm = s.hbm) ∧
        ∀ p, g.record.cw ≠ 0 → s.ptrWalk g.ctx g.record.cw.toNat .wr = .page p →
          let pa := p.ppage * 65536 + g.record.cw.toNat % 65536
          leNat (t.hbmBytes pa 8) = (leNat (s.hbmBytes pa 8) + 1) % 2 ^ 64)

end Sys2Proof

/-- R23, R24, R27, R30, R31, R34, R37, R39, R104, R309: `nop`, `yield`, `rejoin` and `exit`, with the ends of a
handler, of a group and of a team. Readings: logs 13, 21. -/
def Obligations.Convergence : Prop :=
  Claims.NopAndYield ∧ Claims.RejoinArrival ∧ Claims.ExitLanes ∧ Claims.HandlerExit ∧ Claims.GroupEnds ∧
    Claims.LastGroupCommits ∧ Claims.TeamEnds

namespace Sys2Proof

/-- R84, R85: the undefined opcode traps ILLEGAL_OPCODE in every lane of the issue set, with the PC of
the clause header; no lane executes a word of the clause further. -/
def Claims.Undefined : Prop :=
  ∀ (u : BitVec 24) (s : State), CanIssue (.udf u) s → s.cg.inSup = false →
    ∃ t, exec (.udf u) s = .next t ∧ RestKept s t ∧ t.cg.clause = none ∧ t.cg.entry.isSome = true ∧
      ∀ l, l < 32 → s.cl.issue.getLsbD l = true → ∃ p, (t.cg.lane l).st = .parked (.trapped p) ∧
        p.code = 1 ∧ p.pc = s.cl.hdr ∧ p.decode = true

/-! ### Fetch, decode and the waits of a clause -/

/-- R86: the word at code offset o is read at virtual address CODEBASE + o through the tables of the
context, its least significant byte first; this is so of every offset of a word whose page the tables
map executable, where no cached line and no cached translation stands; nothing but what is then cached, and
the count of reads, changes. -/
def Claims.FetchesCode : Prop :=
  ∀ (s : State) (ctx core : Nat) (off : Word) (p : LastPage),
    off.toNat % 4 = 0 →
    let va := ((s.ctxFunc ctx).codebase.toNat / 2 ^ 16 * 2 ^ 16 + off.toNat) % 2 ^ 52
    (s.core core).icache = [] → s.tlb = [] → s.walks = [] →
    s.walk (s.ctxFunc ctx) va .ex = .page p →
    ∃ t, s.fetchWord ctx core off =
        .ok (BitVec.ofNat 32 (leNat (s.hbmBytes (p.ppage * 65536 + va % 65536) 4)), t) ∧
      { t with cores := s.cores, tlb := s.tlb, walks := s.walks, hists := s.hists, funcs := s.funcs } = s

/-- The READY lanes of a group that stand at an offset. -/
def standAt (g : Group) (pc : Word) (l : Nat) : Prop := l < 32 ∧ (g.lane l).st = .ready ∧ (g.lane l).pc = pc

/-- The lowest offset at which a READY lane stands (R26). -/
def lowestPc (g : Group) (pc : Word) : Prop :=
  (∃ l, standAt g pc l) ∧ ∀ l, l < 32 → (g.lane l).st = .ready → pc.toNat ≤ (g.lane l).pc.toNat

/-- The clause at an offset is fetched from `s` and decodes (R76, R85): its header, and the words that
follow it, the release word last when the header has one. -/
structure ClauseAt (s : State) (ctx core : Nat) (pc h : Word) (ws : List Word) : Prop where
  header : ∃ s1, s.fetchWord ctx core pc = .ok (h, s1) ∧
    ∃ s2, s1.fetchWords ctx core (pc + 4) (hdrCount h + if hdrRel h then 1 else 0) = .ok (ws, s2)
  fields : headerFault h = none
  words : wordsFault (hdrClass h) (hdrCount h) (ws.take (hdrCount h)) 0 16 = none
  release : hdrRel h = true → releaseFault (ws.getD (hdrCount h) 0) (hdrCount h) = false

/-- A group that may take a clause: it is resident and runs, holds no clause and no wait, no entry is
due, no lane stands inside a clause, and no result waits to enter the registers. -/
structure AtHeader (s : State) (t g : Nat) : Prop where
  team : (s.team? t).isSome = true
  group : ((s.team t).group? g).isSome = true
  runs : (s.team t).running (s.group t g) = true
  clause : (s.group t g).clause = none
  park : (s.group t g).park = .none
  entry : (s.group t g).entryDue = false
  lanes : (s.group t g).lanes.length = 32
  outside : ∀ l, (s.group t g).lanes.length = 32 → ((s.group t g).lane l).mid = none
  landed : ∀ r ∈ (s.group t g).pending, r.landed = false

/-- What taking a clause whose header waits for nothing leaves: the clause with the lanes that stand at
its offset as issue set, its guard read from the predicate and sense of the header (R89), the lanes past
the header, and memory as it was. -/
structure Took (s u : State) (t g : Nat) (pc h : Word) (ws : List Word) : Prop where
  clause : ∃ c, (u.group t g).clause = some c ∧ c.hdr = pc ∧ c.words = ws.take (hdrCount h) ∧ c.slot = 0 ∧
    (∀ l, l < 32 → (c.issue.getLsbD l = true ↔ standAt (s.group t g) pc l)) ∧
    (∀ l, l < 32 → (c.guard.getLsbD l = true ↔
      ((s.group t g).peek (.p (hdrGuard h)) l ≠ 0 ↔ hdrSense h = false)))
  park : (u.group t g).park = .none
  pcs : ∀ l, standAt (s.group t g) pc l → ((u.group t g).lane l).pc = pc + 4
  others : ∀ l, l < 32 → ¬ standAt (s.group t g) pc l → ((u.group t g).lane l).pc = ((s.group t g).lane l).pc
  states : ∀ l, l < 32 → ((u.group t g).lane l).st = ((s.group t g).lane l).st
  memory : u.hbm = s.hbm ∧ u.hostMem = s.hostMem ∧ u.net = s.net

/-- R26, R76, R89: at a clause header the issue address is the lowest PC of the READY lanes, every READY
lane that stands there joins the issue set, and the group takes the clause, unless the cadence timer
exceeds its threshold while a READY lane waits elsewhere (R34). -/
def Claims.ClauseDecode : Prop :=
  ∀ (s : State) (t g : Nat) (pc h : Word) (ws : List Word),
    AtHeader s t g → lowestPc (s.group t g) pc →
    ((s.group t g).timer ≤ max (s.group t g).limit.toNat 16 ∨
      ∀ l, l < 32 → ((s.group t g).lane l).st = .ready → ((s.group t g).lane l).pc = pc) →
    ClauseAt s (s.team t).ctx (s.team t).core pc h ws → hdrWait h = 0 →
    ∃ u, exec (.clauseDecode t g) s = .next u ∧ Took s u t g pc h ws

/-- R34, R32: at a clause header where the timer exceeds the threshold and some READY lane is outside the
lowest-PC set, the group takes a cadence turn: the READY lane outside that set with the greatest wait
age, the lowest lane number on a tie, gives the issue address, every READY lane there joins, and the
timer returns to 0. -/
def Claims.CadenceTurn : Prop :=
  ∀ (s : State) (t g : Nat) (low pc h : Word) (ws : List Word) (l : Nat),
    AtHeader s t g → lowestPc (s.group t g) low →
    max (s.group t g).limit.toNat 16 < (s.group t g).timer →
    standAt (s.group t g) pc l → pc ≠ low →
    (∀ k, k < 32 → ((s.group t g).lane k).st = .ready → ((s.group t g).lane k).pc ≠ low →
      ((s.group t g).lane k).age < ((s.group t g).lane l).age ∨
      (((s.group t g).lane k).age = ((s.group t g).lane l).age ∧ l ≤ k)) →
    ClauseAt s (s.team t).ctx (s.team t).core pc h ws → hdrWait h = 0 →
    ∃ u, exec (.cadenceTurn t g) s = .next u ∧ Took s u t g pc h ws ∧ (u.group t g).timer = 0

end Sys2Proof

/-- R26, R32, R34, R76, R86, R89: code is fetched, and a group takes its next clause, at the lowest offset
or in a cadence turn. Readings: logs 3, 8. -/
def Obligations.ClauseIssue : Prop :=
  Claims.FetchesCode ∧ Claims.ClauseDecode ∧ Claims.CadenceTurn

namespace Sys2Proof

/-- R93 to R95: the waits of a group end when their conditions hold. A group held at a header goes past
it once every condition that the header's wait field selects holds; one parked at a switch marker goes
on once wait bit 0 holds; one held by the scoreboard once no name that its word reads is pending, nor one
that it writes still to return (log 85). The last two change nothing but the park. -/
def Claims.WaitReleases : Prop :=
  (∀ (s : State) (t g : Nat) (h : Word) (c : Clause), (s.team? t).isSome = true →
    ((s.team t).group? g).isSome = true → (s.team t).running (s.group t g) = true →
    (s.group t g).park = .header h → (s.group t g).clause = some c → (s.group t g).entryDue = false →
    (∀ b, b < 6 → h.getLsbD (19 + b) = true → s.waitDone t g b = true) →
    ∃ u, exec (.headerWaitRelease t g) s = .next u ∧ (u.group t g).park = .none ∧
      (∃ d, (u.group t g).clause = some d ∧ { d with guard := c.guard } = c) ∧
      u.hbm = s.hbm ∧ u.net = s.net) ∧
  (∀ (s : State) (t g : Nat), (s.team? t).isSome = true → (s.team t).running (s.group t g) = true →
    (s.group t g).park = .sMark → (∀ r ∈ (s.group t g).pending, r.landed = true ∨ ∀ x ∈ r.live, x.2 = 0) →
    exec (.switchParkRelease t g) s = .next (s.modGroup t g fun x => { x with park := .none })) ∧
  (∀ (s : State) (t g : Nat) (i : Instr), (s.team? t).isSome = true →
    (s.team t).running (s.group t g) = true → (s.group t g).park = .scoreboard →
    (s.group t g).cl.instr = .ok i → (∀ n ∈ readNames i, (s.group t g).busy n = false) →
    (∀ n ∈ writeNames i, (s.group t g).unreturned n = false) →
    exec (.scoreboardRelease t g) s = .next (s.modGroup t g fun x => { x with park := .none }))

/-- No group of the team is at its end, so that nothing ends by itself (R23, R24). -/
def NothingEnds (s : State) (t : Nat) : Prop :=
  (∃ g ∈ (s.team t).groups, g.ended = false) ∧ ∀ g ∈ (s.team t).groups, g.canEnd = false

/-- R91, R92, R42: a long-latency result whose values have all returned lands. Once the clause execution
that issued it is over, each value enters the register element it is still bound for, and no other
element changes; while that execution runs, reads keep the values from before it. -/
def Claims.ResultLands : Prop :=
  ∀ (s : State) (t g i : Nat) (r : PendRes),
    (s.team? t).isSome = true → ((s.team t).group? g).isSome = true → NothingEnds s t →
    (∃ l, l < 32 ∧ ((s.group t g).lane l).st.isExited = false) →
    (s.group t g).pending[i]? = some r → r.need = 0 → r.landed = false →
    (∀ w ∈ r.vals, w.lane < 32 ∧ ∀ w' ∈ r.vals, w'.name = w.name → w'.lane = w.lane → w' = w) →
    ∃ u, exec (.longLatencyResultLands t g i) s = .next u ∧ u.hbm = s.hbm ∧ u.net = s.net ∧
      ((r.seq = (s.group t g).seq ∧ (s.group t g).clause.isSome = true) →
        ∀ n l, (u.group t g).peek n l = (s.group t g).peek n l) ∧
      (¬ (r.seq = (s.group t g).seq ∧ (s.group t g).clause.isSome = true) →
        (∀ n k, (n = .g k ∨ (n = .p k ∧ k ≠ 0) ∨ n = .c k) → ∀ l, l < 32 →
          (u.group t g).peek n l =
            if r.has n l then
              (match r.value? n l with
               | some v => (match n with | .p _ => if v = 0 then 0 else 1 | _ => v)
               | none => (s.group t g).peek n l)
            else (s.group t g).peek n l))

end Sys2Proof

/-- R91 to R95: waits end, and long-latency results land. Readings: log 5. -/
def Obligations.WaitsAndLandings : Prop :=
  Claims.WaitReleases ∧ Claims.ResultLands

namespace Sys2Proof

/-! ### Exceptions -/

/-- The `%tdeleg` bit that can route a code to the team handler (R301, R302). -/
def delegBit (code : Nat) : Option Nat :=
  if code = 0x20 then some 0 else if code = 0x0D ∨ code = 0x0E then some 1
  else if code = 0x28 then some 2 else if code = 0x21 then some 3 else if code = 0x22 then some 4
  else if code = 0x18 ∨ code = 0x19 then some 5 else none

/-- R302, R307: a code goes to the team handler when its class bit in `%tdeleg` and `%tvec`.EN are 1, and
the trap is not raised in a handler; otherwise it goes to the supervisor. -/
def toTeam (s : State) (t g code : Nat) : Prop :=
  (s.group t g).frames = [] ∧ (s.team t).tvec.getLsbD 0 = true ∧
    ∃ k, delegBit code = some k ∧ (s.ctxFunc (s.team t).ctx).tdeleg.getLsbD k = true

/-- A lane is PARKED with a code pending. -/
def parkedWith (g : Group) (l code : Nat) : Prop :=
  ∃ p, (g.lane l).st = .parked (.trapped p) ∧ p.code = code

/-- The precise code that R304 has an entry deliver: one for the supervisor before a delegated one, then
the lowest. -/
def delivered (s : State) (t g code : Nat) : Prop :=
  (∃ l, l < 32 ∧ parkedWith (s.group t g) l code) ∧
    ∀ l c, l < 32 → parkedWith (s.group t g) l c →
      (toTeam s t g code ∧ toTeam s t g c ∧ code ≤ c) ∨ (¬ toTeam s t g code ∧ (toTeam s t g c ∨ code ≤ c))

/-- The record that R304 has an entry deliver when no lane is parked with a code: of those that the group
receives, one for the supervisor before a delegated one, then the lowest code, then the oldest; and
whether its issuer has ended (R311). -/
def deliveredRecord (s : State) (t g : Nat) (pre post : List FaultRec) (r : FaultRec) (exited : Bool) : Prop :=
  (s.team t).records = pre ++ r :: post ∧ (s.team t).receiver r = some (g, exited) ∧
    (∀ l c, l < 32 → ¬ parkedWith (s.group t g) l c) ∧
    (∀ y ∈ pre, ∀ b, (s.team t).receiver y = some (g, b) → y.code ≠ r.code) ∧
    ∀ y ∈ (s.team t).records, ∀ b, (s.team t).receiver y = some (g, b) →
      (toTeam s t g r.code ∧ toTeam s t g y.code ∧ r.code ≤ y.code) ∨
      (¬ toTeam s t g r.code ∧ (toTeam s t g y.code ∨ r.code ≤ y.code))

/-- A group whose entry is due and whose results have landed, and the handler's offset for a code (R302,
R303). -/
structure EntersAt (s : State) (t g code : Nat) (v : Word) : Prop where
  team : (s.team? t).isSome = true
  group : ((s.team t).group? g).isSome = true
  runs : (s.team t).running (s.group t g) = true
  lanes : (s.group t g).lanes.length = 32
  clause : (s.group t g).clause = none
  park : (s.group t g).park = .none
  due : (s.group t g).entryDue = true
  landed : (s.group t g).regsDone = true
  begun : (s.group t g).entering = true → (s.group t g).queue = []
  untraced : (s.ctxFunc (s.team t).ctx).tracectl.getLsbD 0 = false
  own : toTeam s t g code → v = (s.team t).tvec &&& 0xFFFFFFFC
  table : ¬ toTeam s t g code → s.codeWord (s.team t).ctx
    (BitVec.ofNat 32 ((s.ctxFunc (s.team t).ctx).svtab.toNat / 256 * 256 + 4 * code)) = some v

/-- What every entry leaves (R303, R306, R307): the queue drained, every lane READY at the vector, the
registers as they were, the code and the lanes that were READY or PARKED in the trap registers, the
interrupted lanes kept; and for a trap of a team handler that handler's trap registers in bytes 224 to 255 of
the trap frames. -/
structure Entered (s u : State) (t g code : Nat) (v : Word) : Prop where
  memory : u.hbm = s.hbm ∧ u.hostMem = s.hostMem
  queue : (u.group t g).queue = []
  entry : (u.group t g).entry = none
  lanes : ∀ l, l < 32 → ((u.group t g).lane l).st = .ready ∧ ((u.group t g).lane l).pc = v
  regs : ∀ n l, (u.group t g).read n l = (s.group t g).read n l
  reason : (u.group t g).trapRegs.code = code
  act : ∀ l, l < 32 → ((u.group t g).trapRegs.act.getLsbD l = true ↔
    ((s.group t g).lane l).st = .ready ∨ ((s.group t g).lane l).st.isParked = true)
  frame : ∃ h, (u.group t g).frames = h :: (s.group t g).frames ∧ h.lanes = (s.group t g).lanes ∧
    (h.sup = true ↔ ¬ toTeam s t g code)
  nested : (s.group t g).frames ≠ [] → ∀ l, l < 32 →
    let x := (s.group t g).trapRegs
    let word (off : Nat) : Nat := (u.group t g).frame.readLe (frameKey l off) 4
    word 224 = x.code % 2 ^ 32 ∧ word 228 = x.info.toNat ∧ word 232 = x.act.toNat ∧ word 236 = x.flt.toNat ∧
      word 240 = x.instr.toNat ∧ word 244 = x.pc.toNat ∧
      (u.group t g).frame.readLe (frameKey l 248) 8 = (tget 0 x.addr l).toNat

end Sys2Proof

/-- R303 to R307, R311: an entry that is due, its results landed, delivers the code of R304 and leaves what
`Entered` says. For parked lanes the trap registers hold the faulting lanes with their addresses, and the
word and offset of the lowest of them; for a record its lane, unless its issuer has ended, its address,
offset and issuer, with IMPRECISE set, and the record is no longer kept; the handler of an ECC record of a `chain`
is the one at whose `eret` that chain goes on. NESTED is set for a trap of a team handler. An entry that is due
begins with the drain of the queue, before the group's results have landed, and nothing else happens then. It is the
model's reading that a record delivered to a group in its team handler goes to the supervisor with NESTED (log 55),
when the drain is made (log 78), and which handler a chain waits for (log 38). -/
def Obligations.TrapEntry : Prop :=
  (∀ (s : State) (t g code : Nat) (v : Word),
    let x := s.group t g
    EntersAt s t g code v → delivered s t g code →
    ∃ u, exec (.handlerEntry t g) s = .next u ∧ Entered s u t g code v ∧
      (u.group t g).trapRegs.info = (if x.frames = [] then 0 else 4) ∧
      (∀ l, l < 32 → ((u.group t g).trapRegs.flt.getLsbD l = true ↔ parkedWith x l code)) ∧
      (∀ l p, l < 32 → (x.lane l).st = .parked (.trapped p) → p.code = code →
        tget 0 (u.group t g).trapRegs.addr l = p.addr ∧
        ((∀ k, k < l → ¬ parkedWith x k code) →
          (u.group t g).trapRegs.instr = p.word ∧ (u.group t g).trapRegs.pc = p.pc)) ∧
      ∀ l, l < 32 → ¬ parkedWith x l code → tget 0 (u.group t g).trapRegs.addr l = 0) ∧
  (∀ (s : State) (t g : Nat) (v : Word) (pre post : List FaultRec) (r : FaultRec) (exited : Bool),
    EntersAt s t g r.code v → deliveredRecord s t g pre post r exited →
    ∃ u, exec (.handlerEntry t g) s = .next u ∧ Entered s u t g r.code v ∧
      (u.team t).records = pre ++ post ∧
      (u.group t g).trapRegs.info = BitVec.ofNat 32 (1 + (if exited then 2 else 0) +
        (if (s.group t g).frames = [] then 0 else 4) + 256 * r.group) ∧
      (u.group t g).trapRegs.instr = 0 ∧ (u.group t g).trapRegs.pc = r.pc ∧
      (∀ l, l < 32 → ((u.group t g).trapRegs.flt.getLsbD l = true ↔ exited = false ∧ l = r.lane) ∧
        tget 0 (u.group t g).trapRegs.addr l = if l = r.lane then r.addr else 0) ∧
      ∀ o, ((s.team t).group? r.group).isSome = true → (s.group t r.group).chprog = some o → r.code = 0x48 →
        o.failed = true → o.handler = none → o.pc = r.pc →
        (u.group t r.group).chprog = some { o with handler := some g }) ∧
  (∀ (s : State) (t g : Nat),
    let x := s.group t g
    (s.team? t).isSome = true → ((s.team t).group? g).isSome = true → (s.team t).running x = true →
    x.park = .none → x.entryDue = true → x.regsDone = false → x.entering = false →
    ∃ u ps, exec (.handlerEntry t g) s = .next u ∧ u.hbm = s.hbm ∧ u.net = s.net ++ ps ∧
      (ps.map fun p => (p.loc, p.op)) = (queueWrites x.queue).map (fun w => (w.loc, .write w.bytes)) ∧
      u.group t g = { x with queue := [], entering := true, perf := (u.group t g).perf })

namespace Sys2Proof

/-- What `eret` finds in a handler with nothing left to land or drain (R308). -/
structure Returns (m : Mods) (s : State) (f : Frame) (rest : List Frame) : Prop where
  word : CanIssue (.eret m) s
  atEnd : AtEnd s
  active : s.active (.eret m) ≠ 0
  frames : s.cg.frames = f :: rest
  lanes : f.lanes.length = 32
  landed : s.cg.regsDone = true
  drained : s.cg.queue = []

/-- The group as recorded at entry (R308): lanes in `%tmask_flt` that are PARKED are READY at their
`%lanepc`, the others as recorded, each with its stack pointer as the handler left it; the registers stand. -/
structure Resumed (s t : State) (f : Frame) (rest : List Frame) : Prop where
  frames : t.cg.frames = rest
  clause : t.cg.clause = none
  regs : ∀ n l, t.cg.read n l = s.cg.read n l
  lanes : ∀ l, l < 32 →
    let x := f.lanes.getD l (Lane.placed 0 0)
    (t.cg.lane l).pc = x.pc ∧ (t.cg.lane l).lsp = (s.cg.lane l).lsp ∧
      (t.cg.lane l).st = (if s.cg.trapRegs.flt.getLsbD l && x.st.isTrapped then .ready else x.st)

/-- R291: where the handler that returns had a record of an uncorrectable error, the chain that waits for it reads
its rows again (log 38). -/
def chainsGoOn (s : State) : State :=
  let again (o : ChainOp) : ChainOp :=
    if o.handler = some s.curGroup ∧ o.pc = s.cg.trapRegs.pc then { o with failed := false, handler := none } else o
  if s.cg.trapRegs.code = 0x48 ∧ s.cg.trapRegs.info.getLsbD 0 = true then
    s.modCt fun t => { t with groups := t.groups.map fun x => { x with chprog := x.chprog.map again } }
  else s

/-- The trap registers after `eret` (R305, R307, R345): those that bytes 224 to 255 of the trap frames hold
where the entry was nested, those that a stop kept, else the entry's own. -/
def RegsAfter (s t : State) (f : Frame) : Prop :=
  let word (off : Nat) : Word := BitVec.ofNat 32 (s.cg.frame.readLe (frameKey 0 off) 4)
  (∀ r, f.regs = some r → t.cg.trapRegs = r) ∧
  (f.regs = none → f.nested = false → t.cg.trapRegs = s.cg.trapRegs) ∧
  (f.regs = none → f.nested = true →
    t.cg.trapRegs.code = (word 224).toNat % 256 ∧ t.cg.trapRegs.info = word 228 ∧
    t.cg.trapRegs.act = word 232 ∧ t.cg.trapRegs.flt = word 236 ∧ t.cg.trapRegs.instr = word 240 ∧
    t.cg.trapRegs.pc = word 244 ∧
    ∀ l, l < 32 → tget 0 t.cg.trapRegs.addr l = BitVec.ofNat 64 (s.cg.frame.readLe (frameKey l 248) 8))

end Sys2Proof

/-- R308, R314, R345: `eret` returns the group to the state recorded at entry. Outside a stop nothing of the
other groups changes but a chain that waited for the handler, and a nested entry's return gives the team handler its trap registers back. The
handler of a stop that has saved no image declines it: the team runs on; the one that has saved an image
leaves the core, its berth records, landing entries and slips with it. Outside a handler `eret` traps
ILLEGAL_OPERAND in every active lane. Readings: logs 15, 38, 49. -/
def Obligations.TrapReturn : Prop :=
  (∀ (m : Mods) (s : State) (f : Frame) (rest : List Frame),
    Returns m s f rest → s.ct.stop = .none → s.cg.saved = none →
    (∃ l, l < 32 ∧ (f.lanes.getD l (Lane.placed 0 0)).st.isExited = false) → NothingEnds s s.curTeam →
    ∃ t, exec (.eret m) s = .next t ∧ RestKept (chainsGoOn s) t ∧ Resumed s t f rest ∧ RegsAfter s t f ∧
      ∀ n, f.entry = some n → t.cg.entry = some n) ∧
  (∀ (m : Mods) (s : State) (f : Frame) (rest : List Frame) (code : Nat) (live : Bool),
    Returns m s f rest → f.sup = true → s.ct.stop = .handler code live → s.ct.peloton = false →
    s.ct.resumeCw = none → s.cg.saved = none →
    (∃ l, l < 32 ∧ (f.lanes.getD l (Lane.placed 0 0)).st.isExited = false) → NothingEnds s s.curTeam →
    ∃ t, exec (.eret m) s = .next t ∧ Resumed s t f rest ∧ RegsAfter s t f ∧ t.ct.stop = .none ∧
      t.hbm = s.hbm ∧ t.net = s.net ∧ (∀ k, k ≠ s.curTeam → t.team? k = s.team? k) ∧
      ∀ g ∈ t.ct.groups, g.stopped = false ∧ ∀ o, g.chprog = some o → o.kind = .chain → o.stopped = false) ∧
  (∀ (m : Mods) (s : State) (f : Frame) (rest : List Frame) (image : Nat) (reserved : Bool),
    Returns m s f rest → s.cg.saved = some (image, reserved) →
    ∃ t, exec (.eret m) s = .next t ∧ t.teams = s.teams.filter (fun u => u.key != s.curTeam) ∧
      t.hbm = s.hbm ∧ t.net = s.net ∧ (∀ b ∈ (t.core s.ct.core).berths, b.2.team ≠ s.curTeam) ∧
      (∀ e ∈ (t.core s.ct.core).landing, e.2.team ≠ s.curTeam) ∧
      (∀ x ∈ (t.core s.ct.core).slips, x.2.team ≠ s.curTeam) ∧
      (reserved = true → ∀ p, p < s.ct.rows / 32 →
        (tfind (t.core s.ct.core).held (s.ct.firstUnit + p)).isSome = true) ∧
      (reserved = false → (t.core s.ct.core).held = (s.core s.ct.core).held)) ∧
  (∀ (m : Mods) (s : State), CanIssue (.eret m) s → AtEnd s → s.cg.frames = [] → NothingEnds s s.curTeam →
    (∃ l, (s.active (.eret m)).getLsbD l = true) →
    ∃ t, exec (.eret m) s = .next t ∧
      ∀ l, (s.active (.eret m)).getLsbD l = true → Trapped s t l 3 0)

namespace Sys2Proof

/-- R344, R303: `trap` raises SOFT_TRAP with IMM16 as the lane's address in every active lane and leaves
those lanes PARKED past the word; `dbrk` raises DBRK likewise and leaves them at the word; the lanes that
are guarded off go on, and an entry begins. -/
def Claims.SoftwareTraps : Prop :=
  ∀ (i : Instr) (imm : BitVec 16) (m : Mods) (brk : Bool) (s : State),
    (i = .dbrk imm m ∧ brk = true ∨ i = .trap imm m ∧ brk = false) →
    CanIssue i s → s.cg.inSup = false → isControlFlow s.cl.op = false → s.active i ≠ 0 →
    ∃ t, exec i s = .next t ∧ RestKept s t ∧ t.cg.entry.isSome = true ∧
      (∀ n l, t.cg.read n l = s.cg.read n l) ∧
      ∀ l, l < 32 →
        ((s.active i).getLsbD l = true → (∃ p, (t.cg.lane l).st = .parked (.trapped p) ∧
            p.code = (if brk then 0x21 else 0x22) ∧ p.addr.toNat = imm.toNat ∧ p.pc = s.cl.here) ∧
          (t.cg.lane l).pc = if brk then s.cl.here else nextPc s.cl) ∧
        ((s.active i).getLsbD l = false → s.cl.issue.getLsbD l = true →
          (t.cg.lane l).st = (s.cg.lane l).st ∧ (t.cg.lane l).pc = nextPc s.cl)

/-- R7, R301: an active lane of an integer instruction that reads a register with an uncorrectable error
traps ECC_UNCORRECTABLE, and its destination is unchanged; the other active lanes receive their results.
Which registers hold an error is free (log 28). -/
def Claims.RegisterErrors : Prop :=
  ∀ (i : Instr) (d : BitVec 7) (f : Group → Nat → Word) (s : State),
    integerResult i = some (d, f) → (s.team? s.curTeam).isSome = true → (s.ct.group? s.curGroup).isSome = true →
    s.cg.ended = false → s.cg.lanes.length = 32 → withinBudget s.cg i = true → s.cg.inSup = false →
    s.eccLanes i ≠ 0 →
    ∃ t, exec i s = .next t ∧ RestKept s t ∧ ∀ l, l < 32 →
      ((s.eccLanes i).getLsbD l = true → Trapped s t l 0x48 0) ∧
      t.cg.rg d l = if (s.active i).getLsbD l && !(s.eccLanes i).getLsbD l then f s.cg l else s.cg.rg d l

end Sys2Proof

/-- R84, R85, R104, R344: traps that a word's own operands or its opcode raise, and the instructions
whose effect is a trap. -/
def Obligations.RaisedTraps : Prop :=
  Claims.BranchTraps ∧ Claims.Undefined ∧ Claims.SoftwareTraps ∧ Claims.RegisterErrors

namespace Sys2Proof

/-! ### Memory -/

/-- A draining instruction drains: when it is issued, and not again when a wait of its own is over (R167); one
that is active in no lane takes no effect (log 89). -/
def drains (s : State) (i : Instr) : Bool :=
  decide (s.active i ≠ 0) && (decide (s.cg.park = .none) || decide (s.cg.park = .release))

/-- The writes a draining instruction sends first. -/
def drainOps (s : State) (i : Instr) : List (TmLoc × PacketOp × Option Scope) :=
  if drains s i then queueOps s.cg.queue else []

/-- The queue a draining instruction leaves. -/
def queueAfter (s : State) (i : Instr) : List QItem := if drains s i then [] else s.cg.queue

/-- A word of a memory instruction changes, beside what a word changes, only the packets on their way. -/
def AccessFrame (i : Instr) (own : Group → Group) (s t : State) : Prop :=
  WordFrame i own s { t with net := s.net }

/-- A result that waits for the homes: what the pending result of a load or an atomic holds. -/
def Expects (t : State) (id : Nat) (names : List RegName) (act need : Nat → Prop) (p : PendRes → Prop) : Prop :=
  ∃ r ∈ t.cg.pending, r.id = id ∧ r.landed = false ∧ p r ∧
    (∀ n l, l < 32 → (r.has n l = true ↔ act l ∧ n ∈ names)) ∧
    (∀ l, l < 32 → (r.need.getLsbD l = true ↔ need l))

/-- R139, R140, R142, R157, R159, R301: the checks of an element access in their order: alignment to its
width, the pointer's fields and range, the tag of every granule it touches, a watchpoint, an
uncorrectable word, poisoned data; the first that fails gives the trap's code with the pointer as address,
a watchpoint with the address of the lowest byte it hits. -/
def Claims.AccessChecks : Prop :=
  ∀ (s : State) (t : Team) (g : Group) (lane : Nat) (sp : Space) (p n : Nat) (rd wr : Bool),
    0 < n →
    let c := s.checkElem t g lane sp p n rd wr
    (p % n ≠ 0 → c = .error (0x0C, p)) ∧
    (p % n = 0 → s.place t g sp p n = none → c = .error (0x0B, p)) ∧
    (∀ loc, p % n = 0 → s.place t g sp p n = some (.tm loc) →
      (s.tagsMatch (ptrTag p) loc n = false → c = .error (0x0D, p)) ∧
      (s.tagsMatch (ptrTag p) loc n = true →
        (∀ k, s.watchHit t g lane (watchSpace sp) rd wr p n = some k → c = .error (0x20, p + k)) ∧
        (s.watchHit t g lane (watchSpace sp) rd wr p n = none →
          ((rd = true ∧ s.tmEcc loc n = true) → c = .error (0x48, p)) ∧
          (¬ (rd = true ∧ s.tmEcc loc n = true) →
            ((rd = true ∧ s.tmPoison loc n = true) → c = .error (0x49, p)) ∧
            (¬ (rd = true ∧ s.tmPoison loc n = true) → c = .ok (.tm loc)))))) ∧
    (∀ off, p % n = 0 → s.place t g sp p n = some (.sk off) →
      (∀ k, s.watchHit t g lane (watchSpace sp) rd wr p n = some k → c = .error (0x20, p + k)) ∧
      (s.watchHit t g lane (watchSpace sp) rd wr p n = none →
        ((rd = true ∧ s.skEcc t g lane off n = true) → c = .error (0x48, p)) ∧
        (¬ (rd = true ∧ s.skEcc t g lane off n = true) → c = .ok (.sk off))))

/-- R194, R197, R164, R177, R91: `ld` completes where no acquire or tag write of the group holds its
lanes, every active lane passes its checks and the lines it reads are present. Each lane of the spill
slice takes its words from the slice; for each lane of team memory a read goes to the home, with the
bytes the lane's own queued stores forward, one packet for each access (in TEST mode for each 4-byte
element); the registers receive the words when the reads have returned. A lane whose line is absent
parks the group, and nothing else happens (R144). -/
def Claims.Loads : Prop :=
  (∀ (d : BitVec 7) (ad : Addr) (ty : MTy) (v : Vec) (acq : Option Scope) (pro : Bool) (m : Mods)
      (s : State) (pl : Nat → Place),
    let i : Instr := .ld d ad ty v acq pro m
    let w := ty.size * v.count
    let names := gBlock d (ty.regs * v.count)
    let act (l : Nat) : Prop := (s.active i).getLsbD l = true
    let tmLanes : List (Nat × TmLoc) := (lanesOf (s.active i)).filterMap fun l =>
      match pl l with | .tm x => some (l, x) | .sk _ => none
    CanIssue i s → s.accessHeld s.curTeam s.curGroup (s.active i) = false →
    (∀ l, act l → s.checkElem s.ct s.cg l ad.sp (eaOf ad s.cg l) w true false = .ok (pl l) ∧
      s.absentPlace (pl l) w = false) →
    ∃ t, exec i s = .next t ∧
      AccessFrame i (fun g => if tmLanes = [] then g else { g with sample := none }) s t ∧
      Sends s t (tmLanes.flatMap fun x => (loadPieces s.ct.test ty v.count names).map fun p =>
        ({ x.2 with addr := x.2.addr + p.off },
          .read s.fresh x.1 p.names p.ty p.n
            ((s.cg.forwards x.1 x.2 (p.off + p.ty.size * p.n)).drop p.off) pro, none)) ∧
      pendingIds t = pendingIds s ++ [s.fresh] ∧
      Expects t s.fresh names act (fun l => ∃ x, (l, x) ∈ tmLanes) fun r =>
        r.loads = true ∧ r.acquire = acq.isSome ∧
        ∀ (l off k : Nat) (n : RegName), act l → pl l = .sk off → names[k]? = some n →
          r.value? n l = (loadWords ty v.count (s.cg.skBytes l off w))[k]?) ∧
  (∀ (d : BitVec 7) (ad : Addr) (ty : MTy) (v : Vec) (acq : Option Scope) (pro : Bool) (m : Mods)
      (s : State) (l : Nat) (x : TmLoc),
    let i : Instr := .ld d ad ty v acq pro m
    CanIssue i s → s.accessHeld s.curTeam s.curGroup (s.active i) = false →
    (s.active i).getLsbD l = true →
    s.checkElem s.ct s.cg l ad.sp (eaOf ad s.cg l) (ty.size * v.count) true false = .ok (.tm x) →
    s.present x (ty.size * v.count) = false →
    exec i s = .next (s.modCg fun g => { g with park := .ld }))

/-- R198: `ldu` makes one checked access to team or cluster memory, for its lowest active lane, and binds
the scalars for its words; with no lane active it does nothing. -/
def Claims.UniformLoads : Prop :=
  ∀ (d : BitVec 6) (ad : Addr) (ty : MTy) (v : Vec) (m : Mods) (s : State),
    let i : Instr := .ldu d ad ty v m
    let w := ty.size * v.count
    let names := sBlock d (ty.regs * v.count)
    let low := (lanesOf (s.active i)).headD 0
    CanIssue i s → s.accessHeld s.curTeam s.curGroup (s.active i) = false →
    (s.active i = 0 → ∃ t, exec i s = .next t ∧ WordFrame i id s t ∧ pendingIds t = pendingIds s) ∧
    ∀ x, s.active i ≠ 0 →
      s.checkElem s.ct s.cg low ad.sp (eaOf ad s.cg 0) w true false = .ok (.tm x) → s.present x w = true →
      ∃ t, exec i s = .next t ∧ AccessFrame i (fun g => { g with sample := none }) s t ∧
        Sends s t ((loadPieces s.ct.test ty v.count names).map fun p =>
          ({ x with addr := x.addr + p.off },
            .read s.fresh 0 p.names p.ty p.n
              ((s.cg.forwards low x (p.off + p.ty.size * p.n)).drop p.off) false, none)) ∧
        pendingIds t = pendingIds s ++ [s.fresh] ∧
        Expects t s.fresh names (fun l => l = 0) (fun l => l = 0) fun r => r.acquire = false

end Sys2Proof

/-- R194, R197, R198: `ld` and `ldu`. -/
def Obligations.Loads : Prop :=
  Claims.Loads ∧ Claims.UniformLoads

namespace Sys2Proof

/-- R197: an element is stored and loaded with its low byte first and its low word first: the words that
loading the stored bytes gives are the register words, each cut to the width of the type and extended
with zeros or with its sign. -/
def Claims.StoredElements : Prop :=
  ∀ (ty : MTy) (n : Nat) (g : Group) (b : BitVec 7) (l : Nat),
    (storeBytes ty n g b l).length = ty.size * n ∧
    loadWords ty n (storeBytes ty n g b l) = (List.range n).flatMap fun m =>
      let lo := g.read (.g (b.toNat + ty.regs * m)) l
      match ty with
      | .i32 | .w32 => [lo]
      | .w16 => [lo &&& 0xFFFF]
      | .w8 => [lo &&& 0xFF]
      | .i16 => [(lo.setWidth 16).signExtend 32]
      | .i8 => [(lo.setWidth 8).signExtend 32]
      | .i64 | .w64 => [lo, g.read (.g (b.toNat + 2 * m + 1)) l]

/-- R163 to R168, R170, R177, R197: `st` completes where no acquire or tag write holds its lanes, every
active lane passes its checks, and no matrix operation still reads a range it stores to. A lane of the
spill slice writes the slice at once. The writes to team memory make one entry of the commit queue, lanes
ascending; a full queue is drained first and its overflow recorded; a release drains the queue and sends
its writes at once, ordered after what its scope covers, and TEST mode sends its writes at once; memory
itself is written by the homes. -/
def Claims.Stores : Prop :=
  ∀ (b : BitVec 7) (ad : Addr) (ty : MTy) (v : Vec) (rel : Option Scope) (m : Mods) (s : State)
      (pl : Nat → Place),
    let i : Instr := .st b ad ty v rel m
    let w := ty.size * v.count
    let s0 := if rel.isSome then s.drainAt i else s
    let data (l : Nat) : List Byte := storeBytes ty v.count s.cg b l
    let writes : List LaneWrite := (lanesOf (s.active i)).filterMap fun l =>
      match pl l with | .tm x => some { lane := l, loc := x, bytes := data l } | .sk _ => none
    let slices (g : Group) : Group := (lanesOf (s.active i)).foldl (fun g l =>
      match pl l with | .sk off => g.skPuts l off (data l) | .tm _ => g) g
    let full : Prop := s.ct.quantum ≤ s.cg.entries
    CanIssue i s → s.accessHeld s.curTeam s.curGroup (s.active i) = false →
    (∀ l, (s.active i).getLsbD l = true →
      s0.checkElem s0.ct s0.cg l ad.sp (eaOf ad s.cg l) w false true = .ok (pl l)) →
    (rel = none → ∀ x ∈ writes, s.berthHeld s.fresh x.loc w = false) →
    (∀ sc, rel = some sc → ∃ t, exec i s = .next t ∧
      AccessFrame i (fun g => { slices g with queue := queueAfter s i }) s t ∧ pendingIds t = pendingIds s ∧
      Sends s t (drainOps s i ++ writes.map fun x => (x.loc, .write x.bytes, some sc))) ∧
    (rel = none → s.ct.test = true → ∃ t, exec i s = .next t ∧ AccessFrame i slices s t ∧
      pendingIds t = pendingIds s ∧
      Sends s t (writes.flatMap fun x => (storePieces true x.loc x.bytes).map fun p =>
        (p.1, .write p.2, none))) ∧
    (rel = none → s.ct.test = false → writes = [] →
      ∃ t, exec i s = .next t ∧ WordFrame i slices s t ∧ pendingIds t = pendingIds s) ∧
    (rel = none → s.ct.test = false → writes ≠ [] → ¬ full → ∃ t, exec i s = .next t ∧
      WordFrame i (fun g => { slices g with queue := g.queue ++ [.entry writes] }) s t ∧
      pendingIds t = pendingIds s) ∧
    (rel = none → s.ct.test = false → writes ≠ [] → full → ∃ t, exec i s = .next t ∧
      AccessFrame i (fun g => { slices g with queue := [.entry writes], qovf := true }) s t ∧
      pendingIds t = pendingIds s ∧ Sends s t (queueOps s.cg.queue))

end Sys2Proof

/-- R163 to R168, R170, R197: `st`, and the bytes it stores. -/
def Obligations.Stores : Prop :=
  Claims.Stores ∧ Claims.StoredElements

namespace Sys2Proof

/-- R142, R303: in a load or store, a lane that fails a check is PARKED at the word with the code and
address of its first failed check; it has no effect on its registers, and the lanes that pass go on. -/
def Claims.AccessTraps : Prop :=
  ∀ (i : Instr) (ad : Addr) (w : Nat) (rd : Bool) (s : State),
    ((∃ d ty v acq pro m, i = .ld d ad ty v acq pro m ∧ w = ty.size * v.count ∧ rd = true ∧
        s.ldBlocked i ad w = false) ∨
      (∃ b ty v m, i = .st b ad ty v none m ∧ w = ty.size * v.count ∧ rd = false ∧
        ∀ l x, (s.active i).getLsbD l = true →
          s.checkElem s.ct s.cg l ad.sp (eaOf ad s.cg l) w rd (!rd) = .ok (.tm x) →
          s.berthHeld s.fresh x w = false)) →
    CanIssue i s → s.cg.inSup = false → s.accessHeld s.curTeam s.curGroup (s.active i) = false →
    ∃ t, exec i s = .next t ∧
      (∀ l e, (s.active i).getLsbD l = true →
        s.checkElem s.ct s.cg l ad.sp (eaOf ad s.cg l) w rd (!rd) = .error e → Trapped s t l e.1 e.2) ∧
      (∀ l pl, (s.active i).getLsbD l = true →
        s.checkElem s.ct s.cg l ad.sp (eaOf ad s.cg l) w rd (!rd) = .ok pl →
        (t.cg.lane l).st = (s.cg.lane l).st) ∧
      (∀ n l, l < 32 → n ∉ writeNames i → released s i n = false → t.cg.read n l = s.cg.read n l)

end Sys2Proof

/-- R139 to R142, R157, R159: the checks of an element access, and what a lane that fails one does. Readings: logs 28, 83. -/
def Obligations.AccessChecks : Prop :=
  Claims.AccessChecks ∧ Claims.AccessTraps

namespace Sys2Proof

/-! ### Atomics -/

/-- Layout of an atomic: result block, operand, address, type, operation (none compares and swaps),
ordering, scope and promotion. -/
def atomicForm : Instr → Option (BitVec 7 × BitVec 7 × AddrX × ATy × Option AOp × AOrd × Scope × Bool)
  | .atom o => some (o.d, o.b, o.ad, o.t, some o.op, o.ord, o.scope, o.pro)
  | .atomcas o => some (o.d, o.b, o.ad, o.t, none, o.ord, o.scope, o.pro)
  | _ => none

/-- The lanes of a `red`, which returns no data, pass their checks and reach these places. -/
def UpdateAt (i : Instr) (ad : AddrX) (t : ATy) (s : State) (loc : Nat → TmLoc) : Prop :=
  ∀ l, (s.active i).getLsbD l = true →
    (s.drainAt i).checkUpdate (s.drainAt i).ct (s.drainAt i).cg l (spOfX ad) (eaOfX ad s.cg l)
      (if t.wide then 8 else 4) true true = .ok (.tm (loc l))

/-- The lanes of an atomic pass their checks and reach these places. -/
def AtomicAt (i : Instr) (ad : AddrX) (t : ATy) (s : State) (loc : Nat → TmLoc) : Prop :=
  ∀ l, (s.active i).getLsbD l = true →
    (s.drainAt i).checkElem (s.drainAt i).ct (s.drainAt i).cg l (spOfX ad) (eaOfX ad s.cg l)
      (if t.wide then 8 else 4) true true = .ok (.tm (loc l))

/-- R200, R201, R167: `atom` and `atomcas` complete where nothing holds their lanes and every active lane
passes its checks: the queue drains, one read-modify-write goes to the home for each active lane, lanes
ascending, a release among them ordered after what its scope covers, and the old values are bound for
the destination. `red` sends the same without a result. -/
def Claims.Atomics : Prop :=
  (∀ (i : Instr) (d b : BitVec 7) (ad : AddrX) (ty : ATy) (op : Option AOp) (ord : AOrd) (sc : Scope)
      (pro : Bool) (s : State) (loc : Nat → TmLoc),
    atomicForm i = some (d, b, ad, ty, op, ord, sc, pro) →
    CanIssue i s → s.accessHeld s.curTeam s.curGroup (s.active i) = false →
    ¬ (ty = .f32 ∧ op.isSome = true ∧ s.replaying s.ct = true) → AtomicAt i ad ty s loc →
    let id := s.fresh + (drainOps s i).length
    let words := if ty.wide then 2 else 1
    ∃ t, exec i s = .next t ∧
      AccessFrame i (fun g => { g with
        queue := queueAfter s i
        sample := if s.active i = 0 then g.sample else none }) s t ∧
      pendingIds t = pendingIds s ++ [id] ∧
      Sends s t (drainOps s i ++ (lanesOf (s.active i)).map fun l =>
        (loc l, .atomic (some id) l (gBlock d ty.regs) ty op (atomOperand s.cg ty.wide b.toNat l)
          (if op.isNone then atomOperand s.cg ty.wide (b.toNat + words) l else 0) (pro && ord.isAcq),
          if ord.isRel then some sc else none)) ∧
      Expects t id (gBlock d ty.regs) (fun l => (s.active i).getLsbD l = true)
        (fun l => (s.active i).getLsbD l = true) fun r => r.atomic = true ∧ r.acquire = ord.isAcq) ∧
  (∀ (o : OpRed) (s : State) (loc : Nat → TmLoc),
    CanIssue (.red o) s → s.accessHeld s.curTeam s.curGroup (s.active (.red o)) = false →
    ¬ (o.t = .f32 ∧ s.replaying s.ct = true) → UpdateAt (.red o) o.ad o.t s loc →
    ∃ t, exec (.red o) s = .next t ∧
      AccessFrame (.red o) (fun g => { g with queue := queueAfter s (.red o) }) s t ∧
      pendingIds t = pendingIds s ∧
      Sends s t (drainOps s (.red o) ++ (lanesOf (s.active (.red o))).map fun l =>
        (loc l, .atomic none l [] o.t (some o.op) (atomOperand s.cg o.t.wide o.b.toNat l) 0 false,
          if o.rel then some o.scope else none)))

/-- R178: in a grid that buffers them, a floating-point `red` records its place, operation and operand
with its team and thread, lanes ascending, and touches no memory: no byte of main memory, host memory or any
team's memory changes, and no packet but those of the drain leaves. -/
def Claims.RecordedReductions : Prop :=
  ∀ (o : OpRed) (s : State) (loc : Nat → TmLoc) (g : Grid),
    let i : Instr := .red o
    let lanes := lanesOf (s.active i)
    let f := s.ctxFunc s.ct.ctx
    CanIssue i s → s.accessHeld s.curTeam s.curGroup (s.active i) = false →
    o.t = .f32 → s.grid? s.ct.grid = some g → g.replay = some true → UpdateAt i o.ad o.t s loc →
    f.replayUsed + lanes.length ≤ replayRoom f →
    ∃ t, exec i s = .next t ∧
      (t.grid? s.ct.grid).map (·.replayRecs) = some (g.replayRecs ++ lanes.mapIdx fun k l =>
        (s.ct.linear, s.curGroup * 32 + l, g.replayRecs.length + k, loc l, o.op, s.cg.rg o.b l)) ∧
      (t.ctxFunc s.ct.ctx).replayUsed = f.replayUsed + lanes.length ∧
      t.hbm = s.hbm ∧ t.hostMem = s.hostMem ∧ (∀ k a, (t.team k).tm.read a = (s.team k).tm.read a) ∧
      Sends s t (drainOps s i) ∧ t.cg.queue = queueAfter s i ∧ pendingIds t = pendingIds s ∧
      ∀ n l, l < 32 → n ∉ writeNames i → released s i n = false → t.cg.read n l = s.cg.read n l

end Sys2Proof

/-- R178, R200, R201: atomics and reductions. Readings: log 68. -/
def Obligations.Atomics : Prop :=
  Claims.Atomics ∧ Claims.RecordedReductions

namespace Sys2Proof

/-! ### Fences, presence and tags -/

/-- R202, R169, R179: `fence` drains the queue; it completes once no packet of the group that its scope covers
is on its way, nor, at a scope that reaches other cores, one of the team that a narrower release has covered,
and the values of earlier loads and atomics have returned; until then the group waits. A group- or team-scope
fence marks the packets still on their way to other cores as released (log 94). -/
def Claims.Fences : Prop :=
  ∀ (sc : Scope) (m : Mods) (s : State),
    let i : Instr := .fence sc m
    let s0 := s.drainFirst
    let wide : Prop := sc ≠ .grp ∧ sc ≠ .team
    let ready : Prop := (∀ p ∈ s0.net, p.team = s.curTeam → p.id < s0.fresh →
        (p.group = s.curGroup → s0.coveredBy sc p = false) ∧ (wide → p.released = false)) ∧
      ∀ r ∈ s.cg.pending, r.loads = true → r.need = 0
    CanIssue i s →
    (s.active i = 0 → ∃ t, exec i s = .next t ∧ WordFrame i id s t ∧ pendingIds t = pendingIds s) ∧
    (s.active i ≠ 0 → ready → ∃ t, exec i s = .next t ∧
      AccessFrame i (fun g => { g with queue := queueAfter s i }) s t ∧ pendingIds t = pendingIds s ∧
      t.net.length = s0.net.length ∧ ∀ k, k < s0.net.length → ∃ p q, s0.net[k]? = some p ∧ t.net[k]? = some q ∧
        q = { p with released := p.released ||
          ((sc == .grp || sc == .team) && p.team == s.curTeam && p.group == s.curGroup &&
            s.homeCore p != p.core) }) ∧
    (s.active i ≠ 0 → ¬ ready → exec i s = .next (s0.modCg fun g => { g with park := .engine }))

/-- R199: `pwait` passes once every line of every active lane's range is present, and parks the group
until then; an empty range counts as present. `ptest` binds, for each active lane, whether its line is
present. -/
def Claims.Presence : Prop :=
  (∀ (b : BitVec 7) (ad : Addr) (m : Mods) (s : State) (loc : Nat → TmLoc),
    let i : Instr := .pwait b ad m
    let len (l : Nat) : Nat := (s.cg.rg b l).toNat
    CanIssue i s → s.accessHeld s.curTeam s.curGroup (s.active i) = false →
    (∀ l, (s.active i).getLsbD l = true → len l ≠ 0 →
      s.place s.ct s.cg ad.sp (eaOf ad s.cg l) (len l) = some (.tm (loc l))) →
    ((∀ l, (s.active i).getLsbD l = true → len l ≠ 0 → s.present (loc l) (len l) = true) →
      ∃ t, exec i s = .next t ∧ WordFrame i id s t ∧ pendingIds t = pendingIds s) ∧
    ((∃ l, (s.active i).getLsbD l = true ∧ len l ≠ 0 ∧ s.present (loc l) (len l) = false) →
      exec i s = .next (s.modCg fun g => { g with park := .pwait }))) ∧
  (∀ (p : BitVec 6) (ad : Addr) (m : Mods) (s : State) (loc : Nat → TmLoc),
    let i : Instr := .ptest p ad m
    CanIssue i s → s.accessHeld s.curTeam s.curGroup (s.active i) = false →
    (∀ l, (s.active i).getLsbD l = true →
      s.place s.ct s.cg ad.sp (eaOf ad s.cg l) 1 = some (.tm (loc l))) →
    ∃ t, exec i s = .next t ∧ WordFrame i id s t ∧ pendingIds t = pendingIds s ++ [s.fresh] ∧
      (p ≠ 0 → ∀ l, (s.active i).getLsbD l = true →
        Awaits t s.fresh (.p p.toNat) l (if s.lineAbsent (loc l) then 0 else 1)))

/-- R203 to R205: `tagget` binds the tag of the granule at the pointer for the destination; `tagset`
sends the tag in the low bits of b to the home of each active lane's granule; `tagptr` binds the pointer
a with the tag in b's low bits in place of its own. -/
def Claims.Tags : Prop :=
  (∀ (o : OpDA) (cl : Bool) (s : State) (loc : Nat → TmLoc),
    let i : Instr := .tagget o cl
    let p (l : Nat) : Nat := if cl then s.cg.rg64 o.a l else (s.cg.rg o.a l).toNat
    CanIssue i s → s.accessHeld s.curTeam s.curGroup (s.active i) = false →
    (∀ l, (s.active i).getLsbD l = true →
      s.place s.ct s.cg (if cl then .cl else .tm) (p l) 1 = some (.tm (loc l))) →
    ∃ t, exec i s = .next t ∧ WordFrame i id s t ∧ pendingIds t = pendingIds s ++ [s.fresh] ∧
      ∀ l, (s.active i).getLsbD l = true →
        Awaits t s.fresh (.g o.d.toNat) l
          (BitVec.ofNat 32 (tget 0 (s.team (loc l).team).tags ((loc l).addr / 32)).toNat)) ∧
  (∀ (b : BitVec 7) (ad : Addr) (m : Mods) (s : State) (loc : Nat → TmLoc),
    let i : Instr := .tagset b ad m
    CanIssue i s → s.cg.acquiring (s.active i) = false →
    (∀ l, (s.active i).getLsbD l = true → eaOf ad s.cg l % 32 = 0 ∧
      s.place s.ct s.cg ad.sp (eaOf ad s.cg l) 32 = some (.tm (loc l))) →
    ∃ t, exec i s = .next t ∧ AccessFrame i id s t ∧ pendingIds t = pendingIds s ∧
      Sends s t ((lanesOf (s.active i)).map fun l =>
        (loc l, .tagSet (BitVec.ofNat 4 (s.cg.rg b l).toNat), none))) ∧
  (∀ (o : OpDAB) (s : State), CanIssue (.tagptr o) s →
    ∃ t, exec (.tagptr o) s = .next t ∧ WordFrame (.tagptr o) id s t ∧
      pendingIds t = pendingIds s ++ [s.fresh] ∧
      ∀ l, (s.active (.tagptr o)).getLsbD l = true →
        Awaits t s.fresh (.g o.d.toNat) l
          (BitVec.ofNat 32 ((s.cg.rg o.a l).toNat % 2 ^ 28 + (s.cg.rg o.b l).toNat % 16 * 2 ^ 28)))

end Sys2Proof

/-- R199, R202 to R205: fences, presence and tags. -/
def Obligations.FencesPresenceTags : Prop :=
  Claims.Fences ∧ Claims.Presence ∧ Claims.Tags

namespace Sys2Proof

/-! ### The homes -/

/-- A team in which nothing ends by itself: some group has not ended, and every such group has a lane
that has not exited (R23, R24). -/
def Alive (s : State) (k : Nat) : Prop :=
  (∃ g ∈ (s.team k).groups, g.ended = false) ∧
    ∀ g ∈ (s.team k).groups, g.ended = true ∨ ∃ l, l < 32 ∧ (g.lane l).st.isExited = false

/-- The new value of an atomic of 32 or 64 bits (R200, R201). -/
def newValue (ty : ATy) (op : Option AOp) (old b c : Nat) : Nat :=
  let w := if ty.wide then 64 else 32
  let less (x y : Nat) : Bool :=
    match ty with
    | .i32 | .i64 => (BitVec.ofNat w x).toInt < (BitVec.ofNat w y).toInt
    | _ => x < y
  match op, ty with
  | none, _ => if old = b then c else old
  | some .add, .f32 =>
    let r := (fpAdd .f32 .rne old b).1
    if (unpackF .f32 r).isNan then 0x7FC00000 else r
  | some .min, .f32 =>
    let r := (fpMinMax false old b).1
    if (unpackF .f32 r).isNan then 0x7FC00000 else r
  | some .max, .f32 =>
    let r := (fpMinMax true old b).1
    if (unpackF .f32 r).isNan then 0x7FC00000 else r
  | some .add, _ => (old + b) % 2 ^ w
  | some .min, _ => if less b old then b else old
  | some .max, _ => if less old b then b else old
  | some .and, _ => old &&& b
  | some .or, _ => old ||| b
  | some .xor, _ => old ^^^ b
  | some .exch, _ => b
  | some .incw, _ => if old ≥ b then 0 else old + 1

/-- The bytes of team memory that differ lie in one range. -/
def OnlyRange (s u : State) (loc : TmLoc) (n : Nat) : Prop :=
  u.hbm = s.hbm ∧ u.hostMem = s.hostMem ∧
    ∀ k a, (k = loc.team → a < loc.addr ∨ loc.addr + n ≤ a) → (u.team k).tm.read a = (s.team k).tm.read a

/-- The values that a pending result holds after some have returned. -/
def Returned (s u : State) (k g id : Nat) (ws : List RegWrite) : Prop :=
  ∀ r ∈ (s.group k g).pending, r.id = id →
    ∃ q ∈ (u.group k g).pending, q.id = id ∧ q.vals = r.vals ++ ws ∧ q.live = r.live

end Sys2Proof

/-- R162, R144, R174, R201: a packet that may be performed, on present lines that no matrix operation
reads, is performed by its home and leaves: a write stores its bytes; a read returns the words of memory,
or of the forwarded bytes; an atomic returns the old value and stores the new one, as one step; a `cwtest`
returns in each of its lanes whether its line is present and the word is at or above the value (R214); every
other byte is as before. `homePerform` performs one that has not been held, `heldEntryPerformed` one that
was, `promotedAcquire` one that waited at its home. Readings: log 84. -/
def Obligations.HomePerforms : Prop :=
  ∀ (s : State) (n : Nat) (p : Packet) (e : Instr),
    s.net[n]? = some p → s.mayPerform n = true → s.mustHold p = false → p.sample = none →
    (e = .homePerform n 0 ∧ p.held = false ∧ s.promoted p = false ∨
      e = .heldEntryPerformed n ∧ p.held = true ∧ s.promoted p = false ∨
      e = .promotedAcquire n ∧ s.promoted p = true ∧
        ∀ q ∈ s.net, q.released = true → q.core ≠ (s.team p.loc.team).core) →
    Alive s p.team → Alive s p.loc.team → (∀ b, b < 16 → ((s.team p.team).barrier b).closing = false) →
    (s.team? p.loc.team).isSome = true → p.loc.addr + p.len ≤ round4k (s.team p.loc.team).tmSize →
    ∃ u, exec e s = .next u ∧ u.net.length + 1 = s.net.length ∧
      (∀ bs, p.op = .write bs → OnlyRange s u p.loc p.len ∧
        ∀ k, k < bs.length → (u.team p.loc.team).tm.read (p.loc.addr + k) = bs.getD k 0) ∧
      (∀ res l regs ty m fwd pr, p.op = .read res l regs ty m fwd pr →
        OnlyRange s u p.loc 0 ∧
        Returned s u p.team p.group res (regWrites regs l (loadWords ty m
          ((List.range (ty.size * m)).map fun k =>
            (fwd.getD k none).getD ((s.team p.loc.team).tm.read (p.loc.addr + k)))))) ∧
      (∀ res l regs ty op b c pr, p.op = .atomic res l regs ty op b c pr →
        let old := (s.team p.loc.team).tm.readLe p.loc.addr p.len
        OnlyRange s u p.loc p.len ∧
        (u.team p.loc.team).tm.readLe p.loc.addr p.len =
          newValue ty op old b.toNat c.toNat % 2 ^ (8 * p.len) ∧
        ∀ id, res = some id → Returned s u p.team p.group id
          (regWrites regs l [BitVec.ofNat 32 old, BitVec.ofNat 32 (old / 2 ^ 32)])) ∧
      (∀ x : DWord, (p.op = .add64 x ∨ p.op = .put64 x) → OnlyRange s u p.loc 8 ∧
        (u.team p.loc.team).tm.readLe p.loc.addr 8 =
          if p.op = .put64 x then x.toNat
          else ((s.team p.loc.team).tm.readLe p.loc.addr 8 + x.toNat) % 2 ^ 64) ∧
      (∀ tag, p.op = .tagSet tag → OnlyRange s u p.loc 0 ∧
        tget 0 (u.team p.loc.team).tags (p.loc.addr / 32) = tag) ∧
      (∀ res lanes reg (v : DWord), p.op = .test res lanes reg v → OnlyRange s u p.loc 0 ∧
        Returned s u p.team p.group res ((lanesOf lanes).map fun l =>
          { name := reg, lane := l,
            val := if s.present p.loc 8 = true ∧ v.toNat ≤ (s.team p.loc.team).tm.readLe p.loc.addr 8 then 1
              else 0 }))

namespace Sys2Proof

/-! ### Barriers -/

/-- The issuing group after a `bar` word: the place of its last `bar`, and the stop that a requested
slice end makes there (R315), unless the team is halted (R326). -/
def afterBar (s : State) (g : Group) : Group :=
  { g with
    stopped := g.stopped || (!s.ct.isHalted && (match s.ct.stop with | .slice _ => true | _ => false))
    barStop := some (s.cl.hdr, s.cl.slot) }

/-- The booking of an arrival by a group that expects a count (R129). -/
def bookedBy (k : Booking) (g cnt : Nat) : Booking :=
  { arrived := setBit k.arrived g true, booked := k.booked + 1,
    expected := if k.booked = 0 then cnt else k.expected }

/-- `bar.arrive` and `bar.sync`, and which of the two. -/
def arriving : Instr → Option (OpBar × Bool)
  | .barArrive o => some (o, false)
  | .barSync o => some (o, true)
  | _ => none

/-- The barrier and the expected count of an arrival: barrier 0 expects every group that has not ended
(R37, R128, R129). -/
def arrivalOf (s : State) (o : OpBar) : Nat × Nat :=
  let b := if o.br then (s.cg.rs o.bn).toNat else o.bn.toNat
  (b, if b = 0 then s.ct.live else o.cnt.toNat + 1)

/-- An arrival is booked now (R126, R127): its word has not begun, no phase of the barrier is being committed,
unless an absent line or a matrix operation holds one of its writes (log 86), and no group of higher index has
arrived in the same core cycle (log 72). -/
def BooksNow (s : State) (b : Nat) : Prop :=
  let x := s.ct.barrier b
  s.cg.since = none ∧ (x.closing = true → ∃ p ∈ s.net, p.team = s.curTeam ∧ p.phase = some b ∧ p.held = true) ∧
    ∀ c h, x.last = some (c, h) → c = (s.core s.ct.core).cycles → h ≤ s.curGroup

/-- The packets of the issuing group that are on their way to other cores count as released (R173, log 94). -/
def MarksReleased (s t : State) : Prop :=
  t.net.length = s.net.length ∧ ∀ (k : Nat) (p : Packet), s.net[k]? = some p →
    t.net[k]? = some { p with
      released := p.released || (p.team == s.curTeam && p.group == s.curGroup && s.homeCore p != p.core) }

/-- R129, R36, R38, R91: an arrival is booked to the barrier's current phase, or to its next one where
the group has arrived at the current one or that one has its arrivals; the queue marks its place, the phase
number is bound for sx, and a `sync` puts its active lanes in BARRIER for that phase. Where the phase does not
fill, nothing else happens. -/
def Claims.BarrierArrival : Prop :=
  ∀ (i : Instr) (o : OpBar) (sync next : Bool) (s : State),
    arriving i = some (o, sync) →
    let b := (arrivalOf s o).1
    let cnt := (arrivalOf s o).2
    let x := s.ct.barrier b
    let ph : Word := x.count + (if next then 1 else 0)
    let k := if next then x.nxt else x.cur
    let last := some ((s.core s.ct.core).cycles, s.curGroup)
    let y : Barrier := if next then { x with nxt := bookedBy x.nxt s.curGroup cnt, last := last }
      else { x with cur := bookedBy x.cur s.curGroup cnt, last := last }
    CanIssue i s → s.active i ≠ 0 → b ≤ 15 → BooksNow s b →
    (b ≠ 0 → cnt ≤ s.ct.live ∧ (0 < k.booked → k.expected = cnt)) →
    (x.cur.arrived.getLsbD s.curGroup || x.closing) = next →
    (next = true → x.nxt.arrived.getLsbD s.curGroup = false) →
    (y.closing = true ∨ y.cur.booked = 0 ∨
      (b = 0 ∧ y.cur.booked < s.ct.live) ∨ (b ≠ 0 ∧ y.cur.booked ≠ y.cur.expected)) →
    ∃ t, exec i s = .next t ∧ MarksReleased s t ∧
      OwnFrame i (fun g => afterBar s { g with queue := g.queue ++ [.arrival b ph] })
        (s.modCt fun c => { c with barriers := tput Barrier.reset c.barriers b y }) { t with net := s.net } ∧
      t.ct.barrier b = y ∧
      pendingIds t = pendingIds s ++ (if o.wr then [s.fresh] else []) ∧
      (o.wr = true → Awaits t s.fresh (.s o.sx.toNat) 0 ph) ∧
      ∀ l, l < 32 → (t.cg.lane l).st =
        if sync && (s.active i).getLsbD l then .barrier b ph else (s.cg.lane l).st

/-- R126, R39: an arrival that gives the current phase what it expects completes it: the phase counter
rises, the next phase becomes current with its bookings, and every lane of the team that waits in
BARRIER for the phase becomes READY; where the bookings of the next phase already are what it expects, it
completes too. This is a phase whose arrivals follow no queued store; `BarrierCommits` and `CommitEnds` are the
phases with stores. -/
def Claims.BarrierCompletes : Prop :=
  ∀ (i : Instr) (o : OpBar) (sync : Bool) (s : State),
    arriving i = some (o, sync) →
    let b := (arrivalOf s o).1
    let cnt := (arrivalOf s o).2
    let x := s.ct.barrier b
    let full (k : Booking) : Prop :=
      1 ≤ k.booked ∧ (if b = 0 then s.ct.live ≤ k.booked else k.booked = k.expected)
    let last := some ((s.core s.ct.core).cycles, s.curGroup)
    CanIssue i s → s.active i ≠ 0 → b ≤ 15 → BooksNow s b →
    (b ≠ 0 → cnt ≤ s.ct.live ∧ (0 < x.cur.booked → x.cur.expected = cnt)) →
    x.cur.arrived.getLsbD s.curGroup = false → x.closing = false → full (bookedBy x.cur s.curGroup cnt) →
    (∀ g ∈ s.ct.groups, ∀ q ∈ g.queue, ∃ c w, q = .arrival c w) → (∀ p ∈ s.net, p.team ≠ s.curTeam) →
    (s.ctxFunc s.ct.ctx).tracectl.getLsbD 0 = false →
    ∃ t, exec i s = .next t ∧
      (¬ full x.nxt → t.ct.barrier b =
        { count := x.count + 1, cur := x.nxt, nxt := Booking.empty, closing := false, last := last }) ∧
      (full x.nxt → t.ct.barrier b =
        { count := x.count + 2, cur := Booking.empty, nxt := Booking.empty, closing := false, last := last }) ∧
      (∀ c, c ≠ b → t.ct.barrier c = s.ct.barrier c) ∧
      t.hbm = s.hbm ∧ t.net = s.net ∧
      (o.wr = true → Awaits t s.fresh (.s o.sx.toNat) 0 x.count) ∧
      (∀ g ∈ s.ct.groups, ∀ l, l < 32 →
        (g.lane l).st = .barrier b x.count ∨ full x.nxt ∧ (g.lane l).st = .barrier b (x.count + 1) →
        ∀ h, s.ct.group? g.index = some g → t.ct.group? g.index = some h → (h.lane l).st = .ready) ∧
      (∀ l, (s.active i).getLsbD l = true → (s.cg.lane l).st = .ready → (t.cg.lane l).st = .ready)

/-- The entries of a queue that an arrival commits, which are those before its place, and what it leaves (R38). -/
def beforeArrival (q : List QItem) (b : Nat) (ph : Word) : List QItem :=
  if q.contains (.arrival b ph) then q.takeWhile fun x => x != .arrival b ph else []
def afterArrival (q : List QItem) (b : Nat) (ph : Word) : List QItem :=
  if q.contains (.arrival b ph) then (q.dropWhile fun x => x != .arrival b ph).drop 1 else q

/-- R38, R126, R166: an arrival that gives the current phase what it expects, where groups that have arrived had
stores queued before their arrivals, begins the commit: the writes leave for their homes, groups ascending, threads
ascending within a group and each thread's in program order; the queues keep what follows the arrivals; the
counter has not risen, and no lane is released. A `bar.arrive` is over with that, and a `bar.sync` is not (log 72). -/
def Claims.BarrierCommits : Prop :=
  ∀ (i : Instr) (o : OpBar) (sync : Bool) (s : State),
    arriving i = some (o, sync) →
    let b := (arrivalOf s o).1
    let cnt := (arrivalOf s o).2
    let x := s.ct.barrier b
    let k := bookedBy x.cur s.curGroup cnt
    let last := some ((s.core s.ct.core).cycles, s.curGroup)
    let queue (g : Group) : List QItem := if g.index = s.curGroup then g.queue ++ [.arrival b x.count] else g.queue
    let commit := (List.range 32).flatMap fun n => match s.ct.group? n with
      | some y => if k.arrived.getLsbD n then
          (threadWrites (beforeArrival (queue y) b x.count)).map fun w => (n, w.loc, PacketOp.write w.bytes)
          else []
      | none => []
    let sent := s.modCt fun c => { c with
      barriers := tput Barrier.reset c.barriers b { x with cur := k, closing := true, last := last }
      groups := c.groups.map fun g => { g with
        queue := if k.arrived.getLsbD g.index then afterArrival (queue g) b x.count else queue g } }
    CanIssue i s → s.active i ≠ 0 → b ≤ 15 → BooksNow s b → (∀ g ∈ s.ct.groups, g.index < 32) →
    (b ≠ 0 → cnt ≤ s.ct.live ∧ (0 < x.cur.booked → x.cur.expected = cnt)) →
    x.cur.arrived.getLsbD s.curGroup = false → x.closing = false →
    (1 ≤ k.booked ∧ (if b = 0 then s.ct.live ≤ k.booked else k.booked = k.expected)) → commit ≠ [] →
    ∃ t ps, exec i s = .next t ∧ MarksReleased s { t with net := t.net.take s.net.length } ∧
      t.net = t.net.take s.net.length ++ ps ∧ (ps.map fun p => (p.group, p.loc, p.op)) = commit ∧
      (∀ p ∈ ps, p.team = s.curTeam ∧ p.core = s.ct.core ∧ p.phase = some b ∧ p.held = false) ∧
      (t.ct.barrier b).count = x.count ∧ (t.ct.barrier b).closing = true ∧
      (∀ l, l < 32 → (t.cg.lane l).st = (s.cg.lane l).st) ∧
      (sync = false → OwnFrame i (afterBar s) sent { t with net := s.net }) ∧
      (sync = true → t.cg.park = .engine ∧ t.cg.since.isSome = true ∧ t.cg.lanes = s.cg.lanes ∧
        RestKept sent { t with net := s.net })

/-- R38, R126, R130: when the home performs the last write of a phase's commit, its bytes are stored and the phase
completes with them: the counter rises, the next phase becomes current, and the lanes that wait for the phase are
READY. While another of its writes is on its way, the counter and the lanes stay. A `bar.sync` that had filled
the phase goes on past its word once the phase is complete, and its lanes have not waited (log 72). -/
def Claims.CommitEnds : Prop :=
  (∀ (s : State) (n : Nat) (p : Packet) (bs : List Byte) (b : Nat) (e : Instr),
    let x := (s.team p.team).barrier b
    let full (k : Booking) : Prop :=
      1 ≤ k.booked ∧ (if b = 0 then (s.team p.team).live ≤ k.booked else k.booked = k.expected)
    let more : Prop := ∃ (m : Nat) (q : Packet), m ≠ n ∧ s.net[m]? = some q ∧ q.team = p.team ∧ q.phase = some b
    s.net[n]? = some p → p.op = .write bs → p.phase = some b → b < 16 → p.rel = none → p.sample = none →
    s.mayPerform n = true → s.mustHold p = false →
    (e = .homePerform n 0 ∧ p.held = false ∨ e = .heldEntryPerformed n ∧ p.held = true) →
    Alive s p.team → Alive s p.loc.team → (s.team? p.team).isSome = true → (s.team? p.loc.team).isSome = true →
    p.loc.addr + bs.length ≤ round4k (s.team p.loc.team).tmSize → x.closing = true →
    (∀ c, c < 16 → c ≠ b → ((s.team p.team).barrier c).closing = false) →
    ∃ u, exec e s = .next u ∧
      (∀ k, k < bs.length → (u.team p.loc.team).tm.read (p.loc.addr + k) = bs.getD k 0) ∧
      (more → (u.team p.team).barriers = (s.team p.team).barriers ∧
        (u.team p.team).groups = (s.team p.team).groups ∧ u.net.length + 1 = s.net.length) ∧
      (¬ more → ¬ full x.nxt → (u.team p.team).barrier b =
        { x with count := x.count + 1, cur := x.nxt, nxt := Booking.empty, closing := false }) ∧
      (¬ more → x.count ≠ ((u.team p.team).barrier b).count ∧
        ∀ g h, (s.team p.team).group? g.index = some g → (u.team p.team).group? g.index = some h →
          ∀ l, l < 32 → (g.lane l).st = .barrier b x.count → (h.lane l).st = .ready)) ∧
  (∀ (o : OpBar) (s : State),
    let i : Instr := .barSync o
    let b := (arrivalOf s o).1
    CanIssue i s → s.active i ≠ 0 → b ≤ 15 → s.cg.since.isSome = true → (s.ct.barrier b).closing = false →
    ∃ t, exec i s = .next t ∧ OwnFrame i (afterBar s) s t ∧ pendingIds t = pendingIds s ∧ t.cg.since = none ∧
      ∀ l, l < 32 → (t.cg.lane l).st = (s.cg.lane l).st)

/-- R124, R129: an arrival that names no barrier, or whose count no phase can take, traps in every active
lane: ILLEGAL_OPERAND for a number above 15, BAR_MISMATCH for a count above the live groups or other
than the phase expects, BAR_OVER for a group that has arrived at both open phases. Nothing else changes but the
note of an arrival in this core cycle (R127, log 72). -/
def Claims.BarrierTraps : Prop :=
  ∀ (i : Instr) (o : OpBar) (sync : Bool) (s : State) (code : Nat),
    arriving i = some (o, sync) →
    let b := (arrivalOf s o).1
    let cnt := (arrivalOf s o).2
    let x := s.ct.barrier b
    let next := x.cur.arrived.getLsbD s.curGroup || x.closing
    let k := if next then x.nxt else x.cur
    let both := next && x.nxt.arrived.getLsbD s.curGroup
    CanIssue i s → s.cg.inSup = false → (b ≤ 15 → BooksNow s b) →
    (15 < b ∧ code = 0x03 ∨
      b ≤ 15 ∧ b ≠ 0 ∧ s.ct.live < cnt ∧ code = 0x18 ∨
      b ≤ 15 ∧ (b ≠ 0 → cnt ≤ s.ct.live) ∧ both = true ∧ code = 0x19 ∨
      b ≤ 15 ∧ b ≠ 0 ∧ cnt ≤ s.ct.live ∧ both = false ∧ 0 < k.booked ∧ k.expected ≠ cnt ∧ code = 0x18) →
    ∃ t, exec i s = .next t ∧
      RestKept (if s.active i = 0 ∨ 15 < b then s else s.modCt fun c => { c with
        barriers := tput Barrier.reset c.barriers b
          { x with last := some ((s.core s.ct.core).cycles, s.curGroup) } }) t ∧
      ∀ l, (s.active i).getLsbD l = true → Trapped s t l code 0

end Sys2Proof

/-- R124 to R130: a barrier's arrivals, and the traps of its operands. It is the model's reading that an arrival is
booked to the next phase while the current one has its arrivals (log 86), which packets count as released (log
94), and in which order the arrivals of a cycle are made (log 72). -/
def Obligations.BarrierArrival : Prop :=
  Claims.BarrierArrival ∧ Claims.BarrierTraps

namespace Sys2Proof

/-- R129, R131: `bar.wait` puts its active lanes in BARRIER for the phase in sx unless that phase counts
as completed, its number being behind the counter by less than 2^31; `barq` binds the phase counter, the
booked or the expected arrivals, or the group's own bookings. -/
def Claims.BarrierWaits : Prop :=
  (∀ (br : Bool) (sx bn : BitVec 6) (m : Mods) (s : State),
    let i : Instr := .barWait br sx bn m
    let b := if br then (s.cg.rs bn).toNat else bn.toNat
    let w := s.cg.rs sx
    let done := ((s.ct.barrier b).count - 1 - w).toNat < 2 ^ 31
    CanIssue i s → s.active i ≠ 0 → b ≤ 15 →
    ∃ t, exec i s = .next t ∧ OwnFrame i (afterBar s) s t ∧ pendingIds t = pendingIds s ∧
      ∀ l, l < 32 → (t.cg.lane l).st =
        if (s.active i).getLsbD l = true ∧ ¬ done then .barrier b w else (s.cg.lane l).st) ∧
  (∀ (q : BitVec 2) (br : Bool) (sd bn : BitVec 6) (m : Mods) (s : State),
    let i : Instr := .barq q br sd bn m
    let b := if br then (s.cg.rs bn).toNat else bn.toNat
    let x := s.ct.barrier b
    CanIssue i s → s.active i ≠ 0 → b ≤ 15 →
    ∃ t, exec i s = .next t ∧ WordFrame i id s t ∧ pendingIds t = pendingIds s ++ [s.fresh] ∧
      Awaits t s.fresh (.s sd.toNat) 0
        (match q.toNat with
         | 0 => x.count
         | 1 => BitVec.ofNat 32 x.cur.booked
         | 2 => BitVec.ofNat 32 (if b = 0 then s.ct.live else x.cur.expected)
         | _ => BitVec.ofNat 32 ((if x.cur.arrived.getLsbD s.curGroup then 1 else 0) +
             (if x.nxt.arrived.getLsbD s.curGroup then 2 else 0))))

end Sys2Proof

/-- R36 to R38, R125 to R131: a barrier's phases complete, and lanes wait for them. That the commit of a
phase is a state of its own, in which nothing else is booked, is the model's reading (logs 72, 86). -/
def Obligations.BarrierPhases : Prop :=
  Claims.BarrierCompletes ∧ Claims.BarrierCommits ∧ Claims.CommitEnds ∧ Claims.BarrierWaits

namespace Sys2Proof

/-! ### Rendezvous and launch -/

/-- Whether a name is one of the general registers from `lo` on and below `hi`. -/
def inBlock (n : RegName) (lo hi : Nat) : Bool :=
  match n with | .g k => decide (lo ≤ k) && decide (k < hi) | _ => false

/-- R45, R132, R133: a `reggive` and a `regtake` that name each other's groups meet whichever comes
second: the donor's budget falls by 8 * N8 and the receiver's rises by it, the registers that left and
those that arrived read 0, every other register of both is kept, and both words complete. The one that
comes first holds its group and changes nothing else. -/
def Claims.Rendezvous : Prop :=
  (∀ (i : Instr) (give : Bool) (peer : BitVec 5) (n8 : BitVec 4) (m : Mods) (s : State),
    (i = .reggive peer n8 m ∧ give = true ∨ i = .regtake peer m ∧ give = false) →
    let p := s.ct.group peer.toNat
    let n := 8 * n8.toNat
    let donor := if give then s.cg else p
    let taker := if give then p else s.cg
    CanIssue i s → s.active i ≠ 0 → peer.toNat < s.ct.groups.length → peer.toNat ≠ s.curGroup →
    (s.ct.group? peer.toNat).isSome = true → p.ended = false → p.lanes.length = 32 → p.park = .rendezvous →
    p.hold = (if give then .take s.curGroup else .give s.curGroup n8.toNat) →
    n + (if give then 8 else 0) ≤ donor.budget → taker.budget + n ≤ 128 →
    ∃ t, exec i s = .next t ∧ { t with teams := s.teams, fresh := s.fresh, energy := s.energy } = s ∧
      (∀ k, k ≠ s.curTeam → t.team? k = s.team? k) ∧
      { t.ct with groups := s.ct.groups } = s.ct ∧
      (∀ g, g ≠ s.curGroup → g ≠ peer.toNat → t.ct.group? g = s.ct.group? g) ∧
      (t.ct.group peer.toNat).hold = .none ∧ (t.ct.group peer.toNat).park ≠ .rendezvous ∧
      t.cg.budget = (if give then s.cg.budget - n else s.cg.budget + n) ∧
      (t.ct.group peer.toNat).budget = (if give then p.budget + n else p.budget - n) ∧
      (∀ r l, l < 32 →
        (if give then t.cg else t.ct.group peer.toNat).read r l =
            (if inBlock r (donor.budget - n) donor.budget then 0 else donor.read r l) ∧
        (if give then t.ct.group peer.toNat else t.cg).read r l =
            (if inBlock r taker.budget (taker.budget + n) then 0 else taker.read r l))) ∧
  (∀ (i : Instr) (give : Bool) (peer : BitVec 5) (n8 : BitVec 4) (m : Mods) (s : State),
    (i = .reggive peer n8 m ∧ give = true ∨ i = .regtake peer m ∧ give = false) →
    let p := s.ct.group peer.toNat
    CanIssue i s → s.active i ≠ 0 → peer.toNat < s.ct.groups.length → peer.toNat ≠ s.curGroup →
    p.ended = false → (give = true → 8 * n8.toNat + 8 ≤ s.cg.budget) →
    (∀ k, p.park = .rendezvous → p.hold = .take k → ¬ (give = true ∧ k = s.curGroup)) →
    (∀ k j, p.park = .rendezvous → p.hold = .give k j → ¬ (give = false ∧ k = s.curGroup)) →
    exec i s = .next (s.modCg fun g => { g with
      hold := if give then .give peer.toNat n8.toNat else .take peer.toNat
      park := .rendezvous }))

/-- Everything but launch queues as after a word of a memory instruction. -/
def LaunchFrame (i : Instr) (s t : State) : Prop :=
  AccessFrame i (fun g => { g with queue := queueAfter s i }) s
    { t with grids := s.grids, gridSerial := s.gridSerial, funcs := s.funcs, disp := s.disp }

/-- The dispatcher cycle in which the records of a `launch` enter (R362): the one that is current, or the next
one where something that comes later in a cycle has entered already; `low` is the lowest active lane. -/
def launchCycle (s : State) (low : Nat) : Nat :=
  s.disp.cycle + s.disp.ahead + if 2 + s.ct.core * 32 + low < s.disp.order then 1 else 0

/-- The grid that a record makes when it enters a launch queue (R134, R360, R362). -/
def newGrid (s : State) (low q k : Nat) (r : LaunchRec) : Grid :=
  { serial := s.gridSerial + k, ctx := s.ct.ctx, queue := q, record := r, placed := 0, entered := launchCycle s low,
    unended := r.gx * r.gy * r.gz, left := false, waited := 0, replay := none, follows := none,
    replayRecs := [] }

/-- R134, R135, R362, R363: `launch` submits the 128-byte record at each active lane's offset, lanes
ascending, to the queue in b: it enters a queue with fewer than 64 grids and the lane's result is 0;
a full queue drops it, the result is 1, and the context counts the drop and keeps the first lost
sequence number. -/
def Claims.Launch : Prop :=
  ∀ (o : OpDAB) (s : State) (loc : Nat → TmLoc),
    let i : Instr := .launch o
    let lanes := lanesOf (s.active i)
    let s0 := s.drainAt i
    let low := lanes.headD 0
    let q (l : Nat) : Nat := (s.cg.rg o.b l).toNat
    let rec_ (l : Nat) : LaunchRec := parseRecord (s0.tmBytes (loc l) 128)
    let f := s.ctxFunc s.ct.ctx
    CanIssue i s → s.accessHeld s.curTeam s.curGroup (s.active i) = false →
    (∀ l, (s.active i).getLsbD l = true → s0.launchCheck o l = .ok (loc l) ∧
      s0.engineReads s.ct.core (loc l) 128 s0.fresh = true) →
    ((∀ l, (s.active i).getLsbD l = true → s.depth s.ct.ctx (q l) + lanes.length ≤ 64) →
      ∃ t, exec i s = .next t ∧ LaunchFrame i s t ∧ Sends s t (drainOps s i) ∧ t.funcs = s.funcs ∧
        t.grids = s.grids ++ (lanes.mapIdx fun k l => newGrid s low (q l) k (rec_ l)) ∧
        t.gridSerial = s.gridSerial + lanes.length ∧
        ∀ l, (s.active i).getLsbD l = true → Awaits t s0.fresh (.g o.d.toNat) l 0) ∧
    ((∀ l, (s.active i).getLsbD l = true → 64 ≤ s.depth s.ct.ctx (q l)) →
      ∃ t, exec i s = .next t ∧ LaunchFrame i s t ∧ Sends s t (drainOps s i) ∧ t.grids = s.grids ∧
        (∀ l, (s.active i).getLsbD l = true → Awaits t s0.fresh (.g o.d.toNat) l 1) ∧
        ∀ l, lanes.head? = some l →
          (t.ctxFunc s.ct.ctx).overflow = true ∧
          (t.ctxFunc s.ct.ctx).lostSeq = (if f.overflow then f.lostSeq else (rec_ l).seq) ∧
          (f.drops + lanes.length ≤ 65535 → (t.ctxFunc s.ct.ctx).drops = f.drops + lanes.length))

end Sys2Proof

/-- R132 to R135, R45, R362, R363: register rendezvous between groups, and launches. It is the model's reading that a
launch record enters its queue in the dispatcher's cycle stated here (log 52), when its bytes are read (log 22), and
that partners meet at the word that comes last (log 73). -/
def Obligations.GroupEffects : Prop :=
  Claims.Rendezvous ∧ Claims.Launch

namespace Sys2Proof

/-! ### Copies and completion words -/

/-- What each active lane asks of the copy engine (R206, R207). -/
def copyRequest (s : State) : Instr → Option (Nat → CopyReq)
  | .copyIn o => some fun l =>
      plainReq (.mm (s.cg.rg64 o.mm l)) (spSide s.cg o.x.cl o.sp) (s.cg.rs o.x.cnt).toNat o.x
        (copyCw s.cg o.x) false 0
  | .copyOut o => some fun l =>
      plainReq (spSide s.cg o.x.cl o.sp) (.mm (s.cg.rg64 o.mm l)) (s.cg.rs o.x.cnt).toNat o.x
        (copyCw s.cg o.x) false 0
  | .copySs d a x srcCl _ => some fun _ =>
      plainReq (spSide s.cg srcCl a) (spSide s.cg x.cl d) (s.cg.rs x.cnt).toNat x (copyCw s.cg x) true
        (s.windowBase s.ct)
  | .copyMm d a x _ => some fun l =>
      plainReq (.mm (s.cg.rg64 a l)) (.mm (s.cg.rg64 d l)) (s.cg.rs x.cnt).toNat x (copyCw s.cg x) true 0
  | .copyt o out t16 => some fun l =>
      let pad := spSide s.cg o.x.cl o.sp
      let mm : SideSpec := .mm (s.cg.rg64 o.mm l)
      transReq (if out then pad else mm) (if out then mm else pad) (s.cg.rs o.x.cnt) t16 o.x
        (copyCw s.cg o.x)
  | .gather o => some fun l => gatherReq s.cg o l false
  | .scatter o => some fun l => gatherReq s.cg o l true
  | .copytag d a mm x _ => some fun l =>
      tagReq (if mm then .mm (s.cg.rg64 d l) else spSide s.cg x.cl (d.setWidth 6))
        ((s.cg.rg a l).setWidth 4) (s.cg.rs x.cnt).toNat (copyCw s.cg x)
  | _ => none

/-- A limit of R208: whether the lane breaches it, with the code and address of its trap. -/
abbrev LimitRow := Bool × Nat × Nat

/-- A scratchpad pointer of a copy: a register, or a pair for the peloton window (R206). -/
def padPtr (g : Group) (cl : Bool) (r : BitVec 6) : Nat := if cl then g.rs64 r else (g.rs r).toNat

/-- The address must be a multiple (R208). -/
def multipleRow (p n : Nat) : LimitRow := (p % n != 0, 0x0C, p)

/-- The completion word of a copy must be a multiple of 8 (R206, R208). -/
def wordRow (g : Group) (x : CopyX) : LimitRow :=
  match x.cws with
  | .none => (false, 0, 0)
  | .tm => multipleRow (((g.rs x.cwb).toNat + 8 * x.cwoff.toNat) % 2 ^ 32) 8
  | .cl => multipleRow ((g.rs64 x.cwb + 8 * x.cwoff.toNat) % 2 ^ 64) 8

/-- Two ranges of n bytes overlap. -/
def bytesMeet (a b n : Nat) : Bool := decide (a < b + n) && decide (b < a + n)

/-- A scratchpad pointer as an address in the windows of a stack's cores (R139, R140). -/
def padAddr (s : State) (cl : Bool) (p : Nat) : Nat :=
  if cl then p / 2 ^ 32 % 16 * 2 ^ 28 + p % 2 ^ 28 else s.windowBase s.ct + p % 2 ^ 21

/-- The limits of R208 on a copy of n bytes. -/
def copyRows (a d n : Nat) (meet : Bool) : List LimitRow :=
  [(decide (16777216 < n) || n % 4 != 0, 0x03, 0), multipleRow a 4, multipleRow d 4, (meet, 0x03, 0)]

/-- The limits of R208 in their order, for a lane of each instruction of the copy family. -/
def limitRows (s : State) (l : Nat) : Instr → List LimitRow
  | .copyIn o => copyRows (s.cg.rg64 o.mm l) (padPtr s.cg o.x.cl o.sp) (s.cg.rs o.x.cnt).toNat false ++ [wordRow s.cg o.x]
  | .copyOut o => copyRows (padPtr s.cg o.x.cl o.sp) (s.cg.rg64 o.mm l) (s.cg.rs o.x.cnt).toNat false ++ [wordRow s.cg o.x]
  | .copySs d a x srcCl _ =>
    let n := (s.cg.rs x.cnt).toNat
    copyRows (padPtr s.cg srcCl a) (padPtr s.cg x.cl d) n
      (bytesMeet (padAddr s srcCl (padPtr s.cg srcCl a)) (padAddr s x.cl (padPtr s.cg x.cl d)) n) ++ [wordRow s.cg x]
  | .copyMm d a x _ =>
    let n := (s.cg.rs x.cnt).toNat
    copyRows (s.cg.rg64 a l) (s.cg.rg64 d l) n
      (bytesMeet (s.cg.rg64 a l % 2 ^ 52) (s.cg.rg64 d l % 2 ^ 52) n) ++ [wordRow s.cg x]
  | .copyt o _ t16 =>
    let rows := (s.cg.rs o.x.cnt).toNat % 2 ^ 16
    let cols := (s.cg.rs o.x.cnt).toNat / 2 ^ 16
    let q := if t16 then 2 else 4
    let e := if t16 then 2 else 1
    let ok := decide (1 ≤ rows ∧ rows ≤ 4096 ∧ 1 ≤ cols ∧ cols ≤ 4096 ∧ rows % q = 0 ∧ cols % q = 0 ∧
      rows * cols * e ≤ 16777216)
    [(!ok, 0x03, 0), wordRow s.cg o.x]
  | .gather o | .scatter o =>
    [(decide (65536 < (s.cg.rs o.x.cnt).toNat), 0x03, 0), multipleRow (s.cg.rg64 o.mm l) (4 * 2 ^ o.esz.toNat),
      multipleRow (s.cg.rg64 o.idx l) 4, wordRow s.cg o.x]
  | .copytag d _ mm x _ =>
    let p := if mm then s.cg.rg64 d l else padPtr s.cg x.cl (d.setWidth 6)
    [((s.cg.rs x.cnt).toNat % 32 != 0, 0x0C, p), multipleRow p 32, wordRow s.cg x]
  | _ => []

/-- The place that a range of a request names: scratchpad that passes its checks, or main memory with its
pages in order, each mapped for the use by the context's tables (R148 to R151); an empty range names
none. -/
def placeOf (s : State) (lane : Nat) (r : ReqRange) : Option Side :=
  if r.len = 0 then some (.hbm 0 [] 0)
  else
    match r.side with
    | .sp cl p =>
      (match s.checkSteps s.ct s.cg lane (if cl then .cl else .tm) p r.len true r.rd r.wr with
       | .ok (.tm l) => some (.tm l)
       | _ => none)
    | .mm p =>
      let va := p % 2 ^ 52
      if p / 2 ^ 52 % 256 ≠ 0 then none
      else
        match s.watchHit s.ct s.cg lane .hbm r.rd r.wr p r.len with
        | some _ => none
        | none =>
          (((List.range ((va % 65536 + r.len + 65535) / 65536)).map fun k => (va / 65536 + k) % 2 ^ 36).mapM
              fun page => match s.walk (s.ctxFunc s.ct.ctx) (page * 65536) (if r.wr then .wr else .rd) with
                | .page m => if s.replayPage s.ct.ctx page then none
                  else some ({ vpage := page, ppage := m.ppage, tag := m.tag } : PageMap)
                | _ => none).map fun l => .hbm va l (BitVec.ofNat 4 (p / 2 ^ 60))

/-- The ranges of a request name places. -/
structure CopyPasses (s : State) (lane : Nat) (q : CopyReq) (src dst idx : Side) (cw : Option TmLoc) : Prop where
  src : placeOf s lane q.a = some src
  dst : placeOf s lane q.d = some dst
  idx : (match q.b with | some r => placeOf s lane r | none => some (.hbm 0 [] 0)) = some idx
  cw : (match q.cw with
    | some x => (match s.checkSteps s.ct s.cg lane (if x.1 then .cl else .tm) x.2 8 true false true with
      | .ok (.tm l) => some (some l)
      | _ => none)
    | none => some none) = some cw

/-- No translation and no table entry is cached for the group. -/
def NoCache (s : State) : Prop := s.tlb = [] ∧ s.walks = [] ∧ s.cg.lastPages = []

/-- A word of the copy family issues for the first time: nothing holds its lanes, and no lane has been dealt
with. -/
structure CopyIssues (i : Instr) (s : State) : Prop where
  word : CanIssue i s
  free : s.accessHeld s.curTeam s.curGroup (s.active i) = false
  fresh : s.cg.accepted = 0 ∧ s.cg.heldOp = none

/-- No byte of memory changes. -/
def BytesKept (s t : State) : Prop :=
  t.hbm = s.hbm ∧ t.hostMem = s.hostMem ∧ ∀ k a, (t.team k).tm.read a = (s.team k).tm.read a

/-- R206 to R211, R143, R174: a copy-family instruction (`copyIn`, `copyOut`, `copySs`, `copyMm`, `copyt`,
`gather`, `scatter`, `copytag`) completes where nothing holds its lanes, no active lane breaches a limit of
R208, every range and completion word passes its checks, and tracker entries are free: the queue drains, and
for each active lane, lanes ascending, the engine holds an operation with the lane's source, destination, index
list, completion word and length, all of whose units are still to do; the destination's scratchpad lines
are absent until then; no byte of memory has changed. An operation with a count of 0 touches nothing and
its completion word is sent its signal at once. -/
def Claims.CopiesAccepted : Prop :=
  ∀ (i : Instr) (req : Nat → CopyReq) (s : State) (src dst idx : Nat → Side) (cw : Nat → Option TmLoc),
    copyRequest s i = some req →
    let lanes := lanesOf (s.active i)
    let s0 := s.drainAt i
    let mine := s.copies.countP fun o => o.team == s.curTeam && o.group == s.curGroup
    let all := s.copies.countP fun o => o.core == s.ct.core
    CopyIssues i s → NoCache s →
    (∀ l, (s.active i).getLsbD l = true →
      (∀ x ∈ limitRows s l i, x.1 = false) ∧ CopyPasses s0 l (req l) (src l) (dst l) (idx l) (cw l)) →
    ((∀ l, (s.active i).getLsbD l = true → (req l).count ≠ 0) →
      mine + lanes.length ≤ 16 → all + lanes.length ≤ 64 →
      ∃ t ops, exec i s = .next t ∧ t.copies = s.copies ++ ops ∧ Sends s t (drainOps s i) ∧
        BytesKept s t ∧ pendingIds t = pendingIds s ∧
        (∀ n l, l < 32 → n ∉ writeNames i → released s i n = false → t.cg.read n l = s.cg.read n l) ∧
        ops.length = lanes.length ∧
        ∀ k o l, ops[k]? = some o → lanes[k]? = some l →
          o.id = s0.fresh + k ∧ o.team = s.curTeam ∧ o.group = s.curGroup ∧ o.lane = l ∧ o.src = src l ∧
          o.dst = dst l ∧ o.count = (req l).count ∧ o.cw = cw l ∧ o.ordered = (req l).ordered ∧
          o.todo = List.range (unitCount o.kind (dst l) (req l).d.len (req l).count) ∧
          (o.kind = (match (req l).kind with
            | .gather e w _ => .gather e w (idx l)
            | .scatter e w _ => .scatter e w (idx l)
            | .plain => if 0 < (s.sendPages s.ct.ctx (dst l)).1 then .send else .plain
            | x => x)) ∧
          (∀ x, dst l = .tm x → (∀ tag, (req l).kind ≠ .copytag tag) → 0 < o.dstLen → t.present x o.dstLen = false)) ∧
    ((∀ l, (s.active i).getLsbD l = true → (req l).count = 0) → mine < 16 → all < 64 →
      ∃ t, exec i s = .next t ∧ t.copies = s.copies ∧ BytesKept s t ∧ pendingIds t = pendingIds s ∧
        (∀ n l, l < 32 → n ∉ writeNames i → released s i n = false → t.cg.read n l = s.cg.read n l) ∧
        Sends s t (drainOps s i ++ lanes.filterMap fun l => (cw l).map fun x => (x, .add64 1, some .sys)))

/-- R209: where the core or the group has no tracker entry free, a copy-family instruction whose first active
lane passes holds its group as a whole: nothing is accepted, and the checks of that lane stand. -/
def Claims.CopiesHeld : Prop :=
  ∀ (i : Instr) (req : Nat → CopyReq) (s : State) (l : Nat) (src dst idx : Side) (cw : Option TmLoc),
    copyRequest s i = some req → (lanesOf (s.active i)).head? = some l →
    let s0 := s.drainAt i
    CopyIssues i s → NoCache s → (∀ x ∈ limitRows s l i, x.1 = false) →
    CopyPasses s0 l (req l) src dst idx cw →
    (16 ≤ s.copies.countP (fun o => o.team == s.curTeam && o.group == s.curGroup) ∨
      64 ≤ s.copies.countP (fun o => o.core == s.ct.core)) →
    ∃ t, exec i s = .next t ∧ t.copies = s.copies ∧ Sends s t (drainOps s i) ∧ BytesKept s t ∧
      t.cg.park = .tracker ∧ t.cg.lanes = s.cg.lanes ∧ pendingIds t = pendingIds s ∧
      ∃ o, t.cg.heldOp = some o ∧ o.lane = l ∧ o.src = src ∧ o.dst = dst ∧ o.cw = cw

/-- R208, R303: a lane whose request breaches a limit is PARKED at the word with the code and address of
the first one breached, and nothing of its request is accepted. -/
def Claims.CopyLimits : Prop :=
  ∀ (i : Instr) (req : Nat → CopyReq) (s : State) (code addr : Nat → Nat),
    copyRequest s i = some req → CopyIssues i s → s.cg.inSup = false →
    (∀ l, (s.active i).getLsbD l = true →
      ((limitRows s l i).filter fun x => x.1).head? = some (true, code l, addr l)) →
    ∃ t, exec i s = .next t ∧ t.copies = s.copies ∧ BytesKept s t ∧ Sends s t (drainOps s i) ∧
      ∀ l, (s.active i).getLsbD l = true → Trapped s t l (code l) (addr l)

/-- R175, R206, R213, R214: `cwinit` and `cwadd` drain the queue and send their value to the word's home
at system scope; `cwwait` passes once the word is at or above the value and parks the group until then;
`cwtest` sends the word's home the question whether it is, and is false where a line of the word is absent.
None of them does anything where no lane is active. -/
def Claims.CompletionWords : Prop :=
  (∀ (i : Instr) (o : OpCw) (s : State),
    (i = .cwinit o ∨ i = .cwadd o ∨ i = .cwwait o ∨ ∃ p, i = .cwtest p o) → CanIssue i s →
    s.accessHeld s.curTeam s.curGroup (s.active i) = false → s.active i = 0 →
    ∃ t, exec i s = .next t ∧ WordFrame i id s t ∧ pendingIds t = pendingIds s) ∧
  (∀ (o : OpCw) (s : State) (x : TmLoc),
    let v := if o.w64 then s.cg.rs64 o.b else (s.cg.rs o.b).toNat
    let addr := if o.cl then (s.cg.rs64 o.a + o.off.toNat) % 2 ^ 64
      else ((s.cg.rs o.a).toNat + o.off.toNat) % 2 ^ 32
    let sp : Space := if o.cl then .cl else .tm
    let first (i : Instr) : Nat := (lanesOf (s.active i)).headD 0
    let met : Prop := s.engineReads s.ct.core x 8 s.fresh = true ∧ v ≤ leNat (s.tmBytes x 8)
    addr % 8 = 0 →
    (∀ i op, (i = .cwinit o ∧ op = PacketOp.put64 (BitVec.ofNat 64 v) ∨
        i = .cwadd o ∧ op = PacketOp.add64 (BitVec.ofNat 64 v)) →
      CanIssue i s → s.accessHeld s.curTeam s.curGroup (s.active i) = false → s.active i ≠ 0 →
      (s.drainAt i).checkRange (s.drainAt i).ct (s.drainAt i).cg (first i) sp addr 8 false false true =
        .ok (.tm x) →
      ∃ t, exec i s = .next t ∧ AccessFrame i (fun g => { g with queue := queueAfter s i }) s t ∧
        pendingIds t = pendingIds s ∧ Sends s t (drainOps s i ++ [(x, op, some .sys)])) ∧
    (∀ i, i = .cwwait o → CanIssue i s → s.accessHeld s.curTeam s.curGroup (s.active i) = false →
      s.active i ≠ 0 → s.checkRange s.ct s.cg (first i) sp addr 8 false true false = .ok (.tm x) →
      (met → ∃ t, exec i s = .next t ∧ WordFrame i id s t ∧ pendingIds t = pendingIds s) ∧
      (¬ met → exec i s = .next (s.modCg fun g => { g with park := .cwwait o.cl }))) ∧
    (∀ i p, i = .cwtest p o → CanIssue i s → s.accessHeld s.curTeam s.curGroup (s.active i) = false →
      s.active i ≠ 0 → s.checkRange s.ct s.cg (first i) sp addr 8 false true false = .ok (.tm x) →
      (s.present x 8 = true → ∃ t, exec i s = .next t ∧ AccessFrame i id s t ∧
        pendingIds t = pendingIds s ++ [s.fresh] ∧
        Sends s t [(x, .test s.fresh (s.active i) (.p p.toNat) (BitVec.ofNat 64 v), none)] ∧
        Expects t s.fresh (if p = 0 then [] else [.p p.toNat]) (fun l => (s.active i).getLsbD l = true)
          (fun l => (s.active i).getLsbD l = true) fun r => r.acquire = false) ∧
      (s.present x 8 = false → ∃ t, exec i s = .next t ∧ WordFrame i id s t ∧
        pendingIds t = pendingIds s ++ [s.fresh] ∧
        (p ≠ 0 → ∀ l, (s.active i).getLsbD l = true → Awaits t s.fresh (.p p.toNat) l 0))))

end Sys2Proof

/-- R206 to R214: copy-family instructions are accepted within their limits, and completion
words. The model's reading: a copy of count 0 has its pointers neither translated nor checked (log 95), a tiled
copy takes addresses that are not aligned (log 23), a word without active lanes drains nothing (log 89), the
checks made once are made for the lowest active lane (log 18), and lanes are accepted in turn (log 74). -/
def Obligations.Copies : Prop :=
  Claims.CopiesAccepted ∧ Claims.CopiesHeld ∧ Claims.CompletionWords ∧ Claims.CopyLimits

namespace Sys2Proof

/-- Where a byte of a side stands: in a team's memory, or at a physical address of main memory through a
captured page. -/
def physAt (s : State) (x : Side) (o : Nat) : Option (Option Nat × Nat) :=
  match x with
  | .tm l => some (some (s.byteLoc l o).team, (s.byteLoc l o).addr)
  | .hbm va _ _ => (x.page o).map fun p => (none, p.ppage * 65536 + (va + o) % 65536)

/-- One byte of a side. -/
def byteAt (s : State) (x : Side) (o : Nat) : Byte :=
  match physAt s x o with
  | some (some k, a) => (s.team k).tm.read a
  | some (none, a) => s.hbmByte a
  | none => 0

/-- The index at a position of an index list (R211). -/
def indexAt (s : State) (idx : Side) (n : Nat) : Nat := leNat ((List.range 4).map fun k => byteAt s idx (4 * n + k))

/-- The source offset of a byte of the destination (R211), and whether it lies in the window. -/
def sourceOf (s : State) (o : CopyOp) (off : Nat) : Nat × Bool :=
  match o.kind with
  | .transpose rows cols e =>
    let i := off / e % rows
    let j := off / e / rows
    ((i * cols + j) * e + off % e, true)
  | .gather e w idx =>
    let p := indexAt s idx (off / e) * e
    (p + off % e, decide (p + e ≤ w))
  | _ => (off, true)

/-- The bytes that a byte of the destination is made from: its source, and its index. -/
def readsOf (s : State) (o : CopyOp) (off : Nat) : List (Side × Nat) :=
  (o.src, (sourceOf s o off).1) ::
    match o.kind with
    | .gather e _ idx => (List.range 4).map fun k => (idx, 4 * (off / e) + k)
    | _ => []

/-- The bytes that differ stand at these offsets of a side. -/
def OnlyAt (s u : State) (x : Side) (offs : List Nat) : Prop :=
  u.hostMem = s.hostMem ∧
    (∀ k a, (∀ o ∈ offs, physAt s x o ≠ some (some k, a)) → (u.team k).tm.read a = (s.team k).tm.read a) ∧
    ∀ a, (∀ o ∈ offs, physAt s x o ≠ some (none, a)) → u.hbmByte a = s.hbmByte a

/-- A place that a unit writes lies in one team's memory, or in pages that do not check tags. -/
def PlainPlace (s : State) (x : Side) (n : Nat) : Prop :=
  match x with
  | .tm l => (s.team? l.team).isSome = true ∧ l.addr + n ≤ round4k (s.team l.team).tmSize
  | .hbm _ p _ => ∀ q ∈ p, q.tag = false

/-- Pages that are only read do not check tags either. -/
def PlainSource (x : Side) : Prop :=
  match x with | .tm _ => True | .hbm _ p _ => ∀ q ∈ p, q.tag = false

/-- A unit of an operation is performed: `homePerform` for one of no stream, `reorderBufferRelease` for one of an
ordered stream (R162, R176); it is ready, and no word of the device is uncorrectable or poisoned. -/
structure UnitRuns (s : State) (n j : Nat) (o : CopyOp) (e : Instr) : Prop where
  op : s.copies[n]? = some o
  ids : ∀ (k : Nat) (x : CopyOp), s.copies[k]? = some x → x.id = o.id → k = n
  unit : j ∈ o.todo
  ready : s.unitReady o j = true
  plain : o.sampled = none ∧ o.waitingPeer = false
  event : e = .homePerform (s.net.length + n) j ∧ o.ordered = false ∨ e = .reorderBufferRelease n j ∧ o.ordered = true
  intact : s.eccTm = [] ∧ s.eccHbm = [] ∧ s.poisonTm = [] ∧ s.poisonHbm = []

/-- The unit is done, and no other operation and no packet changes; `noted` is what the operation has recorded. -/
def UnitDone (s u : State) (n j : Nat) (o : CopyOp) : Prop :=
  u.net = s.net ∧ ∃ noted, u.copies = s.copies.set n { o with todo := o.todo.erase j, noted := noted }

/-- An element outside the window raises a record of the issuing team (R211, R212). -/
def OutsideRecord (u : State) (o : CopyOp) : Prop :=
  ∃ r ∈ u.faults, r.1 = o.team ∧ r.2.1 = o.ctx ∧ r.2.2.code = 0x0A ∧ r.2.2.group = o.group ∧ r.2.2.lane = o.lane

/-- R211, R144: a unit of a copy, a transposing copy or a gather moves one 64-byte block of the destination:
each byte of the block receives its source byte, or 0 for an element outside the window, whose record is
raised once (log 23); nothing else of memory changes. -/
def Claims.BlocksMove : Prop :=
  ∀ (s : State) (n j : Nat) (o : CopyOp) (e : Instr),
    (o.kind = .plain ∨ (∃ r c w, o.kind = .transpose r c w) ∨
      ∃ w len idx, o.kind = .gather w len idx ∧ PlainSource idx) →
    UnitRuns s n j o e → j < unitCount o.kind o.dst o.dstLen o.count → PlainPlace s o.dst o.dstLen → PlainSource o.src →
    (∀ off ∈ o.unitRange j, ∀ x ∈ readsOf s o off, ∀ off' ∈ o.unitRange j, ∀ p,
      physAt s o.dst off' = some p → physAt s x.1 x.2 ≠ some p) →
    ∃ u, exec e s = .next u ∧ UnitDone s u n j o ∧ OnlyAt s u o.dst (o.unitRange j) ∧
      (∀ off ∈ o.unitRange j, (physAt s o.dst off).isSome = true →
        byteAt u o.dst off = if (sourceOf s o off).2 then byteAt s o.src (sourceOf s o off).1 else 0) ∧
      ((∀ off ∈ o.unitRange j, (sourceOf s o off).2 = true) → u.faults = s.faults) ∧
      ∀ w len idx, o.kind = .gather w len idx → ∀ off ∈ o.unitRange j, (0x0A, off / w) ∉ o.noted →
        (sourceOf s o off).2 = false → OutsideRecord u o

/-- R211, R147: a unit of a scatter writes one element to its place in the window; one outside it is not
written, and its record is raised. -/
def Claims.ElementsScatter : Prop :=
  ∀ (s : State) (n j w len : Nat) (o : CopyOp) (idx : Side) (e : Instr),
    o.kind = .scatter w len idx → UnitRuns s n j o e → w ≤ 64 → PlainSource o.dst → PlainSource o.src →
    PlainSource idx → (∃ va p tag, o.dst = .hbm va p tag) →
    let p := indexAt s idx j * w
    (p + w ≤ len → (∀ i, i < w → ∀ i', i' < w → ∀ a, physAt s o.dst (p + i') = some a →
        physAt s o.src (j * w + i) ≠ some a) →
      ∃ u, exec e s = .next u ∧ UnitDone s u n j o ∧ u.faults = s.faults ∧
        OnlyAt s u o.dst ((List.range w).map fun i => p + i) ∧
        ∀ i, i < w → (physAt s o.dst (p + i)).isSome = true → byteAt u o.dst (p + i) = byteAt s o.src (j * w + i)) ∧
    (len < p + w → ∃ u, exec e s = .next u ∧ UnitDone s u n j o ∧ OnlyAt s u o.dst [] ∧ OutsideRecord u o)

/-- R211: a unit of `copytag` gives one granule of the destination the new tag; no byte changes, and every
other granule keeps its tag. -/
def Claims.GranulesRetagged : Prop :=
  ∀ (s : State) (n j : Nat) (tag : BitVec 4) (o : CopyOp) (e : Instr),
    o.kind = .copytag tag → UnitRuns s n j o e → PlainPlace s o.dst o.count → o.dst.start % 32 = 0 →
    32 * j + 32 ≤ o.count →
    ∃ u, exec e s = .next u ∧ UnitDone s u n j o ∧ OnlyAt s u o.dst [] ∧ u.faults = s.faults ∧
      (∀ k a, physAt s o.dst (32 * j) = some (some k, a) → tget 0 (u.team k).tags (a / 32) = tag) ∧
      (∀ a, physAt s o.dst (32 * j) = some (none, a) → u.hbmTag (a / 32) = tag) ∧
      (∀ k g, (∀ a, physAt s o.dst (32 * j) = some (some k, a) → g ≠ a / 32) →
        tget 0 (u.team k).tags g = tget 0 (s.team k).tags g) ∧
      ∀ g, (∀ a, physAt s o.dst (32 * j) = some (none, a) → g ≠ a / 32) → u.hbmTag g = s.hbmTag g

/-- The point of R169 at system scope for an operation of a group: nothing that the group sent before its issue is
on its way, nor anything of the team that a narrower release has covered (R175, R179). -/
def Released (s : State) (k g id : Nat) : Prop :=
  ∀ p ∈ s.net, p.id < id → p.team = k → p.group ≠ g ∧ p.released = false

/-- The home can write a completion word for a core: its line is present, what had left the core for its bank has
come first (R162), no matrix operation is still to read it, and it lies in a team's memory. -/
def WordFree (s : State) (core : Nat) (x : TmLoc) : Prop :=
  s.present x 8 = true ∧ s.routeClear core x 8 s.fresh true = true ∧ (∀ m ∈ s.mmaxs, s.unread m x 8 = false) ∧ (s.team? x.team).isSome = true ∧
    x.addr + 8 ≤ round4k (s.team x.team).tmSize

/-- R175: an operation completes when every unit is done and the point of R169 is reached: it leaves the
engine, and its completion word rises by 1. -/
def Claims.CopyCompletes : Prop :=
  ∀ (s : State) (n : Nat) (o : CopyOp),
    s.copies[n]? = some o → o.todo = [] → Alive s o.team → Released s o.team o.group o.id →
    (∀ x, o.cw = some x → WordFree s (s.team o.team).core x) →
    ∃ u, exec (.copyOperationComplete n) s = .next u ∧ u.copies = s.copies.eraseIdx n ∧ u.hbm = s.hbm ∧
      u.net = s.net ∧ (o.cw = none → u.teams = s.teams) ∧
      ∀ x, o.cw = some x → OnlyRange s u x 8 ∧
        (u.team x.team).tm.readLe x.addr 8 = ((s.team x.team).tm.readLe x.addr 8 + 1) % 2 ^ 64

end Sys2Proof

/-- R144, R147, R175, R211: what the units of the copy family move, and the completion of an operation.
(Stated for pages without tag checks and memory without uncorrectable or poisoned words.) Readings: logs 23, 24. -/
def Obligations.CopyUnits : Prop :=
  Claims.BlocksMove ∧ Claims.ElementsScatter ∧ Claims.GranulesRetagged ∧ Claims.CopyCompletes

namespace Sys2Proof

/-! ### Matrix operations and the accumulator store -/

/-- Only one core changes, and of it only what `own` says. -/
def CoreChange (s t : State) (own : Core → Core) : Prop :=
  t.core s.ct.core = own (s.core s.ct.core) ∧ ∀ k, k ≠ s.ct.core → t.core k = s.core k

/-- A word changes, beside what a word changes, only its core. -/
def CoreFrame (i : Instr) (own : Group → Group) (s t : State) : Prop :=
  AccessFrame i own s { t with cores := s.cores }

/-- A field of a descriptor or parameter block, least significant byte first. -/
def field (bs : List Byte) (off n : Nat) : Nat := leNat ((bs.drop off).take n)

end Sys2Proof

/-- R254, R256, R270, R271: `berth` reads the 32-byte descriptor that its lowest active lane sees, once
the core's own writes to it are performed, checks it, and records it under its number for the issuing
group; `unberth` frees the group's record. Nothing else of the core changes. -/
def Obligations.BerthRecords : Prop :=
  (∀ (a : BitVec 6) (n : BitVec 5) (m : Mods) (s : State) (x : TmLoc),
    let i : Instr := .berth a n m
    let low := (lanesOf (s.active i)).headD 0
    let core := s.core s.ct.core
    let bs := s.laneBytes low x 32
    CanIssue i s → s.accessHeld s.curTeam s.curGroup (s.active i) = false → s.active i ≠ 0 →
    s.checkElem s.ct s.cg low .tm (s.cg.rs a).toNat 32 true false = .ok (.tm x) →
    s.engineReads s.ct.core x 32 s.fresh = true → s.berthBusy s.ct.core n.toNat = false →
    (∀ r, tfind core.berths n.toNat = some r → r.team = s.curTeam ∧ r.group = s.curGroup) →
    s.berthCheck i (parseBerth s.curTeam s.curGroup bs)
      ((bs.getD 0x13 0 != 0) || (bs.drop 0x18).any (· != 0)) = none →
    ∃ t b, exec i s = .next t ∧ CoreFrame i id s t ∧ t.net = s.net ∧ pendingIds t = pendingIds s ∧
      CoreChange s t (fun c => { c with berths := tins c.berths n.toNat b }) ∧
      b.team = s.curTeam ∧ b.group = s.curGroup ∧ b.base.toNat = field bs 0 4 ∧ b.length = field bs 4 4 ∧
      b.rows = field bs 8 2 ∧ b.cols = field bs 10 2 ∧ b.stride = field bs 12 4 ∧ b.fmt = field bs 16 1 ∧
      b.layout = field bs 17 1 ∧ b.bl = field bs 18 1 ∧ b.scale = field bs 20 4) ∧
  (∀ (o : OpSA) (s : State),
    let i : Instr := .unberth o
    let n := (s.cg.rs o.a).toNat
    CanIssue i s → n ≤ 31 → s.berthBusy s.ct.core n = false →
    (∀ r, tfind (s.core s.ct.core).berths n = some r → r.team = s.curTeam ∧ r.group = s.curGroup) →
    ∃ t, exec i s = .next t ∧ CoreFrame i id s t ∧ t.net = s.net ∧ pendingIds t = pendingIds s ∧
      (∀ k, k ≠ s.ct.core → t.core k = s.core k) ∧
      (s.active i ≠ 0 → tfind (t.core s.ct.core).berths n = none) ∧
      ∀ k, k ≠ n ∨ s.active i = 0 →
        tfind (t.core s.ct.core).berths k = tfind (s.core s.ct.core).berths k)

namespace Sys2Proof

/-- Element (i, k) of an `mmas` fragment of 16-bit or 8-bit elements (R262): row i stands in lanes 2i and
2i + 1, the first half of K in the lower, low fields first. -/
def fragment (g : Group) (base : BitVec 7) (wide : Bool) (i k : Nat) : Nat :=
  let half := if wide then 8 else 16
  let bits := if wide then 16 else 8
  let per := 32 / bits
  (g.read (.g (base.toNat + k % half / per)) (2 * i + k / half)).toNat / 2 ^ (bits * (k % half % per)) % 2 ^ bits

/-- R262, R272, R273, R103: `mmas` with all 32 lanes active binds, for each lane l and q below 8, the
element of row l / 2 and column 8 * (l mod 2) + q: the old element plus the sum of the products of row
and column, in the order of R244. Where its flags meet no trap enable they are recorded. With any lane
inactive it traps ILLEGAL_OPERAND in the active ones. -/
def Claims.SmallMatrix : Prop :=
  (∀ (o : OpDABC) (ta tb : MmTy) (s : State),
    let i : Instr := .mmas o ta tb
    let wide : Bool := ta == .f16 || ta == .bf16
    let el (l q : Nat) : Nat × Nat :=
      dotElem ta.code tb.code 0 (s.cg.read (.g (o.c.toNat + q)) l).toNat
        ((List.range (if wide then 16 else 32)).map fun k =>
          (fragment s.cg o.a wide (l / 2) k, fragment s.cg o.b wide (l % 2 * 8 + q) k))
    let fl := (List.range 32).foldl (fun n l => (List.range 8).foldl (fun n q => n ||| (el l q).2) n) 0
    CanIssue i s → (∀ l, l < 32 → (s.active i).getLsbD l = true) → ¬ meetsEnable s.cg fl →
    ∃ t, exec i s = .next t ∧ CoreFrame i (orFlags 1 fun _ => fl) s { t with energy := s.energy } ∧ t.net = s.net ∧
      CoreChange s t (fun c => { c with msteps := c.msteps + 1 }) ∧
      pendingIds t = pendingIds s ++ [s.fresh] ∧
      ∀ l q, l < 32 → q < 8 → Awaits t s.fresh (.g (o.d.toNat + q)) l (BitVec.ofNat 32 (el l q).1)) ∧
  (∀ (o : OpDABC) (ta tb : MmTy) (s : State),
    let i : Instr := .mmas o ta tb
    CanIssue i s → s.cg.inSup = false → (∃ l, l < 32 ∧ (s.active i).getLsbD l = false) →
    ∃ t, exec i s = .next t ∧ RestKept s t ∧ ∀ l, (s.active i).getLsbD l = true → Trapped s t l 3 0)

/-- The exact sum of the products of signed bytes. -/
def byteDot (ab : List (Nat × Nat)) : Int :=
  (ab.map fun x => (BitVec.ofNat 8 x.1).toInt * (BitVec.ofNat 8 x.2).toInt).sum

/-- R243, R244: the products of 8-bit integers are summed exactly: over up to 1,000 pairs from a zero
accumulator the element is the FP32 value of the exact integer sum, and no flag is raised. -/
def Claims.IntegerDots : Prop :=
  ∀ (ab : List (Nat × Nat)), ab.length ≤ 1000 →
    units (dotElem 5 5 0 0 ab).1 = byteDot ab * 2 ^ 149 ∧ (dotElem 5 5 0 0 ab).2 = 0

end Sys2Proof

/-- R262, R272, R273, R243, R244, R103: `mmas`, and the integer dot products of a matrix step, which set no flag. -/
def Obligations.MatrixSmall : Prop :=
  Claims.SmallMatrix ∧ Claims.IntegerDots

namespace Sys2Proof

/-- R258, R260, R274: `mmax` in one active lane, with its parameter block, berths, window and completion
word passing the checks and room in the engine, drains the queue and starts one operation that holds the
shape and formats of its berths, the first team row, the valid extents and the completion word. -/
def Claims.MatrixIssue : Prop :=
  ∀ (o : OpA) (s : State) (l : Nat) (x : TmLoc) (ba bb : Berth),
    let i : Instr := .mmax o
    let s0 := s.drainAt i
    let bs := s0.tmBytes x 32
    let q := parseMmax bs
    let row := s.cg.accbase.toNat + field bs 4 4
    let n := if field bs 2 1 = 2 then ba.rows else (bb.cols + 31) / 32 * ba.rows
    CanIssue i s → s.accessHeld s.curTeam s.curGroup (s.active i) = false →
    lanesOf (s.active i) = [l] → s.cg.accepted = 0 → s.firstUse s.ct = false →
    s0.checkElem s0.ct s0.cg l .tm (s.cg.rg o.a l).toNat 32 true false = .ok (.tm x) →
    s0.engineReads s.ct.core x 32 s0.fresh = true → s0.mmaxChecks l q = .ok (ba, bb) → s.mmaxRoom = true →
    s.rowsOwned s.curTeam s.curGroup row n = false →
    (∀ y ∈ s.mmaxs, y.team = s.curTeam → y.group = s.curGroup → y.seq = s.cg.seq → y.pc = s.cl.here →
      y.cw.addr ≠ field bs 12 4 % 2 ^ 21) →
    ∃ t y, exec i s = .next t ∧ Sends s t (drainOps s i) ∧
      AccessFrame i (fun g => { g with queue := queueAfter s i }) s { t with mmaxs := s.mmaxs } ∧
      pendingIds t = pendingIds s ∧ t.mmaxs = s.mmaxs ++ [y] ∧
      y.id = s0.fresh ∧ y.team = s.curTeam ∧ y.group = s.curGroup ∧ y.core = s.ct.core ∧ y.a = field bs 0 1 ∧
      y.b = field bs 1 1 ∧ y.operator = field bs 2 1 ∧ y.m = ba.rows ∧ y.k = ba.cols ∧ y.n = bb.cols ∧
      y.row = row ∧ y.rows = n ∧ y.vr = field bs 8 2 ∧ y.vc = field bs 10 2 ∧ y.fa = ba.fmt ∧
      y.fb = bb.fmt ∧ y.bl = ba.bl ∧ y.readDone = false ∧
      y.cw = { team := s.curTeam, addr := field bs 12 4 % 2 ^ 21 }

/-- Team row and word of an output element (R259). -/
def elementPlace (o : MmaxOp) (i j : Nat) : Nat × Nat :=
  if o.operator = 2 then (o.row + i, 2 * j + 1) else (o.row + j / 32 * o.m + i, j % 32)

/-- R246, R247, R257 to R260: an operation reads its berths, once what came before it has been written,
and its ranges are free for writing; it completes by writing each valid element: the sum of its row and
column, over the old value where it accumulates; the flags are ORed into the window flags, the
completion word rises by 1 once the point of R169 is reached for the issue (R175), and the rows around the
elements keep their words. (Stated for words without uncorrectable errors.) -/
def Claims.MatrixResult : Prop :=
  (∀ (s : State) (n : Nat) (o : MmaxOp) (a b : Berth),
    s.mmaxs[n]? = some o → o.readDone = false → tfind (s.core o.core).berths o.a = some a →
    tfind (s.core o.core).berths o.b = some b → (∀ r ∈ o.ranges, s.rangeStands o r = true) →
    s.eccTm = [] → s.poisonTm = [] →
    ∃ u o', exec (.berthReadDone n) s = .next u ∧ { u with mmaxs := s.mmaxs } = s ∧
      u.mmaxs = s.mmaxs.set n o' ∧ o'.readDone = true ∧
      { o' with readDone := o.readDone, aElems := o.aElems, bElems := o.bElems } = o ∧
      (∀ i k, i < o.m → k < o.k → o'.aElems[i * o.k + k]? = some (s.berthElem a i k)) ∧
      (∀ k j, k < o.k → j < o.n → o'.bElems[k * o.n + j]? = some (s.berthElem b k j))) ∧
  (∀ (s : State) (n : Nat) (o : MmaxOp),
    let t := s.team o.team
    let word (s : State) (p : Nat × Nat) : Word := tget 0 (s.core t.core).acc (32 * (32 * t.firstUnit + p.1) + p.2)
    let el (i j : Nat) : Nat × Nat :=
      dotElem o.fa o.fb o.bl (if o.operator = 1 then (word s (elementPlace o i j)).toNat else 0)
        ((List.range o.k).map fun k =>
          ((o.aElems.getD (i * o.k + k) 0).toNat, (o.bElems.getD (k * o.n + j) 0).toNat))
    s.mmaxs[n]? = some o → o.readDone = true → Released s o.team o.group o.id → WordFree s (s.team o.team).core o.cw → s.eccRows = [] →
    o.vr ≤ o.m → (o.operator = 2 → o.vc ≤ 16) → Alive s o.team → o.core = t.core → o.cw.team = o.team →
    ∃ u, exec (.mmaxOperationComplete n) s = .next u ∧ u.mmaxs = s.mmaxs.eraseIdx n ∧ u.net = s.net ∧
      (∀ i j, i < o.vr → j < o.vc → word u (elementPlace o i j) = BitVec.ofNat 32 (el i j).1) ∧
      (∀ r w, w < 32 → (∀ i j, i < o.vr → j < o.vc → elementPlace o i j ≠ (r, w)) →
        word u (r, w) = word s (r, w)) ∧
      (∀ g, (s.team o.team).group? o.group = some g → g.ended = false → (u.group o.team o.group).wflags =
        g.wflags ||| BitVec.ofNat 5 ((List.range o.vr).foldl (fun f i =>
          (List.range o.vc).foldl (fun f j => f ||| (el i j).2) f) 0)) ∧
      OnlyRange s u o.cw 8 ∧
      (u.team o.team).tm.readLe o.cw.addr 8 = (t.tm.readLe o.cw.addr 8 + 1) % 2 ^ 64)

end Sys2Proof

/-- R258 to R261, R274, R275: `mmax` is accepted, reads, and gives its result. Readings: log 36. -/
def Obligations.MatrixLarge : Prop :=
  Claims.MatrixIssue ∧ Claims.MatrixResult

namespace Sys2Proof

/-- A word of a row of the issuing group's team (R251). -/
def rowWord (s : State) (row w : Nat) : Word :=
  tget 0 (s.core s.ct.core).acc (32 * (32 * s.ct.firstUnit + row) + w)

/-- An instruction on n rows from a reference passes the checks of R268: the store is the context's, the
rows lie in the group's window, and no operation in flight owns them. -/
structure TouchPasses (s : State) (i : Instr) (r : Row) (n : Nat) : Prop where
  active : s.active i ≠ 0
  owner : s.firstUse s.ct = false
  window : s.cg.accbase.toNat + rowRef s.cg r + n ≤ s.cg.acclim.toNat
  free : s.rowsOwned s.curTeam s.curGroup (s.cg.accbase.toNat + rowRef s.cg r) n = false

/-- R253, R268, R276, R277, R282: `accw` from group 0 sets the window of the group in a to the rows in b
and c; `accz` clears whole rows; `accst` writes b of each active lane to the row's word of that lane,
and `accld` binds it; `accflg` binds the window flags and clears them. Every other word of the store
is kept. -/
def Claims.AccumulatorRows : Prop :=
  (∀ (a b c : BitVec 6) (m : Mods) (s : State),
    let i : Instr := .accw a b c m
    let k := (s.cg.rs a).toNat
    CanIssue i s → s.active i ≠ 0 → s.curGroup = 0 → k < s.ct.groups.length →
    (s.cg.rs b).toNat ≤ s.ct.rows → (s.cg.rs c).toNat ≤ s.ct.rows → (s.ct.group? k).isSome = true →
    ∃ t, exec i s = .next t ∧ { t with teams := s.teams } = s ∧ { t.ct with groups := s.ct.groups } = s.ct ∧
      ((s.ct.group k).ended = false → (t.ct.group k).accbase.toNat = (s.cg.rs b).toNat % 2 ^ 15 ∧
        (t.ct.group k).acclim.toNat = (s.cg.rs c).toNat % 2 ^ 15) ∧
      (∀ j, j ≠ k → (t.ct.group j).accbase = (s.ct.group j).accbase ∧
        (t.ct.group j).acclim = (s.ct.group j).acclim) ∧
      RegsKept i s t) ∧
  (∀ (row : Row) (count : BitVec 16) (m : Mods) (s : State),
    let i : Instr := .accz row count m
    let r := s.cg.accbase.toNat + rowRef s.cg row
    CanIssue i s → TouchPasses s i row count.toNat →
    ∃ t, exec i s = .next t ∧ CoreFrame i id s t ∧ t.net = s.net ∧ pendingIds t = pendingIds s ∧
      ∀ q w, w < 32 → rowWord t q w = if r ≤ q ∧ q < r + count.toNat then 0 else rowWord s q w) ∧
  (∀ (row : Row) (b : BitVec 7) (m : Mods) (s : State),
    let i : Instr := .accst row b m
    let r := s.cg.accbase.toNat + rowRef s.cg row
    CanIssue i s → TouchPasses s i row 1 →
    ∃ t, exec i s = .next t ∧ CoreFrame i id s t ∧ t.net = s.net ∧ pendingIds t = pendingIds s ∧
      ∀ q w, w < 32 → rowWord t q w =
        if q = r ∧ (s.active i).getLsbD w = true then s.cg.rg b w else rowWord s q w) ∧
  (∀ (d : BitVec 7) (row : Row) (m : Mods) (s : State),
    let i : Instr := .accld d row m
    let r := s.cg.accbase.toNat + rowRef s.cg row
    CanIssue i s → TouchPasses s i row 1 →
    (∀ l, (s.active i).getLsbD l = true → s.wordEcc s.ct r l = false) →
    ∃ t, exec i s = .next t ∧ WordFrame i id s t ∧ pendingIds t = pendingIds s ++ [s.fresh] ∧
      ∀ l, (s.active i).getLsbD l = true → Awaits t s.fresh (.g d.toNat) l (rowWord s r l)) ∧
  (∀ (d : BitVec 6) (m : Mods) (s : State),
    let i : Instr := .accflg d m
    CanIssue i s → s.active i ≠ 0 →
    ∃ t, exec i s = .next t ∧ WordFrame i (fun g => { g with wflags := 0 }) s t ∧
      pendingIds t = pendingIds s ++ [s.fresh] ∧
      Awaits t s.fresh (.s d.toNat) 0 (BitVec.ofNat 32 s.cg.wflags.toNat))

/-- R268, R253: a row instruction that fails a check of R268 traps in every active lane, ACC_FIRST_USE
before ACC_WINDOW, and changes no word of the store. An `accld` that passes them and reads an uncorrectable word in
some active lane traps ECC_UNCORRECTABLE in every active lane (R267, R277, R301); one whose row an operation in
flight owns waits instead (R268). -/
def Claims.AccumulatorTraps : Prop :=
  (∀ (d : BitVec 7) (row : Row) (m : Mods) (s : State),
    let i : Instr := .accld d row m
    let r := s.cg.accbase.toNat + rowRef s.cg row
    CanIssue i s → s.cg.inSup = false →
    (TouchPasses s i row 1 → (∃ l, (s.active i).getLsbD l = true ∧ s.wordEcc s.ct r l = true) →
      ∃ t, exec i s = .next t ∧ RestKept s t ∧ ∀ l, (s.active i).getLsbD l = true → Trapped s t l 0x48 0) ∧
    (s.active i ≠ 0 → s.firstUse s.ct = false → r + 1 ≤ s.cg.acclim.toNat →
      s.rowsOwned s.curTeam s.curGroup r 1 = true →
      exec i s = .next (s.modCg fun g => { g with park := .engine }))) ∧
  ∀ (i : Instr) (row : Row) (n : Nat) (s : State),
    (∃ d m, i = .accld d row m ∧ n = 1) ∨ (∃ b m, i = .accst row b m ∧ n = 1) ∨
      (∃ c m, i = .accz row c m ∧ n = c.toNat) →
    CanIssue i s → s.cg.inSup = false → s.active i ≠ 0 →
    ∀ code, (s.firstUse s.ct = true ∧ code = 0x11 ∨
      s.firstUse s.ct = false ∧ s.cg.acclim.toNat < s.cg.accbase.toNat + rowRef s.cg row + n ∧ code = 0x10) →
    ∃ t, exec i s = .next t ∧ RestKept s t ∧ ∀ l, (s.active i).getLsbD l = true → Trapped s t l code 0

end Sys2Proof

/-- R251, R252, R253, R263, R267, R268, R276, R277, R282: instructions on accumulator rows, their window, the order of
their traps and the window's flags. -/
def Obligations.AccumulatorRows : Prop :=
  Claims.AccumulatorRows ∧ Claims.AccumulatorTraps

namespace Sys2Proof

/-- One word of `accout` (R279): FP32 words are copied, a NaN as the canonical one; the other formats are
rounded as `cvt` rounds, the stochastic rounding drawing for the element's index. -/
def accoutWord (ty : FTy) (rm : RmS) (sat : Bool) (seed stream index : Nat) (x : Nat) : Nat × Nat :=
  match ty, rm with
  | .f32, _ =>
    match unpackF .f32 x with
    | .nan sig => (0x7FC00000, if sig then 1 else 0)
    | _ => (x, 0)
  | ty, .rs => fpCvtRs ty sat x (draw16 seed stream index)
  | ty, .det r => fpCvt (.fp ty) (.fp .f32) r sat x

end Sys2Proof

/-- R278, R279, R281, R239: `accout` converts n rows and writes their 32 n elements in order from the
pointer up; `cvtb` quantises the word of every lane in blocks of 16 or 32, an inactive lane as +0, and
writes the codes two to a byte, the even lane low, and the block's scale bytes. Both drain the queue
first, wait until nothing stands against the writes, and OR their flags into the window flags. Readings: logs 35, 39. -/
def Obligations.ConvertedOutput : Prop :=
  (∀ (d : BitVec 6) (row : Row) (b : BitVec 6) (ty : FTy) (rm : RmS) (sat : Bool) (n1 : BitVec 8) (m : Mods)
      (s : State) (x : TmLoc),
    let i : Instr := .accout d row b ty rm sat n1 m
    let n := n1.toNat + 1
    let e := match ty with | .f32 => 4 | .f16 | .bf16 => 2 | _ => 1
    let s0 := s.drainAt i
    let r := s.cg.accbase.toNat + rowRef s.cg row
    let el (k : Nat) : Nat × Nat :=
      accoutWord ty rm sat s.cg.rngseed.toNat (s.cg.read (.s (b.toNat + 1)) 0).toNat
        (((s.cg.rs b).toNat + k) % 2 ^ 32) (rowWord s (r + k / 32) (k % 32)).toNat
    CanIssue i s → s.accessHeld s.curTeam s.curGroup (s.active i) = false → TouchPasses s i row n →
    s.rowsEcc s.ct r n = false → (s.cg.rs d).toNat % 16 = 0 →
    s0.checkRange s0.ct s0.cg ((lanesOf (s.active i)).headD 0) .tm (s.cg.rs d).toNat (32 * n * e) true false true =
      .ok (.tm x) →
    s0.writable x (32 * n * e) = true →
    ∃ t, exec i s = .next t ∧ Sends s t (drainOps s i) ∧ pendingIds t = pendingIds s ∧
      OnlyRange s t x (32 * n * e) ∧ RegsKept i s t ∧
      (∀ k, k < 32 * n → t.ct.tm.readLe (x.addr + e * k) e = (el k).1 % 256 ^ e) ∧
      t.cg.wflags = s.cg.wflags ||| BitVec.ofNat 5 ((List.range (32 * n)).foldl (fun f k => f ||| (el k).2) 0)) ∧
  (∀ (d : BitVec 6) (a : BitVec 7) (b : BitVec 6) (ty : BitVec 2) (bl32 : Bool) (m : Mods) (s : State)
      (x y : TmLoc),
    let i : Instr := .cvtb d a b ty bl32 m
    let bl := if bl32 then 32 else 16
    let nb := if bl32 then 1 else 2
    let s0 := s.drainAt i
    let low := (lanesOf (s.active i)).headD 0
    let value (l : Nat) : FVal :=
      if (s.active i).getLsbD l then unpackF .f32 (s.cg.rg a l).toNat else .fin false 0 0
    let block (k : Nat) := quantBlock ty.toNat ((List.range bl).map fun j => value (bl * k + j))
    let code (l : Nat) : Nat := ((block (l / bl)).1).getD (l % bl) 0
    CanIssue i s → s.accessHeld s.curTeam s.curGroup (s.active i) = false → s.active i ≠ 0 →
    (s.cg.rs d).toNat % 16 = 0 → (s.cg.rs b).toNat % nb = 0 →
    s0.checkRange s0.ct s0.cg low .tm (s.cg.rs d).toNat 16 true false true = .ok (.tm x) →
    s0.checkRange s0.ct s0.cg low .tm (s.cg.rs b).toNat nb true false true = .ok (.tm y) →
    (x.addr + 16 ≤ y.addr ∨ y.addr + nb ≤ x.addr) →
    s0.writable x 16 = true → s0.writable y nb = true →
    ∃ t, exec i s = .next t ∧ Sends s t (drainOps s i) ∧ pendingIds t = pendingIds s ∧ RegsKept i s t ∧
      t.hbm = s.hbm ∧
      (∀ k, k < 16 → (t.ct.tm.read (x.addr + k)).toNat = (code (2 * k) + 16 * code (2 * k + 1)) % 256) ∧
      (∀ k, k < nb → (t.ct.tm.read (y.addr + k)).toNat = (block k).2.1 % 256) ∧
      (∀ c, (c < x.addr ∨ x.addr + 16 ≤ c) → (c < y.addr ∨ y.addr + nb ≤ c) →
        t.ct.tm.read c = s.ct.tm.read c) ∧
      t.cg.wflags = s.cg.wflags ||| BitVec.ofNat 5 ((List.range (32 / bl)).foldl (fun f k => f ||| (block k).2.2) 0))

namespace Sys2Proof

/-! ### Chain -/

/-- The recorded operation of the issuing group, its identity and place aside: the row operand as a window row
`b` (R290), the team row where it begins, and the rest. Where its clause execution has written the carry register,
the carry that it reads is the one from before the latest such write (R92); a `chst` stores what a `chain` of the
execution leaves (log 99). -/
def Records (s t : State) (kind : ChainKind) (b row n : Nat) (mask : BitVec 16) (carry : Nat)
    (store : Bool) : Prop :=
  ∃ o, t.cg.chprog = some o ∧ o.kind = kind ∧ o.b = b ∧ o.row = row ∧ o.n = n ∧ o.mask = mask ∧ o.carry = carry ∧
    o.chunk = 0 ∧ o.pc = s.cl.here ∧ o.stopped = false ∧ o.failed = false ∧ o.handler = none ∧ o.seq = s.cg.seq ∧
    (kind ≠ .chldId → o.carryIn =
      (s.cg.older.find? fun y => y.k == carry && !(store && y.byChain)).map (·.words))

/-- A word of the carry that an operation reads (R92, R287): `chain` goes on in later chunks from what it has written. -/
def carryRead (x : Group) (o : ChainOp) (w : Nat) : Word :=
  match o.carryIn with
  | some ws => if o.kind = .chain ∧ o.chunk ≠ 0 then x.peek (.c o.carry) w else ws.getD w 0
  | none => x.peek (.c o.carry) w

/-- The frame of a Chain instruction: the queue drains, and the operation is recorded. -/
def ChainFrame (i : Instr) (s t : State) : Prop :=
  AccessFrame i (fun g => { g with queue := queueAfter s i, chprog := t.cg.chprog }) s t ∧
    Sends s t (drainOps s i) ∧ pendingIds t = pendingIds s

end Sys2Proof

/-- R290, R293 to R296: a Chain instruction completes by recording its operation, where none is in flight
and its checks pass: `chain` and `chapply` over n rows, 1 to 4,096, inside the window, `chain` with a mask
of 16 bits; `chld` and `chst` on 128 bytes of team memory at a 16-byte boundary; `chld.id` with no checks.
Readings: logs 11, 37, 99. -/
def Obligations.ChainIssue : Prop :=
  (∀ (i : Instr) (kind : ChainKind) (k : BitVec 3) (row : Row) (b : BitVec 6) (mask : Nat) (s : State),
    ((∃ mk m, i = .chain k row b mk m ∧ kind = .chain ∧ mask = (s.cg.rs mk).toNat) ∨
      (∃ m, i = .chapply k row b m ∧ kind = .chapply ∧ mask = 0xFFFF)) →
    CanIssue i s → s.accessHeld s.curTeam s.curGroup (s.active i) = false → s.cg.chprog = none →
    TouchPasses s i row (s.cg.rs b).toNat → 1 ≤ (s.cg.rs b).toNat → (s.cg.rs b).toNat ≤ 4096 → mask < 65536 →
    ∃ t, exec i s = .next t ∧ ChainFrame i s t ∧
      Records s t kind (rowRef s.cg row) (s.cg.accbase.toNat + rowRef s.cg row) (s.cg.rs b).toNat
        (BitVec.ofNat 16 mask) k.toNat false) ∧
  (∀ (i : Instr) (store : Bool) (k : BitVec 3) (a : BitVec 6) (off : BitVec 11) (m : Mods) (s : State) (x : TmLoc),
    let p := (BitVec.ofInt 32 ((s.cg.rs a).toNat + off.toInt)).toNat
    let s0 := s.drainAt i
    (i = .chst k a off m ∧ store = true ∨ i = .chld k a off m ∧ store = false) →
    CanIssue i s → s.accessHeld s.curTeam s.curGroup (s.active i) = false → s.active i ≠ 0 →
    s.cg.chprog = none → p % 16 = 0 →
    s0.checkSteps s0.ct s0.cg ((lanesOf (s.active i)).headD 0) .tm p 128 true (!store) store = .ok (.tm x) →
    (store = false → s0.present x 128 = true) →
    ∃ t, exec i s = .next t ∧ ChainFrame i s t ∧
      Records s t (if store then .chst x.addr else .chld x.addr) 0 0 0 0 k.toNat store) ∧
  (∀ (k : BitVec 3) (m : Mods) (s : State),
    let i : Instr := .chldId k m
    CanIssue i s → s.accessHeld s.curTeam s.curGroup (s.active i) = false → s.active i ≠ 0 →
    s.cg.chprog = none →
    ∃ t, exec i s = .next t ∧ ChainFrame i s t ∧ Records s t .chldId 0 0 0 0 k.toNat false)

namespace Sys2Proof

/-- Row i of a column after some stages of the scan (R287). -/
def scanned (x : Nat → GPair) : Nat → Nat → GPair
  | 0, i => x i
  | st + 1, i =>
    if i < 2 ^ st then scanned x st i else (comp (scanned x st i) (scanned x st (i - 2 ^ st))).1

/-- The pair of a row as Chain reads it: a subnormal gain counts as a zero of its sign (R285). -/
def pairOf (s : State) (t : Team) (row p : Nat) : GPair :=
  let g := (tget 0 (s.core t.core).acc (32 * (32 * t.firstUnit + row) + 2 * p)).toNat
  let o := (tget 0 (s.core t.core).acc (32 * (32 * t.firstUnit + row) + 2 * p + 1)).toNat
  (if g / 2 ^ 23 % 256 = 0 ∧ g % 2 ^ 23 ≠ 0 then g / 2 ^ 31 * 2 ^ 31 else g, o)

/-- R287, R295, R285: a chunk of up to 32 rows of a Chain operation is done in one step. In each column of
the mask `chain` writes to each row the composition of the rows up to it, in five stages, composed with
the carry, and leaves the last row's pair in the carry register; `chapply` writes the pair of gain 0
and the row's function applied to the carry's offset. Other words keep theirs, and the operation goes on
to its next chunk or ends. (Stated for words without uncorrectable errors, and rows that are neither to be
restored nor cleared.) -/
def Claims.ChainChunk : Prop :=
  ∀ (s : State) (k g : Nat) (o : ChainOp),
    let t := s.team k
    let x := s.group k g
    let base := o.row + 32 * o.chunk
    let len := min 32 (o.n - 32 * o.chunk)
    let word (s : State) (r w : Nat) : Word := tget 0 (s.core t.core).acc (32 * (32 * t.firstUnit + r) + w)
    let carry (p : Nat) : GPair := ((carryRead x o (2 * p)).toNat, (carryRead x o (2 * p + 1)).toNat)
    let value (p i : Nat) : GPair :=
      if o.kind = .chain then
        (comp (scanned (fun j => pairOf s t (base + j) p) 5 i) (carry p)).1
      else
        let r := pairOf s t (base + i) p
        (0, if r.1 % 2 ^ 31 = 0 then r.2 else (fpFma .f32 .rne r.1 (carry p).2 r.2).1)
    (t.group? g).isSome = true → x.chprog = some o → o.stopped = false → o.failed = false → x.hasHalted = false →
    t.restoreMark = none → t.clearMark = false →
    (o.kind = .chain ∨ o.kind = .chapply) → s.eccRows = [] → Alive s k → 0 < len →
    ∃ u, exec (.chainChunkComplete k g) s = .next u ∧ u.hbm = s.hbm ∧ u.net = s.net ∧
      (∀ p i, p < 16 → i < len → o.mask.getLsbD p = true →
        word u (base + i) (2 * p) = BitVec.ofNat 32 (value p i).1 ∧
        word u (base + i) (2 * p + 1) = BitVec.ofNat 32 (value p i).2) ∧
      (∀ r w, w < 32 → (base ≤ r ∧ r < base + len → o.mask.getLsbD (w / 2) = false) →
        word u r w = word s r w) ∧
      (∀ p, p < 16 → o.kind = .chain → o.mask.getLsbD p = true →
        (u.group k g).peek (.c o.carry) (2 * p) = BitVec.ofNat 32 (value p (len - 1)).1 ∧
        (u.group k g).peek (.c o.carry) (2 * p + 1) = BitVec.ofNat 32 (value p (len - 1)).2) ∧
      (∀ n l, l < 32 → (∀ c, n ≠ .c c) → (u.group k g).peek n l = x.peek n l) ∧
      (u.group k g).chprog =
        (if o.chunk + 1 < (o.n + 31) / 32 then some { o with chunk := o.chunk + 1 } else none)

/-- R296: a carry move completes: `chld.id` sets every pair of its carry register to gain 1 and offset
0, `chld` takes its words from team memory, `chst` writes the words it reads of the carry there; the operation ends. -/
def Claims.CarryMoves : Prop :=
  ∀ (s : State) (k g : Nat) (o : ChainOp),
    let t := s.team k
    let x := s.group k g
    (t.group? g).isSome = true → x.chprog = some o → o.stopped = false → Alive s k →
    s.eccTm = [] → s.poisonTm = [] →
    (o.kind = .chldId ∨ ∃ a, o.kind = .chld a ∧ s.engineReads t.core { team := k, addr := a } 128 o.id = true ∧
        a + 128 ≤ round4k t.tmSize ∨
      o.kind = .chst a ∧ s.engineReads t.core { team := k, addr := a } 128 o.id = true ∧ s.berthHeld o.id { team := k, addr := a } 128 = false ∧
        a + 128 ≤ round4k t.tmSize) →
    ∃ u, exec (.carryMoveComplete k g) s = .next u ∧ u.hbm = s.hbm ∧ u.net = s.net ∧
      (u.group k g).chprog = none ∧
      (∀ a, o.kind = .chst a → OnlyRange s u { team := k, addr := a } 128 ∧ ∀ w, w < 32 →
        (u.team k).tm.readLe (a + 4 * w) 4 = (carryRead x o w).toNat) ∧
      (∀ w, w < 32 → (u.group k g).peek (.c o.carry) w =
        match o.kind with
        | .chldId => if w % 2 = 0 then 0x3F800000 else 0
        | .chld a => BitVec.ofNat 32 (t.tm.readLe (a + 4 * w) 4)
        | _ => x.peek (.c o.carry) w) ∧
      ∀ n l, l < 32 → n ≠ .c o.carry → (u.group k g).peek n l = x.peek n l

end Sys2Proof

/-- R286 to R292, R296: a chain's chunks and the moves of its carry. Readings: logs 11, 37, 99. -/
def Obligations.ChainChunks : Prop :=
  Claims.ChainChunk ∧ Claims.CarryMoves

namespace Sys2Proof

/-! ### Ferry -/

/-- A record of the slip table, or of the landing table, of a core. -/
def slipAt (s : State) (core sid : Nat) : Option Slip := tfind (s.core core).slips sid
def entryAt (s : State) (core e : Nat) : Option Landing := tfind (s.core core).landing e

/-- Only one record of the issuing core's slip table changes. -/
def SlipChange (s t : State) (sid : Nat) (x : Slip) : Prop :=
  slipAt t s.ct.core sid = some x ∧ (∀ k, k ≠ sid → slipAt t s.ct.core k = slipAt s s.ct.core k) ∧
    { t.core s.ct.core with slips := (s.core s.ct.core).slips } = s.core s.ct.core ∧
    ∀ k, k ≠ s.ct.core → t.core k = s.core k

/-- R217, R224: `slip` opens a record of the team: its base, row length and slots, all free, where the
slots fit team memory at a 16-byte boundary and no slip of another team, open slip or slip with a row
in flight stands there; `slipcl` closes the team's record. -/
def Claims.SlipRecords : Prop :=
  (∀ (sid : BitVec 4) (cap1 rb1 a : BitVec 6) (m : Mods) (s : State),
    let i : Instr := .slip sid cap1 rb1 a m
    let p := s.cg.rs a
    let cap := cap1.toNat + 1
    let len := 16 * (rb1.toNat + 1)
    CanIssue i s → s.active i ≠ 0 → (s.place s.ct s.cg .tm p.toNat 1).isSome = true → p.toNat % 16 = 0 →
    p.toNat % 2 ^ 21 + cap * len ≤ s.ct.tmSize →
    (∀ x, slipAt s s.ct.core sid.toNat = some x → x.team = s.curTeam ∧ x.closed = true ∧
      ∀ y ∈ x.slots, y = .free) →
    ∃ t, exec i s = .next t ∧ CoreFrame i id s t ∧ t.net = s.net ∧ pendingIds t = pendingIds s ∧
      SlipChange s t sid.toNat
        { closed := false, team := s.curTeam, base := p, rowLen := len, slots := List.replicate cap .free, queue := [] }) ∧
  (∀ (o : OpSA) (s : State) (x : Slip),
    let i : Instr := .slipcl o
    let sid := (s.cg.rs o.a).toNat
    CanIssue i s → s.active i ≠ 0 → sid ≤ 15 → slipAt s s.ct.core sid = some x → x.team = s.curTeam →
    ∃ t, exec i s = .next t ∧ CoreFrame i id s t ∧ t.net = s.net ∧ pendingIds t = pendingIds s ∧
      SlipChange s t sid { x with closed := true })

/-- A slot passes steps 3 and 4 of R142 with the pointer tag of its record (R225). -/
def SlotPasses (s : State) (low : Nat) (x : Slip) (n : Nat) : Prop :=
  let p := x.base.toNat + n * x.rowLen
  s.tagsMatch (ptrTag p) { team := x.team, addr := x.base.toNat % 2 ^ 21 + n * x.rowLen } x.rowLen = true ∧
    s.watchHit s.ct s.cg low .tm true false p x.rowLen = none

/-- R217, R225: `take` binds the number of the slot that arrived first and marks it taken, or 0xFFFFFFFF
when none has arrived; `land` sends the row of a taken slot back to its landing entry and frees the
slot. Both act on the team's own slip, and on slots whose granules carry the slip's tag and which no watchpoint
hits (R142 steps 3 and 4); that these checks are those of the lowest active lane (log 18), and for `take` those of a
read (log 33), is the model's reading. -/
def Claims.SlipRows : Prop :=
  (∀ (d : BitVec 6) (sid : BitVec 4) (m : Mods) (s : State) (x : Slip),
    let i : Instr := .take d sid m
    let low := (lanesOf (s.active i)).headD 0
    CanIssue i s → s.accessHeld s.curTeam s.curGroup (s.active i) = false → s.active i ≠ 0 →
    slipAt s s.ct.core sid.toNat = some x → x.team = s.curTeam →
    (x.queue = [] → ∃ t, exec i s = .next t ∧ WordFrame i id s t ∧ pendingIds t = pendingIds s ++ [s.fresh] ∧
      Awaits t s.fresh (.s d.toNat) 0 0xFFFFFFFF) ∧
    (∀ n rest r, x.queue = n :: rest → x.slots[n]? = some (.arrived r) →
      SlotPasses s low x n →
      ∃ t, exec i s = .next t ∧ CoreFrame i id s t ∧ t.net = s.net ∧
        pendingIds t = pendingIds s ++ [s.fresh] ∧ Awaits t s.fresh (.s d.toNat) 0 (BitVec.ofNat 32 n) ∧
        SlipChange s t sid.toNat { x with slots := x.slots.set n (.taken r), queue := rest })) ∧
  (∀ (sid : BitVec 4) (a : BitVec 6) (m : Mods) (s : State) (x : Slip) (r : RetAddr),
    let i : Instr := .land sid a m
    let n := (s.cg.rs a).toNat
    let low := (lanesOf (s.active i)).headD 0
    let place : TmLoc := { team := x.team, addr := x.base.toNat % 2 ^ 21 + n * x.rowLen }
    let s0 := s.drainAt i
    CanIssue i s → s.accessHeld s.curTeam s.curGroup (s.active i) = false → s.active i ≠ 0 →
    slipAt s s.ct.core sid.toNat = some x → x.team = s.curTeam → x.slots[n]? = some (.taken r) →
    SlotPasses s0 low x n → s0.engineReads s.ct.core place x.rowLen s0.fresh = true → s.eccTm = [] → s.poisonTm = [] →
    ∃ t, exec i s = .next t ∧ Sends s t (drainOps s i) ∧ pendingIds t = pendingIds s ∧
      CoreFrame i (fun g => { g with queue := queueAfter s i }) s { t with lands := s.lands } ∧
      t.lands = s.lands ++
        [{ ret := r, team := s.curTeam, group := s.curGroup, bytes := s0.tmBytes place x.rowLen }] ∧
      SlipChange s t sid.toNat { x with slots := x.slots.set n .free })

end Sys2Proof

/-- R217, R224 to R226: slip records and their rows. That checks made once are made for the lowest active lane is the
model's reading (log 18), and so are the points of log 33. -/
def Obligations.Slips : Prop :=
  Claims.SlipRecords ∧ Claims.SlipRows

/-- R226: `ltstat` binds the status of the slot in b of the landing entry in a, or 0xFFFFFFFF where there
is no such entry or slot; `ltfree` frees the team's completed entry. -/
def Obligations.LandingTable : Prop :=
  (∀ (o : OpDAB) (s : State),
    let i : Instr := .ltstat o
    let e (l : Nat) : Nat := (s.cg.rg o.a l).toNat
    let q (l : Nat) : Nat := (s.cg.rg o.b l).toNat
    CanIssue i s →
    (∀ l, (s.active i).getLsbD l = true → e l ≤ 15 ∧
      ∀ x, entryAt s s.ct.core (e l) = some x → q l < x.par.rows * x.par.k → x.team = s.curTeam) →
    ∃ t, exec i s = .next t ∧ WordFrame i id s t ∧ pendingIds t = pendingIds s ++ [s.fresh] ∧
      ∀ l, (s.active i).getLsbD l = true → Awaits t s.fresh (.g o.d.toNat) l
        (match entryAt s s.ct.core (e l) with
         | none => 0xFFFFFFFF
         | some x => if q l < x.par.rows * x.par.k then BitVec.ofNat 32 (x.status.getD (q l) 0) else 0xFFFFFFFF)) ∧
  (∀ (o : OpA) (s : State),
    let i : Instr := .ltfree o
    let e (l : Nat) : Nat := (s.cg.rg o.a l).toNat
    CanIssue i s →
    (∀ l, (s.active i).getLsbD l = true → e l ≤ 15 ∧
      ∀ x, entryAt s s.ct.core (e l) = some x → x.team = s.curTeam ∧ x.complete = true) →
    ∃ t, exec i s = .next t ∧ CoreFrame i id s t ∧ t.net = s.net ∧ pendingIds t = pendingIds s ∧
      (∀ l, (s.active i).getLsbD l = true → entryAt t s.ct.core (e l) = none) ∧
      ∀ k, (∀ l, (s.active i).getLsbD l = true → e l ≠ k) → entryAt t s.ct.core k = entryAt s s.ct.core k)

namespace Sys2Proof

/-- A valid route: bit 31 set, the reserved bits 0, a core that exists; it gives the slip number and the
core (R215). -/
def routeTo (w : Nat) : Option (Nat × Nat) :=
  if w / 2 ^ 31 % 2 = 1 ∧ w / 2 ^ 16 % 2 ^ 15 = 0 ∧ w / 2 ^ 11 % 2 = 0 ∧ w % 128 ≤ 95 then
    some (w / 2 ^ 12 % 16, w % 2 ^ 11)
  else none

end Sys2Proof

/-- R216, R219, R220: `ferry` in one active lane, with a parameter block that passes its checks and a
valid route for every slot, opens the landing entry: its generation is one more than the last, its
parameters are the block's, every slot is SENT with its weight, the lines of the output tile are absent;
and one row for each slot is on its way, in slot order, to the slip that the routing entry's expert names,
from row slot / k of the source tile. Readings: log 31. -/
def Obligations.Ferries : Prop :=
  ∀ (o : OpA) (s : State) (l : Nat),
    let i : Instr := .ferry o
    let s0 := s.drainAt i
    let block := (s.cg.rg o.a l).toNat
    let at_ (p : Nat) : TmLoc := { team := s.curTeam, addr := p % 2 ^ 21 }
    let bs := s0.tmBytes (at_ block) 32
    let e := field bs 23 1
    let rows := field bs 16 2
    let len := field bs 18 2
    let k := field bs 21 1
    let routing (q : Nat) : Nat :=
      leNat (s0.tmBytes { at_ (field bs 8 4) with addr := field bs 8 4 % 2 ^ 21 + 8 * q } 8)
    let expert (q : Nat) : Nat := routing q % 2 ^ 32
    let target (q : Nat) : Option (Nat × Nat) :=
      if 63 < expert q then none
      else routeTo (leNat (s0.tmBytes
        { at_ (field bs 12 4) with addr := field bs 12 4 % 2 ^ 21 + 4 * expert q } 4))
    let gen : BitVec 16 := tget 0 (s.core s.ct.core).landGens e + 1
    CanIssue i s → s.accessHeld s.curTeam s.curGroup (s.active i) = false →
    lanesOf (s.active i) = [l] → s.cg.accepted = 0 → 1 ≤ rows →
    s0.ferryBlock l (BitVec.ofNat 32 block) = .ok () →
    s0.ferryChecks l block (parseFerry bs) = .ok () →
    s0.engineReads s.ct.core (at_ block) 32 s0.fresh = true →
    s0.engineReads s.ct.core (at_ (field bs 8 4)) (rows * k * 8) s0.fresh = true →
    s0.engineReads s.ct.core (at_ (field bs 12 4)) 256 s0.fresh = true → s.eccTm = [] → s.poisonTm = [] →
    (∀ q, q < rows * k → (target q).isSome = true) →
    ∃ t x, exec i s = .next t ∧ Sends s t (drainOps s i) ∧ pendingIds t = pendingIds s ∧ BytesKept s t ∧
      entryAt t s.ct.core e = some x ∧ x.complete = false ∧ x.team = s.curTeam ∧ x.group = s.curGroup ∧
      x.lane = l ∧ x.pc = s.cl.here ∧ x.gen = gen ∧ x.landed = [] ∧
      x.par.src.toNat = field bs 0 4 ∧ x.par.out.toNat = field bs 4 4 ∧ x.par.routing.toNat = field bs 8 4 ∧
      x.par.routes.toNat = field bs 12 4 ∧ x.par.rows = rows ∧ x.par.rowLen = len ∧ x.par.k = k ∧
      (x.par.bf16 = true ↔ field bs 20 1 = 1) ∧ (x.par.pass = true ↔ field bs 22 1 = 1) ∧
      x.par.timeout = field bs 24 4 ∧ x.par.cw.toNat = field bs 28 4 ∧
      x.timer = (if field bs 24 4 = 0 then none else some (field bs 24 4)) ∧
      x.status = List.replicate (rows * k) 0 ∧
      (∀ q, q < rows * k → x.weights.getD q 0 = BitVec.ofNat 32 (routing q / 2 ^ 32)) ∧
      (∀ r, r < rows → t.present { team := s.curTeam, addr := field bs 4 4 % 2 ^ 21 + r * len } len = false) ∧
      ∃ sent, t.rowsInFlight = s.rowsInFlight ++ sent ∧ sent.length = rows * k ∧
        ∀ q r, sent[q]? = some r → target q = some (r.sid, r.core) ∧
          r.ret = { core := s.ct.core, entry := e, gen := gen, slot := q, serial := s.ct.serial } ∧
          r.src = { team := s.curTeam, addr := field bs 0 4 % 2 ^ 21 + q / k * len } ∧ r.len = len ∧
          r.bytes = none ∧ r.ferry = x.id

/-- R218: a row that meets its slip is admitted where the slip is open and serves the row's team, the row
length is the slip's, a slot is free, and the slot's granules carry the slip's tag: it takes the lowest
free slot, the slot joins the queue of arrived ones, its lines are absent until its bytes are written, and
the sender is answered that it is sent; otherwise the sender is answered with a refusal: CLOSED 3, INVALID
4, FULL 2. Readings: log 31. -/
def Obligations.RowArrivals : Prop :=
  ∀ (s : State) (n : Nat) (r : FerryRow),
    let bs := r.bytes.getD (s.tmBytes r.src r.len)
    let go := exec (.ferryRowArrival n) s
    let refused (st : Nat) : Prop := ∃ u, go = .next u ∧ u.rowsInFlight = s.rowsInFlight.eraseIdx n ∧
      u.answers = s.answers ++ [{ ret := r.ret, status := st }] ∧ u.cores = s.cores ∧ u.rowWrites = s.rowWrites
    s.rowsInFlight[n]? = some r →
    (r.bytes.isSome = true ∨ s.engineReads r.ret.core r.src r.len r.ferry = true) → s.eccTm = [] → s.poisonTm = [] →
    (∀ q ∈ s.rowsInFlight.take n, q.sameStream r = false) →
    (slipAt s r.core r.sid = none → refused 3) ∧
    (∀ x t, slipAt s r.core r.sid = some x → s.team? x.team = some t →
      let serves : Prop := t.key = r.team ∨ (t.peloton = true ∧ t.ctx = r.ctx ∧ r.grid = some t.grid)
      ((x.closed = true ∨ t.stop ≠ .none) → refused 3) ∧
      (x.closed = false → t.stop = .none → ¬ (serves ∧ r.len = x.rowLen) → refused 4) ∧
      (x.closed = false → t.stop = .none → serves → r.len = x.rowLen → (∀ y ∈ x.slots, y ≠ .free) → refused 2) ∧
      (∀ k, x.closed = false → t.stop = .none → serves → r.len = x.rowLen →
        x.slots[k]? = some .free → (∀ j, j < k → x.slots[j]? ≠ some .free) →
        let place : TmLoc := { team := x.team, addr := x.base.toNat % 2 ^ 21 + k * x.rowLen }
        (s.tagsMatch (ptrTag x.base.toNat) place x.rowLen = false → refused 4) ∧
        (s.tagsMatch (ptrTag x.base.toNat) place x.rowLen = true → 0 < x.rowLen →
          ∃ u, go = .next u ∧ u.rowsInFlight = s.rowsInFlight.eraseIdx n ∧
            u.answers = s.answers ++ [{ ret := r.ret, status := 0 }] ∧
            u.rowWrites = s.rowWrites ++
              [{ id := s.fresh, ferry := r.ferry, core := r.ret.core, team := r.team, group := r.record.group,
                 sid := r.sid, loc := place, bytes := bs }] ∧
            slipAt u r.core r.sid = some { x with slots := x.slots.set k (.arrived r.ret), queue := x.queue ++ [k] } ∧
            (place.addr < round4k t.tmSize → u.present place x.rowLen = false))))

namespace Sys2Proof

/-- The OPEN landing entry that a return address names (R217, R228). -/
def OpenAt (s : State) (r : RetAddr) (x : Landing) : Prop :=
  entryAt s r.core r.entry = some x ∧ x.complete = false ∧ x.gen = r.gen

/-- R218, R221, R227, R228: what happens to a SENT slot. A refusal that returns gives it its status; a
landed row gives it LANDED with the row's bytes, and counts as late where the slot is final or the entry
gone; an expired timer gives every SENT slot TIMEOUT. A final slot keeps its status. -/
def Claims.SlotEnds : Prop :=
  (∀ (s : State) (n : Nat) (a : Answer) (x : Landing),
    s.answers[n]? = some a → OpenAt s a.ret x → Alive s x.team → a.ret.slot < x.status.length →
    ∃ u y, exec (.slipAnswer n) s = .next u ∧ u.answers = s.answers.eraseIdx n ∧
      entryAt u a.ret.core a.ret.entry = some y ∧ y.landed = x.landed ∧
      y.status = if x.status.getD a.ret.slot 0 = 0 ∧ a.status ≠ 0 then x.status.set a.ret.slot a.status
        else x.status) ∧
  (∀ (s : State) (n : Nat) (m : LandMsg) (x : Landing),
    s.lands[n]? = some m → OpenAt s m.ret x → Alive s x.team → Alive s m.team →
    m.ret.slot < x.status.length → x.status.getD m.ret.slot 0 = 0 →
    ∃ u y, exec (.landDelivery n) s = .next u ∧ u.lands = s.lands.eraseIdx n ∧
      entryAt u m.ret.core m.ret.entry = some y ∧ y.landed = x.landed ++ [(m.ret.slot, m.bytes)] ∧
      y.status = x.status.set m.ret.slot 1) ∧
  (∀ (s : State) (n : Nat) (m : LandMsg),
    s.lands[n]? = some m → Alive s m.team →
    (∀ x, OpenAt s m.ret x → x.status.getD m.ret.slot 0 ≠ 0) →
    ∃ u, exec (.landDelivery n) s = .next u ∧ u.lands = s.lands.eraseIdx n ∧ u.cores = s.cores ∧
      ∀ k t, s.team? k = some t → (∀ t' ∈ s.teams, t'.key = k → t' = t) →
        (u.team k).ferrylate.toNat = if t.core = m.ret.core ∧ t.serial = m.ret.serial
          then min (t.ferrylate.toNat + 1) 0xFFFFFFFF else t.ferrylate.toNat) ∧
  (∀ (s : State) (core e : Nat) (x : Landing),
    entryAt s core e = some x → x.complete = false → x.timer = some 0 → Alive s x.team →
    ∃ u y, exec (.landingTimeout core e) s = .next u ∧ entryAt u core e = some y ∧
      y.status = x.status.map (fun q => if q = 0 then 5 else q) ∧ y.landed = x.landed)

/-- R222, R223, R175: an output row of an entry, all of whose slots are final, is written: each element, of FP32 or
BF16, is the sum, slot 0 first, of the slots' elements times their weights in FP32, rounded at each step, and a BF16
element is rounded once more at the end; a slot that did not land gives the source row's element under PASS and no
term otherwise. No other row changes. The last row to be written completes the entry, and its completion word rises
by 1; before that the entry stays open and the word as it is. (Stated for a row whose ranges do not meet, where
nothing of the core is on its way at the last row, and memory without uncorrectable or poisoned words.) -/
def Claims.RowReassembly : Prop :=
  ∀ (s : State) (core e n i : Nat) (x : Landing),
    let t := s.team x.team
    let len := x.par.rowLen
    let k := x.par.k
    let out := x.par.out.toNat % 2 ^ 21 + i * len
    let src := x.par.src.toNat % 2 ^ 21 + i * len
    let cw := x.par.cw.toNat % 2 ^ 21
    let b := if x.par.bf16 then 2 else 4
    let wide (v : Nat) : Nat := if x.par.bf16 then v * 65536 else v
    let term (q j : Nat) : Option Nat :=
      if x.status.getD q 0 = 1 then
        some (wide (field (((x.landed.find? fun r => r.1 == q).map (·.2)).getD []) (b * j) b))
      else if x.par.pass then some (wide (t.tm.readLe (src + b * j) b)) else none
    let w (q : Nat) : Nat := (x.weights.getD q 0).toNat
    let first (j : Nat) : Nat :=
      match term (i * k) j with | some v => (fpMul .f32 .rne (w (i * k)) v).1 | none => 0
    let sum (j : Nat) : Nat :=
      if k = 1 then first j
      else match term (i * k + 1) j with
        | some v => (fpFma .f32 .rne (w (i * k + 1)) v (first j)).1
        | none => first j
    let el (j : Nat) : Nat := if x.par.bf16 then (fpCvt (.fp .bf16) (.fp .f32) .rne false (sum j)).1 else sum j
    let last : Prop := ∀ j, j < x.par.rows → j ≠ i → x.written.getD j true = true
    entryAt s core e = some x → x.complete = false → i < x.par.rows → (k = 1 ∨ k = 2) → len % b = 0 →
    x.status.length = x.par.rows * k → x.written.length = x.par.rows → x.written.getD i true = false →
    (∀ j, j < x.par.rows → j ≠ i →
      x.written.getD j true = true ∨ ∃ q, j * k ≤ q ∧ q < j * k + k ∧ x.status.getD q 0 = 0) →
    s.rowReady core x i = true → Alive s x.team → out + len ≤ t.tmSize → src + len ≤ t.tmSize → cw + 8 ≤ t.tmSize →
    (cw + 8 ≤ out ∨ out + len ≤ cw) → cw % 8 = 0 → s.eccTm = [] → s.poisonTm = [] →
    (last → (∀ q ∈ x.status, q ≠ 0) ∧ Released s x.team x.group x.id ∧
      WordFree s t.core { team := x.team, addr := cw } ∧ ∀ p ∈ s.net, p.core ≠ t.core) →
    (s.cores.flatMap fun c => c.2.landing.map fun y => (c.1, y.1))[n]? = some (core, e) →
    ∃ u y, exec (.homePerform (s.net.length + s.copies.length + s.rowWrites.length + n) 0) s = .next u ∧
      entryAt u core e = some y ∧ y.written = x.written.set i true ∧ y.status = x.status ∧
      (y.complete = true ↔ last) ∧
      (∀ j, j < len / b → (u.team x.team).tm.readLe (out + b * j) b = el j % 256 ^ b) ∧
      (last → (u.team x.team).tm.readLe cw 8 = (t.tm.readLe cw 8 + 1) % 2 ^ 64) ∧
      u.hbm = s.hbm ∧ ∀ a, (a < out ∨ out + len ≤ a) → (last → a < cw ∨ cw + 8 ≤ a) →
        (u.team x.team).tm.read a = t.tm.read a

end Sys2Proof

/-- R218, R222, R223, R225, R227, R228: the slots of a landing entry end, and its rows are written. Readings: log 32. -/
def Obligations.FerrySlots : Prop :=
  Claims.SlotEnds ∧ Claims.RowReassembly

namespace Sys2Proof

/-! ### System registers -/

/-- The bits of a written value that a system register takes; the others keep what they read (R5, R27,
R33, R102, R105, R122, R150, R157, R165, R177, R228, R233, R290, R298, R302, R329, R334, R341). -/
def written (r : SysReg) (old v : Word) : Option Word :=
  match r with
  | .capsel => some (v &&& 0xFFFC)
  | .cadence => some (v &&& 0xFFFF)
  | .fpflags => some (v &&& 0x1F1F)
  | .qovf => some (if v.getLsbD 0 then 0 else old)
  | .rngseedlo | .rngseedhi | .ferrylate | .tracepos => some v
  | .chprog => some 0
  | .tagctl => some (v &&& 1)
  | .tvec => some (v &&& 0xFFFFFFFD)
  | .tdeleg | .tracectl => some (v &&& 0x3F)
  | .memmode => some ((v &&& 4) ||| (if v.toNat % 4 ≤ 1 then v &&& 3 else old &&& 3))
  | .replaybuflo | .ptbaselo | .ctxbuflo | .ctxaltlo | .tracebuflo => some (v &&& 0xFFFF0000)
  | .replaybufhi | .ctxbufhi | .ctxalthi | .tracebufhi => some v
  | .ptbasehi => some (v &&& 0xFFFFF)
  | .accowner => some (v &&& 0x8000FFFF)
  | .hangwd => some ((v &&& 0xFFFF) ||| (if v.getLsbD 31 then 0 else old &&& 0x80000000))
  | _ => none

/-- Registers whose `swrite` is privileged, and whose `sread` is (R340). -/
def privWrite : List SysReg :=
  [.chprog, .tagctl, .tdeleg, .memmode, .replaybuflo, .replaybufhi, .ptbaselo, .ptbasehi, .accowner, .ctxbuflo,
   .ctxbufhi, .ctxaltlo, .ctxalthi, .hangwd, .tracectl, .tracebuflo, .tracebufhi, .tracepos]
def privRead : List SysReg :=
  [.svtab, .replaybuflo, .replaybufhi, .ptbaselo, .ptbasehi, .vfsegbase, .vfsegsize, .accowner, .ctxbuflo,
   .ctxbufhi, .ctxaltlo, .ctxalthi, .hangwd, .tracectl, .tracebuflo, .tracebufhi, .tracepos]

/-- The word of a 64-bit register that its two numbers read. -/
def word64 (v : DWord) (hi : Bool) : Word := BitVec.ofNat 32 (if hi then v.toNat / 2 ^ 32 else v.toNat)

/-- What `sread` gives of a group, its team, its core and its context (R340, R341). -/
def sysReads (s : State) (l : Nat) : List (SysReg × Word) :=
  let g := s.cg
  let t := s.ct
  let f := s.func (t.ctx - 1)
  let n (x : Nat) : Word := BitVec.ofNat 32 x
  [(.lanenum, n l), (.grpid, n g.index), (.role, n g.role), (.teamgrps, n t.groups.length), (.teamx, n t.x),
   (.teamy, n t.y), (.teamz, n t.z), (.gridx, n t.gx), (.gridy, n t.gy), (.gridz, n t.gz), (.coreid, n t.core),
   (.grpslot, n (g.slot + 64 * g.gen)), (.ctxnum, n t.ctx), (.exmask, g.exmask),
   (.lsp, n (4 * (g.lane l).lsp.toNat)), (.cadence, n g.limit.toNat), (.fpflags, g.fpflags),
   (.qovf, if g.qovf then 1 else 0), (.rngseedlo, word64 g.rngseed false), (.rngseedhi, word64 g.rngseed true),
   (.accbase, n g.accbase.toNat), (.acclim, n g.acclim.toNat), (.accflags, n g.wflags.toNat),
   (.ferrylate, t.ferrylate), (.tagctl, if t.tmchk then 1 else 0), (.tvec, t.tvec), (.tcode, n g.trapRegs.code),
   (.tinfo, g.trapRegs.info), (.tmaskAct, g.trapRegs.act), (.tmaskFlt, g.trapRegs.flt),
   (.taddrlo, word64 (tget 0 g.trapRegs.addr l) false), (.taddrhi, word64 (tget 0 g.trapRegs.addr l) true),
   (.tinstr, g.trapRegs.instr), (.tpc, g.trapRegs.pc), (.tdeleg, f.tdeleg), (.svtab, f.svtab),
   (.memmode, f.memmode), (.replaybuflo, word64 f.replaybuf false), (.replaybufhi, word64 f.replaybuf true),
   (.ptbaselo, word64 f.ptbase false), (.ptbasehi, word64 f.ptbase true), (.vfsegbase, f.segbase),
   (.vfsegsize, f.segsize), (.accowner, (s.core t.core).accowner), (.ctxbuflo, word64 f.ctxbuf false),
   (.ctxbufhi, word64 f.ctxbuf true), (.ctxaltlo, word64 f.ctxalt false), (.ctxalthi, word64 f.ctxalt true),
   (.hangwd, f.hangwd), (.tracectl, f.tracectl), (.tracebuflo, word64 f.tracebuf false),
   (.tracebufhi, word64 f.tracebuf true), (.tracepos, f.tracepos), (.codebaselo, word64 f.codebase false),
   (.codebasehi, word64 f.codebase true)]

/-- R338 to R343: `sread` completes where its register may be read: each active lane's g register awaits
its lane's value, or one s or k register the register's; the lowest active lane stands for the group.
With no lane active it does nothing. The values are those of the state when it issues. -/
def Claims.SystemReads : Prop :=
  (∀ (rd : RegOp) (r : SysReg) (m : Mods) (s : State),
    let i : Instr := .sread rd r m
    CanIssue i s → (r ∈ privRead → s.privileged = true) → (∀ n, rd = .k n → s.cg.frames ≠ []) →
    ∃ t, exec i s = .next t ∧ WordFrame i id s t ∧
      pendingIds t = pendingIds s ++ (if s.active i = 0 then [] else [s.fresh]) ∧
      (s.active i ≠ 0 →
        (∀ n, rd = .g n → ∀ l, (s.active i).getLsbD l = true → Awaits t s.fresh (.g n.toNat) l (s.sysGet r l)) ∧
        (∀ n, rd = .s n → Awaits t s.fresh (.s n.toNat) 0 (s.sysGet r ((lanesOf (s.active i)).headD 0))) ∧
        (∀ n, rd = .k n → Awaits t s.fresh (.k n.toNat) 0 (s.sysGet r ((lanesOf (s.active i)).headD 0))))) ∧
  (∀ (s : State) (l : Nat), ∀ x ∈ sysReads s l, s.sysGet x.1 l = x.2) ∧
  (∀ (s : State) (l : Nat), s.sysGet .capsel l = BitVec.ofNat 32 (4 * s.cg.capsel.toNat) ∧
    s.sysGet .capptr l = s.bar0Read (s.ct.ctx - 1) (4 * s.cg.capsel.toNat) ∧
    s.sysGet .lanepc l = match s.cg.frames with
      | [] => s.cl.here
      | f :: _ => (f.lanes.getD l (Lane.placed 0 0)).pc)

/-- The registers of a context that `swrite` writes, cleared. -/
def unwritten (f : Func) : Func :=
  { f with tdeleg := 0, memmode := 0, replaybuf := 0, ptbase := 0, ctxbuf := 0, ctxalt := 0, hangwd := 0,
           tracectl := 0, tracebuf := 0, tracepos := 0 }

/-- The state with the registers that `swrite` reaches outside the group as they stood. -/
def putBack (s t : State) : State :=
  ({ t with funcs := s.funcs, cores := s.cores } : State).modCt fun x =>
    { x with ferrylate := s.ct.ferrylate, tmchk := s.ct.tmchk, tvec := s.ct.tvec }

/-- A group with the system registers that `swrite` reaches taken from another. -/
def takeRegs (x g : Group) : Group :=
  { g with
    capsel := x.capsel, limit := x.limit, fpflags := x.fpflags, qovf := x.qovf, rngseed := x.rngseed
    chprog := x.chprog }

/-- R340 to R343: `swrite` completes where its register may be written: the register takes the bits of the
value that it holds, and no other system register changes but `%capptr`, which follows `%capsel`. A
lane's `%lsp` or, in a handler, its `%lanepc` takes the value of the lane's g register. -/
def Claims.SystemWrites : Prop :=
  (∀ (ra : RegOp) (r : SysReg) (m : Mods) (v w : Word) (s : State),
    let i : Instr := .swrite ra r m
    CanIssue i s → written r (s.sysGet r 0) v = some w →
    ((∃ n, ra = .s n ∧ v = s.cg.rs n) ∨ (∃ n, ra = .k n ∧ v = s.cg.read (.k n.toNat) 0 ∧ s.cg.frames ≠ [])) →
    (r ∈ privWrite → s.privileged = true) → (r = .chprog → v = 0) →
    ∃ t, exec i s = .next t ∧ pendingIds t = pendingIds s ∧
      WordFrame i (takeRegs t.cg) s (putBack s t) ∧
      t.sysGet r 0 = (if s.active i = 0 then s.sysGet r 0 else w) ∧
      (∀ r' l, r' ≠ r → r' ≠ .capptr → r' ≠ .lanepc → t.sysGet r' l = s.sysGet r' l) ∧
      (∀ fn, fn ≠ s.ct.ctx - 1 → t.func fn = s.func fn) ∧
      unwritten (t.func (s.ct.ctx - 1)) = unwritten (s.func (s.ct.ctx - 1)) ∧
      ∀ k, { t.core k with accowner := 0 } = { s.core k with accowner := 0 } ∧
        (k ≠ s.ct.core → t.core k = s.core k)) ∧
  (∀ (n : BitVec 7) (m : Mods) (s : State),
    let i : Instr := .swrite (.g n) .lsp m
    CanIssue i s →
    ∃ t, exec i s = .next t ∧ OwnFrame i id s t ∧ pendingIds t = pendingIds s ∧
      ∀ l, l < 32 → (t.cg.lane l).st = (s.cg.lane l).st ∧
        (t.cg.lane l).lsp.toNat = (if (s.active i).getLsbD l then (s.cg.rg n l).toNat % 32768 / 4
          else (s.cg.lane l).lsp.toNat) ∧
        (isControlFlow s.cl.op = false → (t.cg.lane l).pc =
          if s.cl.issue.getLsbD l then nextPc s.cl else (s.cg.lane l).pc)) ∧
  (∀ (n : BitVec 7) (m : Mods) (s : State) (f : Frame) (rest : List Frame),
    let i : Instr := .swrite (.g n) .lanepc m
    CanIssue i s → s.cg.frames = f :: rest → f.lanes.length = 32 →
    ∃ t h, exec i s = .next t ∧ WordFrame i (fun g => { g with frames := h :: rest }) s t ∧
      pendingIds t = pendingIds s ∧ { h with lanes := f.lanes } = f ∧ h.lanes.length = 32 ∧
      ∀ l, l < 32 →
        { h.lanes.getD l (Lane.placed 0 0) with pc := 0 } = { f.lanes.getD l (Lane.placed 0 0) with pc := 0 } ∧
        (h.lanes.getD l (Lane.placed 0 0)).pc = if (s.active i).getLsbD l then s.cg.rg n l &&& 0xFFFFFFFC
          else (f.lanes.getD l (Lane.placed 0 0)).pc)

end Sys2Proof

/-- R338 to R343: `sread` and `swrite`. That `sread %lanepc` outside a handler gives the offset of its own word is the
model's reading (log 13), and so are the checks of log 40. -/
def Obligations.SystemRegisters : Prop :=
  Claims.SystemReads ∧ Claims.SystemWrites

namespace Sys2Proof

/-- Forms that trap PRIVILEGE where they stand (R338, R340, R346 to R351, R354). -/
def privilegedForm (s : State) (i : Instr) : Prop :=
  (s.privileged = false ∧ ((∃ m, i = .haltt m ∨ i = .resumet m ∨ i = .tlbinvAll m) ∨
    (∃ a m, i = .tlbinvPage a m) ∨ (∃ k sp x a b m, i = .watch .ctx k sp x a b m) ∨
    (∃ x m, i = .unwatch .ctx x m) ∨
    (∃ rd r m, i = .sread rd r m ∧ r ∈ privRead ∧ ∀ n, rd ≠ .k n) ∨
    (∃ ra r m, i = .swrite ra r m ∧ r ∈ privWrite ∧ ∀ n, ra ≠ .k n))) ∨
  (s.cg.frames = [] ∧ ∃ n m, i = .swrite (.g n) .lanepc m) ∨
  (∃ o, i = .ctxsaveAcc o ∨ i = .ctxsavePre o ∨ i = .ctxsaveSlice o ∨ i = .ctxsaveMig o ∨ i = .ctxsaveDump o ∨
    i = .ctxloadAcc o ∨ i = .ctxloadImg o) ∨
  ((s.func (s.ct.ctx - 1)).flags.getLsbD 1 = false ∧
    ((∃ a ax b x m, i = .pilotset a ax b x m) ∧ s.cg.since = none ∨ ∃ d a ax x m, i = .pilotget d a ax x m))

end Sys2Proof

/-- R338, R340, R346 to R351, R354: outside a supervisor handler, a form that needs privilege where there
is none traps PRIVILEGE in every active lane, and has no effect; the k registers, outside any handler,
trap ILLEGAL_OPERAND. It is the model's reading that the trap of a k operand comes before PRIVILEGE (log 40), and that
`pilotset` and `pilotget` trap PRIVILEGE in minimal mode too (log 43). -/
def Obligations.PrivilegeTraps : Prop :=
  (∀ (i : Instr) (s : State), CanIssue i s → s.cg.inSup = false → privilegedForm s i →
    ∃ t, exec i s = .next t ∧ RestKept s t ∧
      (∀ n l, released s i n = false → t.cg.read n l = s.cg.read n l) ∧
      ∀ l, l < 32 → ((s.active i).getLsbD l = true → Trapped s t l 0x04 0) ∧
        ((s.active i).getLsbD l = false → (t.cg.lane l).st = (s.cg.lane l).st)) ∧
  (∀ (i : Instr) (s : State), CanIssue i s → s.cg.frames = [] →
    ((∃ n r m, i = .sread (.k n) r m ∨ i = .swrite (.k n) r m) ∨ ∃ n hi ev m, i = .perfrd (.k n) hi ev m) →
    ∃ t, exec i s = .next t ∧ RestKept s t ∧
      ∀ l, l < 32 → (s.active i).getLsbD l = true → Trapped s t l 0x03 0)

namespace Sys2Proof

/-! ### Watchpoints, samples, counters and Pilot access -/

/-- What `watch` and `unwatch` put at an index of their scope, in a lane (R346, R347). -/
def watchForm : Instr → Option (WScope × BitVec 4 × (Group → Nat → Option Watch))
  | .watch sc k sp x a b _ => some (sc, x, fun g l =>
      some { kind := k, space := sp,
             base := BitVec.ofNat 64 (match sc with | .lane => g.rg64 a l | _ => g.rs64 a),
             len := (match sc with | .lane => g.rg b l | _ => g.rs b).toNat + 1 })
  | .unwatch sc x _ => some (sc, x, fun _ _ => none)
  | _ => none

/-- R346: the range of a watchpoint can be armed. -/
def armable (w : Watch) : Prop :=
  ((w.space = .sk ∨ w.space = .tm) → w.base.toNat < 2 ^ 32) ∧ w.base.toNat + w.len ≤ 2 ^ 64

/-- R346, R347: `watch` arms the watchpoint of its index with the fields its operands give, and `unwatch`
disarms it: in each active lane's own pair for lane scope, once for the team or, in privileged code, the
context; every other watchpoint stands. -/
def Claims.Watchpoints : Prop :=
  ∀ (i : Instr) (sc : WScope) (x : BitVec 4) (f : Group → Nat → Option Watch) (s : State),
    watchForm i = some (sc, x, f) → CanIssue i s →
    (sc = .lane → x.toNat ≤ 1) → (sc = .ctx → s.privileged = true) →
    (∀ l w, (s.active i).getLsbD l = true → f s.cg l = some w → armable w) →
    ∃ t, exec i s = .next t ∧ pendingIds t = pendingIds s ∧
      match sc with
      | .lane => WordFrame i (fun g => { g with watches := t.cg.watches }) s t ∧
          ∀ k, tfind t.cg.watches k =
            if k % 2 = x.toNat ∧ (s.active i).getLsbD (k / 2) = true then f s.cg (k / 2) else tfind s.cg.watches k
      | .team => WordFrame i id s (t.modCt fun y => { y with watches := s.ct.watches }) ∧
          ∀ k, tfind t.ct.watches k = if k = x.toNat ∧ s.active i ≠ 0 then f s.cg 0 else tfind s.ct.watches k
      | .ctx => WordFrame i id s { t with funcs := s.funcs } ∧
          (∀ fn, fn ≠ s.ct.ctx - 1 → t.func fn = s.func fn) ∧
          { t.func (s.ct.ctx - 1) with watches := [] } = { s.func (s.ct.ctx - 1) with watches := [] } ∧
          ∀ k, tfind (t.func (s.ct.ctx - 1)).watches k =
            if k = x.toNat ∧ s.active i ≠ 0 then f s.cg 0 else tfind (s.func (s.ct.ctx - 1)).watches k

/-- The count that `perfrd` reads (R353). -/
def counted (s : State) : PerfEvent → Nat
  | .slots => s.cg.perf.slots
  | .clauses => s.cg.perf.clauses
  | .cadenceTurns => s.cg.perf.cadence
  | .earlyDrains => s.cg.perf.drains
  | .bankReads => s.cg.perf.banks
  | .coreCycles => (s.core s.ct.core).cycles
  | .matrixSteps => (s.core s.ct.core).msteps
  | .chainWork => (s.core s.ct.core).chunks

/-- R352, R330, R353, R354: `sample` arms a sample at a place that passes its checks; `perfrd` binds the
half of a counter for its register; `pilotset` sends a write to the Pilot and waits, and retires once the
write is performed; `pilotget` sends a read, whose word lands later. A word that is not to be written traps
ILLEGAL_OPERAND, and so does an index past the last; in minimal mode a write is discarded. -/
def Claims.SamplesCountersPilot : Prop :=
  (∀ (a : BitVec 6) (off : BitVec 11) (m : Mods) (s : State) (x : TmLoc),
    let i : Instr := .sample a off m
    CanIssue i s →
    s.writeCheck i (BitVec.ofInt 32 ((s.cg.rs a).toNat + off.toInt)).toNat 80 16 = .ok x →
    ∃ t, exec i s = .next t ∧ pendingIds t = pendingIds s ∧
      WordFrame i (fun g => { g with sample := if s.active i = 0 then g.sample else some x.addr }) s t) ∧
  (∀ (d : PerfDst) (hi : Bool) (ev : PerfEvent) (m : Mods) (s : State),
    let i : Instr := .perfrd d hi ev m
    CanIssue i s → (∀ n, d = .k n → s.cg.frames ≠ []) → s.active i ≠ 0 →
    let v := word64 (BitVec.ofNat 64 (counted s ev)) hi
    ∃ t, exec i s = .next t ∧ WordFrame i id s t ∧ pendingIds t = pendingIds s ++ [s.fresh] ∧
      (∀ n, d = .s n → Awaits t s.fresh (.s n.toNat) 0 v) ∧ (∀ n, d = .k n → Awaits t s.fresh (.k n.toNat) 0 v)) ∧
  (∀ (a : BitVec 6) (ax : Bool) (b : BitVec 6) (x : BitVec 14) (m : Mods) (s : State),
    let i : Instr := .pilotset a ax b x m
    let n := (if ax then (s.cg.rs a).toNat else 0) + x.toNat
    CanIssue i s → (s.func (s.ct.ctx - 1)).flags.getLsbD 1 = true →
    (s.cg.since = none → s.active i ≠ 0 → s.boot.minimal = true →
      ∃ t, exec i s = .next t ∧ WordFrame i id s t ∧ pendingIds t = pendingIds s) ∧
    (s.cg.since = none → s.active i ≠ 0 → s.boot.minimal = false → s.cg.inSup = false → pilotRw n = false →
      ∃ t, exec i s = .next t ∧ RestKept s t ∧
        ∀ l, l < 32 → (s.active i).getLsbD l = true → Trapped s t l 0x03 0) ∧
    (s.cg.since = none → s.active i ≠ 0 → s.boot.minimal = false → pilotRw n = true →
      ∃ t, exec i s = .next t ∧
        t.pilotNet = s.pilotNet ++
          [{ team := s.curTeam, group := s.curGroup, index := n, set := some (s.cg.rs b), res := none }] ∧
        RestKept s { t with pilotNet := s.pilotNet } ∧
        t.cg = { s.cg with park := .engine, since := some s.fresh }) ∧
    (s.cg.since.isSome = true →
      (∀ q ∈ s.pilotNet, q.set.isSome = true → q.team = s.curTeam → q.group ≠ s.curGroup) →
      ∃ t, exec i s = .next t ∧ WordFrame i id s t ∧ pendingIds t = pendingIds s)) ∧
  (∀ (d a : BitVec 6) (ax : Bool) (x : BitVec 14) (m : Mods) (s : State),
    let i : Instr := .pilotget d a ax x m
    let n := (if ax then (s.cg.rs a).toNat else 0) + x.toNat
    CanIssue i s → (s.func (s.ct.ctx - 1)).flags.getLsbD 1 = true → s.active i ≠ 0 →
    ((n ≤ 0x3FFF ∨ s.boot.minimal = true) →
      ∃ t, exec i s = .next t ∧ WordFrame i id s { t with pilotNet := s.pilotNet } ∧
        pendingIds t = pendingIds s ++ [s.fresh] ∧
        Expects t s.fresh [.s d.toNat] (fun l => l = 0) (fun l => l = 0) (fun _ => True) ∧
        t.pilotNet = s.pilotNet ++
          [{ team := s.curTeam, group := s.curGroup, index := n, set := none, res := some s.fresh }]) ∧
    (0x3FFF < n → s.boot.minimal = false → s.cg.inSup = false →
      ∃ t, exec i s = .next t ∧ RestKept s t ∧
        ∀ l, l < 32 → (s.active i).getLsbD l = true → Trapped s t l 0x03 0))

end Sys2Proof

/-- R346, R347, R352 to R354: watchpoints, samples, counters and Pilot access. Readings: logs 43, 59. -/
def Obligations.WatchSampleCountPilot : Prop :=
  Claims.Watchpoints ∧ Claims.SamplesCountersPilot

namespace Sys2Proof

/-! ### Stopping a team, sweeping translations, saving and restoring -/

/-- The Chain operations of a team with its `chain` held, or going on (R291, R299); one whose group has begun a word
goes on until that word is over (R274, log 41). -/
def chainsHeld (stop : Bool) (g : Group) : Group :=
  if stop = true ∧ g.midWord = true then g
  else { g with chprog := g.chprog.map fun o => if o.kind = .chain then { o with stopped := stop } else o }

/-- The state with a change of every group of the issuing team. -/
def eachGroup (s : State) (f : Group → Group) : State :=
  s.modCt fun t => { t with groups := t.groups.map f }

/-- Work of the issuing team that a halt waits for (R299): engine operations, ferries, lands, Chain
operations that are not at a stop, lines of its memory that are absent (R145), and in other groups words that have
begun their effect and returned results that have not landed (R267). -/
def unsettled (s : State) : Prop :=
  (∃ o ∈ s.copies, o.team = s.curTeam) ∨ (∃ o ∈ s.mmaxs, o.team = s.curTeam) ∨
    (∃ l ∈ s.lands, l.team = s.curTeam) ∨
    (∃ e ∈ (s.core s.ct.core).landing, e.2.team = s.curTeam ∧ e.2.complete = false) ∨
    (∃ x ∈ s.ct.absent, x.2 ≠ []) ∨
    ∃ x ∈ s.ct.groups,
      (∃ o, x.chprog = some o ∧ (o.kind ≠ .chain ∨ x.midWord = true) ∧ o.stopped = false ∧ o.failed = false) ∨
      x.index ≠ s.curGroup ∧ x.ended = false ∧ (x.midWord = true ∨
        ∃ r ∈ x.pending, r.need = 0 ∧ r.landed = false ∧ ∃ y ∈ r.live, y.2 ≠ 0)

/-- R167, R299, R350: `haltt` drains its group's queue and halts every other group of its team, whose queues
drain too and whose `chain` stops, after a word that has begun; it waits while work of the team remains, and completes once it has
settled. `resumet` lets every halted group of the team issue again, and a stopped `chain` goes on; a trace
record of a resumption goes to the buffer of its context. -/
def Claims.HaltAndResume : Prop :=
  (∀ (m : Mods) (s : State), CanIssue (.haltt m) s → s.privileged = true → s.active (.haltt m) ≠ 0 →
    s.cg.midWord = false →
    ∃ t, exec (.haltt m) s = .next t ∧ t.cg.queue = queueAfter s (.haltt m) ∧
      (∀ g x, g < 32 → g ≠ s.curGroup → t.ct.group? g = some x → x.ended = true ∨ x.halted = true) ∧
      (∀ g x, g < 32 → g ≠ s.curGroup → s.ct.group? g = some x → x.ended = false → x.halted = false →
        ∃ y, t.ct.group? g = some y ∧ y.queue = []) ∧
      ∀ x ∈ t.ct.groups, x.midWord = false → ∀ o, x.chprog = some o → o.kind = .chain → o.stopped = true) ∧
  (∀ (m : Mods) (s : State),
    let i : Instr := .haltt m
    CanIssue i s → s.privileged = true → s.active i ≠ 0 → s.cg.midWord = false →
    (∀ g x, g ≠ s.curGroup → s.ct.group? g = some x → x.ended = true ∨ x.halted = true) →
    (unsettled s → ∃ t, exec i s = .next t ∧ t.cg.park = .engine ∧ t.cg.lanes = s.cg.lanes ∧
      RegsKept i s t ∧ Sends s t (drainOps s i)) ∧
    (¬ unsettled s → ∃ t, exec i s = .next t ∧ pendingIds t = pendingIds s ∧
      AccessFrame i (fun g => { g with queue := queueAfter s i }) (eachGroup s (chainsHeld true)) t ∧
      Sends s t (drainOps s i))) ∧
  (∀ (m : Mods) (s : State),
    let i : Instr := .resumet m
    let on (g : Group) : Group := { chainsHeld false g with halted := g.halted && g.ended }
    CanIssue i s → s.privileged = true → s.active i ≠ 0 →
    ∃ t, exec i s = .next t ∧ pendingIds t = pendingIds s ∧
      WordFrame i id (eachGroup s on) { t with hbm := s.hbm, hbmTags := s.hbmTags, scrub := s.scrub, funcs := s.funcs } ∧
      ((s.func (s.ct.ctx - 1)).tracectl.getLsbD 0 = false → t.hbm = s.hbm ∧ t.funcs = s.funcs))

/-- The translations that a sweep of a context, or of the page or block at an address, removes: from the TLBs
those of the named page or block, and every entry of the walker and every last-page register (R153, R351). -/
structure Swept (s t : State) (ctx : Nat) (va : Option Nat) : Prop where
  tlb : ∀ x, x ∈ t.tlb ↔ x ∈ s.tlb ∧ ¬ (x.ctx = ctx ∧ ∀ a, va = some a →
    x.page = a % 2 ^ 52 / 65536 ∨ x.map.block = true ∧ x.page / 4096 = a % 2 ^ 52 / 2 ^ 28)
  walker : ∀ x, x ∈ t.walks ↔ x ∈ s.walks ∧ x.ctx ≠ ctx
  registers : ∀ u ∈ t.teams, u.ctx = ctx → ∀ g ∈ u.groups, g.lastPages = []
  others : ∀ k x, s.team? k = some x → x.ctx ≠ ctx → t.team? k = some x

/-- Copies, gathers and scatters of a context that were translated before a fresh name was reached (R154). -/
def translatedBefore (s : State) (ctx n : Nat) : Prop :=
  (∃ o ∈ s.copies, o.ctx = ctx ∧ o.xlat < n) ∨
    ∃ u ∈ s.teams, u.ctx = ctx ∧ ∃ g ∈ u.groups, ∃ o, g.heldOp = some o ∧ o.xlat < n

/-- R351, R153, R154, R97: `tlbinv` sweeps at its issue: `.all` every translation of the context, `.page` those
of the page or block that holds the address, either the walker's entries and the last-page registers of the
context. It completes once the copies translated before are complete; then no core that holds a team of the
context keeps cached code. -/
def Claims.TranslationSweep : Prop :=
  ∀ (i : Instr) (m : Mods) (va : Option Nat) (s : State),
    (i = .tlbinvAll m ∧ va = none ∨ ∃ a, i = .tlbinvPage a m ∧ va = some (s.cg.rs64 a)) →
    let ctx := s.ct.ctx
    let uncached (t : State) : Prop := (∀ u ∈ t.teams, u.ctx = ctx → (t.core u.core).icache = []) ∧
      ∀ c, { t.core c with icache := [] } = { s.core c with icache := [] }
    CanIssue i s → s.privileged = true → s.active i ≠ 0 →
    (s.cg.since = none → translatedBefore s ctx s.fresh →
      ∃ t, exec i s = .next t ∧ Swept s t ctx va ∧ t.cores = s.cores ∧ t.hbm = s.hbm ∧ t.net = s.net ∧
        t.cg = { s.cg with lastPages := [], since := some s.fresh, park := .engine }) ∧
    (s.cg.since = none → ¬ translatedBefore s ctx s.fresh →
      ∃ t, exec i s = .next t ∧ Swept s t ctx va ∧ t.hbm = s.hbm ∧ t.net = s.net ∧
        hull t.cg = hull { s.cg with lastPages := [] } ∧ RegsKept i s t ∧ pendingIds t = pendingIds s ∧
        uncached t) ∧
    (∀ n, s.cg.since = some n → ¬ translatedBefore s ctx n →
      ∃ t, exec i s = .next t ∧ WordFrame i id s { t with cores := s.cores } ∧ pendingIds t = pendingIds s ∧
        uncached t)

end Sys2Proof

/-- R299, R350, R351: stopping and resuming a team, and sweeping translations. Readings: logs 41, 42. -/
def Obligations.HaltResumeSweep : Prop :=
  Claims.HaltAndResume ∧ Claims.TranslationSweep

namespace Sys2Proof

/-- The predicate of `ctxsave` and `ctxload` is bound in each active lane. -/
def AnswersWith (t : State) (s : State) (i : Instr) (p : BitVec 6) (ok : Bool) : Prop :=
  p ≠ 0 → ∀ l, (s.active i).getLsbD l = true → Awaits t s.fresh (.p p.toNat) l (if ok then 1 else 0)

/-- Bytes filled into an image in turn, each run at its offset, none of them past `room` or failing translation
(R299). -/
def Fills (ctx va room : Nat) : State → List (Nat × List Byte) → State → Prop
  | s, [], u => u = s
  | s, (off, bs) :: rest, u =>
    (s.vFill ctx (va + off) (room - off) bs).2.2 = none ∧
      Fills ctx va room (s.vFill ctx (va + off) (room - off) bs).1 rest u

/-- The bytes of a unit: element c of row r at 128 * r + 4 * c (R265). -/
def unitImage (c : Core) (u : Nat) : List Byte :=
  (List.range 4096).map fun k => ((tget 0 c.acc (1024 * u + k / 4)) >>> (8 * (k % 4))).setWidth 8

/-- An image has an accumulator section (R317): its table entry, and its offset and planned length. -/
structure HasRows (s : State) (ctx img : Nat) (head table : List Byte) (i off planned : Nat) : Prop where
  header : s.vRead ctx img 64 = some head
  entries : s.vRead ctx (img + 64) (24 * field head 0x12 2) = some table
  inside : i < field head 0x12 2
  type : field table (24 * i) 2 = 3
  first : ∀ j, j < i → field table (24 * j) 2 ≠ 3
  place : off = field table (24 * i + 8) 8
  length : planned = field table (24 * i + 0x14) 4

/-- The rows that an image holds: the bytes of its section, with their checksum (R265). -/
def RowsOf (s : State) (ctx img : Nat) (bs : List Byte) : Prop :=
  ∃ head table i off planned, HasRows s ctx img head table i off planned ∧ bs ≠ [] ∧
    s.vRead ctx (img + off) (field table (24 * i + 4) 4) = some bs ∧
    (crc32c bs).toNat = field table (24 * i + 0x10) 4

/-- The first page of an image whose accumulator section has been filled (R265): the entry takes LENGTH and
CHECKSUM, SIZE rises to the section's end, and the header's checksum is made again. -/
def filledHead (head table bs : List Byte) (i off planned : Nat) : List Byte :=
  let entries := table.take (24 * i + 4) ++ leBytes 4 planned ++ leBytes 8 off ++ leBytes 4 (crc32c bs).toNat ++
    table.drop (24 * i + 0x14)
  let h := head.take 8 ++ leBytes 8 (max (field head 8 8) (off + planned)) ++ (head.drop 16).take 32
  h ++ leBytes 4 (crc32c (h ++ entries)).toNat ++ head.drop 52 ++ entries

/-- R265, R348: `ctxsave.acc` with units held for one departed team writes their rows into the section that
its image reserves and completes the image; none is held after it. Where a byte fails, the units stay held
with their kept bits set, and the predicate is false. With none held it changes nothing. -/
def Claims.HeldUnitsSaved : Prop :=
  ∀ (o : OpCtx) (s : State),
    let i : Instr := .ctxsaveAcc o
    let core := s.ct.core
    let held := (s.core core).held
    CanIssue i s → s.cg.inSup = true → s.active i ≠ 0 →
    (held = [] → ∃ t, exec i s = .next t ∧ WordFrame i id s t ∧ AnswersWith t s i o.p true) ∧
    (∀ u h ctx img serial head table n off planned, held = (u, h) :: held.tail →
      (∀ x ∈ held, x.2.serial = serial ∧ x.2.ctx = ctx ∧ x.2.image = img) →
      HasRows s ctx img head table n off planned → s.imageEntries ctx img = some (head, table) →
      let runs := held.map fun x => (off + 4096 * x.2.place, unitImage (s.core core) x.1)
      (∀ v w bs, Fills ctx img (2 ^ 52) s runs v → v.imageEntries ctx img = some (head, table) →
        v.vRead ctx (img + off) planned = some bs → off + planned < 2 ^ 32 →
        v.vWrite ctx img (filledHead head table bs n off planned) = some w →
        ∃ t, exec i s = .next t ∧ t.hbm = w.hbm ∧ t.net = s.net ∧ AnswersWith t s i o.p true ∧
          (t.core core).held = [] ∧ (t.core core).acc = (s.core core).acc) ∧
      (∀ r, (s.vFill ctx (img + off + 4096 * h.place) 4096 (unitImage (s.core core) u)) = r → r.2.2.isSome = true →
        ∃ t, exec i s = .next t ∧ t.hbm = r.1.hbm ∧ t.net = s.net ∧ AnswersWith t s i o.p false ∧
          (t.core core).held = held.map (fun x => (x.1, { x.2 with kept := true })) ∧
          (t.core core).acc = (s.core core).acc))

/-- R234, R264, R265, R349: `ctxload.acc` on a core with no held units: a team of the context with a restore
mark receives the rows of the marked image, or +0.0 with a false predicate where those cannot be read; one
with a clear mark receives +0.0; every other row stays. The marks are gone, and the context owns the
store. -/
def Claims.RowsLoaded : Prop :=
  ∀ (o : OpCtx) (s : State),
    let i : Instr := .ctxloadAcc o
    let core := s.ct.core
    let mine (u : Team) : Prop := u ∈ s.teams ∧ u.core = core ∧ u.ctx = s.ct.ctx
    let unit (u : Team) (a : Nat) : Prop := 1024 * u.firstUnit ≤ a ∧ a < 1024 * u.firstUnit + 32 * u.rows
    CanIssue i s → s.cg.inSup = true → s.active i ≠ 0 → (s.core core).held = [] →
    (∀ u, mine u → s.team? u.key = some u ∧ u.rows % 32 = 0 ∧
      ∀ v a, mine v → unit u a → unit v a → v.key = u.key) →
    ∀ ok, (ok = true ↔ ∀ u img, mine u → u.restoreMark = some img → ∃ bs, RowsOf s u.ctx img bs) →
    ∃ t, exec i s = .next t ∧ AnswersWith t s i o.p ok ∧ t.hbm = s.hbm ∧ t.net = s.net ∧
      (t.core core).accowner = BitVec.ofNat 32 (2 ^ 31 + s.ct.ctx % 2 ^ 16) ∧
      (∀ u, mine u → (t.team u.key).restoreMark = none ∧ (u.restoreMark = none → (t.team u.key).clearMark = false) ∧
        ∀ w, w < 32 * u.rows →
          let now := tget 0 (t.core core).acc (1024 * u.firstUnit + w)
          (∀ img bs, u.restoreMark = some img → RowsOf s u.ctx img bs → now.toNat = field bs (4 * w) 4) ∧
          (∀ img, u.restoreMark = some img → (∀ bs, ¬ RowsOf s u.ctx img bs) → now = 0) ∧
          (u.restoreMark = none → u.clearMark = true → now = 0)) ∧
      ∀ a, (∀ u, mine u → unit u a → u.restoreMark = none ∧ u.clearMark = false) →
        tget 0 (t.core core).acc a = tget 0 (s.core core).acc a

end Sys2Proof

/-- R234, R264, R265, R348, R349: `ctxsave.acc` and `ctxload.acc`. Readings: log 48. -/
def Obligations.AccumulatorSave : Prop :=
  Claims.HeldUnitsSaved ∧ Claims.RowsLoaded

namespace Sys2Proof

/-- The four forms that save an image: the reason they record and the entry that permits them. -/
def savesImage : Instr → Option (OpCtx × Nat × Option Nat)
  | .ctxsavePre o => some (o, 1, some 0x40)
  | .ctxsaveSlice o => some (o, 2, some 0x41)
  | .ctxsaveMig o => some (o, 3, none)
  | .ctxsaveDump o => some (o, 4, none)
  | _ => none

/-- The offsets of an image's sections: the first at a multiple of 256 past the section table, each other at the
next one (R299, R317). -/
def Placed (l : List Sec) (offs : List Nat) : Prop :=
  let up (n : Nat) : Nat := (n + 255) / 256 * 256
  offs.length = l.length ∧ (∀ o, offs[0]? = some o → o = up (0x40 + 24 * l.length)) ∧
    ∀ k x o p, l[k]? = some x → offs[k]? = some o → offs[k + 1]? = some p → p = up (o + x.planned)

/-- A section-table entry names its section (R317). -/
def EntryOf (entry : List Byte) (x : Sec) (off : Nat) (bs : List Byte) : Prop :=
  entry.length = 24 ∧ field entry 0 2 = x.ty % 65536 ∧ field entry 2 1 = x.flags % 256 ∧
    field entry 3 1 = x.index % 256 ∧ field entry 4 4 = bs.length % 2 ^ 32 ∧ field entry 8 8 = off % 2 ^ 64 ∧
    field entry 0x10 4 = (crc32c bs).toNat ∧ field entry 0x14 4 = x.planned % 2 ^ 32

/-- R299, R316, R317: the bytes that a complete save writes: its sections at their offsets, those that are only
reserved left out; then the first page: the header, whose checksum covers it and the table, and the table. Rows that
a restore mark names are read from the marked image, and those reads count (R371). The bytes between sections are
not written (the model's reading, log 105). -/
def Claims.ImageBytes : Prop :=
  ∀ (s : State) (k reason : Nat),
    let t := s.team k
    let buf := (s.ctxFunc t.ctx).ctxbuf.toNat
    let img := buf / 2 ^ 16 % 2 ^ 36 * 2 ^ 16
    let room := buf / 2 ^ 52 * 65536
    let secs := s.sections t reason
    (s.saveImage k reason).2 = true →
    ∃ offs runs v head table reads,
      Placed secs offs ∧ (t.restoreMark = none → reads = []) ∧ Fills t.ctx img room (s.noteReads t.ctx reads) runs v ∧
      (s.saveImage k reason).1 = (v.vFill t.ctx img room (head ++ table)).1 ∧
      runs = (secs.zip offs).filterMap (fun x => x.1.bytes.map fun bs => (x.2, bs)) ∧
      head.length = 64 ∧ table.length = 24 * secs.length ∧
      (∀ n x off, secs[n]? = some x → offs[n]? = some off →
        EntryOf ((table.drop (24 * n)).take 24) x off (x.bytes.getD [])) ∧
      field head 0 4 = 0x31494348 ∧ field head 4 2 = 1 ∧ field head 6 2 = 0 ∧ field head 0x10 1 = reason % 256 ∧
      field head 0x11 1 = 1 ∧ field head 0x12 2 = secs.length % 65536 ∧ field head 0x14 2 = t.ctx % 65536 ∧
      field head 0x16 2 = t.core % 65536 ∧ field head 0x18 2 = t.x % 65536 ∧ field head 0x1A 2 = t.y % 65536 ∧
      field head 0x1C 2 = t.z % 65536 ∧ field head 0x20 16 = 0 ∧
      field head 0x30 4 = (crc32c (head.take 48 ++ table)).toNat ∧
      field head 8 8 = runs.foldl (fun n x => if x.2 = [] then n else max n (x.1 + x.2.length))
        (0x40 + 24 * secs.length) % 2 ^ 64

/-- The group states of a save, and its ranges of team memory when no live table stands (R317 to R320): one
section for each group that has not ended, of its index; the barriers; the rows; all of team memory after its
16 bytes of prefix. -/
def Claims.SectionsHeld : Prop :=
  (∀ (s : State) (t : Team) (reason : Nat), ((s.sections t reason).map (·.ty)).Pairwise (· ≤ ·)) ∧
  (∀ (s : State) (t : Team) (reason : Nat) (g : Group), reason ≠ 2 → g ∈ t.groups → g.ended = false →
    ∃ x ∈ s.sections t reason, x.ty = 1 ∧ x.index = g.index ∧ x.bytes = some (groupSection t g none) ∧
      x.planned = (groupSection t g none).length) ∧
  (∀ (s : State) (t : Team) (reason : Nat), reason ≠ 2 → t.tmSize ≠ 0 → t.tmSize < 2 ^ 32 → t.groups.any (fun g => !g.ended) = true →
    ∃ x bs, x ∈ s.sections t reason ∧ x.ty = 10 ∧ x.bytes = some bs ∧ bs.length = 16 + t.tmSize ∧
      field bs 0 4 = 0 ∧ field bs 4 4 = t.tmSize ∧ ∀ a, a < t.tmSize → field bs (16 + a) 1 = t.tm.readLe a 1) ∧
  (∀ (s : State) (t : Team) (reason : Nat), t.rows ≠ 0 →
    let reserved : Prop := (reason = 1 ∨ reason = 2) ∧
      (s.core t.core).accowner.getLsbD 31 = true ∧ (s.core t.core).accowner.toNat % 65536 = t.ctx
    ∃ x ∈ s.sections t reason, x.ty = 3 ∧ x.planned = 128 * t.rows ∧ (reserved → x.bytes = none) ∧
      (¬ reserved → ∃ bs, x.bytes = some bs ∧
        (t.restoreMark = none → t.clearMark = true → ∀ b ∈ bs, b = 0) ∧
        (t.restoreMark = none → t.clearMark = false → ∀ w, w < 32 * t.rows →
          field bs (4 * w) 4 = (tget 0 (s.core t.core).acc (1024 * t.firstUnit + w)).toNat) ∧
        ∀ img rows, t.restoreMark = some img → RowsOf s t.ctx img rows → bs = (rows ++ List.replicate (128 * t.rows) 0).take (128 * t.rows)))

/-- The lanes that a section records: the interrupted ones of a group in a supervisor handler (R299, R319). -/
def recordedLanes (g : Group) : List Lane :=
  match g.frames with
  | f :: _ => if f.sup then f.lanes else g.lanes
  | [] => g.lanes

/-- The state byte of a lane (R319). -/
def stateCode : LaneState → Nat
  | .ready => 0 | .rejoin _ => 1 | .barrier _ _ => 2 | .parked _ => 3 | .exited => 4

/-- R318, R319: what a group's section holds, of a group with no result on its way: its length, its lanes, and
every register; with a live table the registers that it does not name are 0. -/
def Claims.GroupSections : Prop :=
  ∀ (t : Team) (g : Group) (live : Option LiveRec),
    let bs := groupSection t g live
    let team : Option Frame := match g.frames with | f :: rest => if f.sup then rest.head? else some f | [] => none
    let keep (mask : LiveRec → Nat) (n : Nat) (w : Word) : Nat :=
      match live with | some r => if (mask r).testBit n then w.toNat else 0 | none => w.toNat
    let spill := 0x1000 + 128 * g.budget
    g.pending = [] → g.lanes.length = 32 → (∀ f ∈ g.frames, f.lanes.length = 32) →
    bs.length = spill + 32 * t.spill + (if team.isSome then 8192 else 0) ∧
    (∀ l, l < 32 →
      let x := (recordedLanes g).getD l (Lane.placed 0 0)
      field bs (4 * l) 4 = x.pc.toNat ∧ field bs (0x80 + 8 * l) 1 = stateCode x.st ∧
      (∀ j, x.st = .rejoin j → field bs (0x81 + 8 * l) 1 = j % 256) ∧
      (∀ b ph, x.st = .barrier b ph → field bs (0x81 + 8 * l) 1 = b % 256 ∧ field bs (0x84 + 8 * l) 4 = ph.toNat) ∧
      (∀ p, x.st = .parked (.trapped p) → field bs (0x82 + 8 * l) 1 = p.code % 256) ∧
      field bs (0x300 + 4 * l) 4 = 4 * (g.lane l).lsp.toNat ∧ field bs (0x380 + 4 * l) 4 = x.age % 2 ^ 32 ∧
      (∀ n, n < 48 → (field bs (0x200 + 8 * l) 8).testBit n = decide (keep LiveRec.p n (g.read (.p n) l) ≠ 0)) ∧
      (∀ n, n < g.budget → field bs (0x1000 + 128 * n + 4 * l) 4 = keep LiveRec.g n (g.read (.g n) l)) ∧
      (∀ n, n < 8 → field bs (0x800 + 128 * n + 4 * l) 4 = keep LiveRec.c n (g.read (.c n) l)) ∧
      (∀ k, k < t.spill → field bs (spill + l * t.spill + k) 1 = g.spill.readLe (spillKey l k) 1) ∧
      (∀ f k, team = some f → k < 256 →
        field bs (spill + 32 * t.spill + 256 * l + k) 1 = g.frame.readLe (frameKey l k) 1) ∧
      ∀ f, team = some f → field bs (0xC00 + 4 * l) 4 = (f.lanes.getD l (Lane.placed 0 0)).pc.toNat) ∧
    (∀ n, n < 64 → field bs (0x400 + 4 * n) 4 = keep LiveRec.s n (g.read (.s n) 0)) ∧
    (∀ n, n < 16 → field bs (0x580 + 4 * n) 4 = (g.read (.k n) 0).toNat) ∧
    (∀ j, j < 8 → field bs (0x500 + 16 * j) 4 = (g.slotJ j).members.toNat ∧
      field bs (0x504 + 16 * j) 4 = (g.slotJ j).arrived.toNat ∧ field bs (0x508 + 16 * j) 4 = (g.slotJ j).target.toNat) ∧
    field bs 0x5C0 4 = g.limit.toNat ∧ field bs 0x5C8 4 = g.fpflags.toNat ∧ field bs 0x5CC 4 = g.accbase.toNat ∧
    field bs 0x5D0 4 = g.acclim.toNat ∧ field bs 0x5D4 4 = g.wflags.toNat ∧ field bs 0x5D8 8 = g.rngseed.toNat ∧
    field bs 0x5F4 4 = g.exmask.toNat ∧ field bs 0x600 4 = t.tmSize % 2 ^ 32 ∧ field bs 0x604 4 = t.rows % 2 ^ 32 ∧
    field bs 0x608 4 = t.spill % 2 ^ 32 ∧ field bs 0x618 4 = t.tvec.toNat ∧ field bs 0x614 4 = t.ferrylate.toNat ∧
    field bs 0x628 4 = t.serial.toNat ∧ field bs 0x630 8 = t.grid % 2 ^ 64

/-- R299, R348: a save that its entry permits, in a team whose results have landed and whose other groups are
halted or stopped, writes the image and completes: its predicate is true exactly when the image is COMPLETE,
and then, but for a dump, the group keeps the image for its return. -/
def Claims.ImageSaves : Prop :=
  ∀ (i : Instr) (o : OpCtx) (reason : Nat) (code : Option Nat) (s : State),
    let r := s.saveImage s.curTeam reason
    savesImage i = some (o, reason, code) → CanIssue i s → s.cg.inSup = true → s.active i ≠ 0 →
    (∀ c, code = some c → s.cg.trapRegs.code = c) →
    (∀ g ∈ s.ct.groups, g.ended = true ∨ g.regsDone = true) →
    (code = none → s.cg.since = none ∧ (∀ x ∈ s.faults, x.1 ≠ s.curTeam) ∧
      ∀ g ∈ s.ct.groups, g.ended = true ∨ g.index = s.curGroup ∨ g.halted = true) →
    ∃ t, exec i s = .next t ∧ t.hbm = r.1.hbm ∧ t.net = s.net ∧ RegsKept i s t ∧ AnswersWith t s i o.p r.2 ∧
      (∀ k, k ≠ s.curTeam → t.team? k = s.team? k) ∧
      t.cg.saved = if r.2 = true ∧ reason ≠ 4
        then some ((s.ctxFunc s.ct.ctx).ctxbuf.toNat / 2 ^ 16 % 2 ^ 36 * 2 ^ 16, s.reserves s.ct reason)
        else s.cg.saved

/-- R321: an image is restorable for a context: the magic number and version of R316, COMPLETE, of the context,
every checksum right and every TYPE defined; its sections are the bytes at their offsets. -/
def Claims.RestorableImages : Prop :=
  ∀ (s : State) (ctx img : Nat) (h : List Byte) (l : List Found), s.readImage ctx img = some (h, l) →
    s.vRead ctx img 64 = some h ∧ field h 0 4 = 0x31494348 ∧ field h 4 2 = 1 ∧ field h 6 2 = 0 ∧
      field h 0x11 1 = 1 ∧ field h 0x14 2 = ctx ∧ l.length = field h 0x12 2 ∧
      ∃ table, s.vRead ctx (img + 64) (24 * l.length) = some table ∧
        (crc32c (h.take 48 ++ table)).toNat = field h 0x30 4 ∧
        ∀ n x, l[n]? = some x → x.ty = field table (24 * n) 2 ∧ x.index = field table (24 * n + 3) 1 ∧
          1 ≤ x.ty ∧ x.ty ≤ 10 ∧ x.ty ≠ 7 ∧ (crc32c x.bytes).toNat = field table (24 * n + 0x10) 4 ∧
          s.vRead ctx (img + field table (24 * n + 8) 8) (field table (24 * n + 4) 4) = some x.bytes

/-- A group holds what its section records (R319, R349): registers, spill slices, lane PCs and stack offsets, and of
the flags those that the register has (R5, R102). The group that issues goes on in its handler, over the recorded lanes. -/
def Restored (x : Group) (lanes : List Lane) (y : Found) (spillBytes : Nat) : Prop :=
  let budget := field y.bytes 0x5F8 1
  let spill := 0x1000 + 128 * budget
  x.budget = budget ∧ x.exmask.toNat = field y.bytes 0x5F4 4 ∧
    x.fpflags.toNat = field y.bytes 0x5C8 4 &&& 0x1F1F ∧
    (∀ n, n < 64 → (x.peek (.s n) 0).toNat = field y.bytes (0x400 + 4 * n) 4) ∧
    (∀ n, n < 16 → (x.peek (.k n) 0).toNat = field y.bytes (0x580 + 4 * n) 4) ∧
    (∀ j, j < 8 → (x.slotJ j).members.toNat = field y.bytes (0x500 + 16 * j) 4 ∧
      (x.slotJ j).arrived.toNat = field y.bytes (0x504 + 16 * j) 4 ∧
      (x.slotJ j).target.toNat = field y.bytes (0x508 + 16 * j) 4) ∧
    ∀ l, l < 32 →
      (∀ n, n < budget → (x.peek (.g n) l).toNat = field y.bytes (0x1000 + 128 * n + 4 * l) 4) ∧
      (∀ n, n < 8 → (x.peek (.c n) l).toNat = field y.bytes (0x800 + 128 * n + 4 * l) 4) ∧
      (∀ n, 1 ≤ n → n < 48 → decide (x.peek (.p n) l ≠ 0) = (field y.bytes (0x200 + 8 * l) 8).testBit n) ∧
      (∀ k, k < spillBytes → x.spill.readLe (spillKey l k) 1 = field y.bytes (spill + l * spillBytes + k) 1) ∧
      (lanes.getD l (Lane.placed 0 0)).pc.toNat = field y.bytes (4 * l) 4 ∧
      4 * (x.lane l).lsp.toNat = field y.bytes (0x300 + 4 * l) 4 % 32768 / 4 * 4 ∧
      (field y.bytes (0x80 + 8 * l) 1 = 0 → (lanes.getD l (Lane.placed 0 0)).st = .ready) ∧
      (field y.bytes (0x80 + 8 * l) 1 = 1 → (lanes.getD l (Lane.placed 0 0)).st = .rejoin (field y.bytes (0x81 + 8 * l) 1)) ∧
      (field y.bytes (0x80 + 8 * l) 1 = 4 → (lanes.getD l (Lane.placed 0 0)).st = .exited)

/-- R349: `ctxload.img` in the entry with which a resumed team begins: where the image is not restorable or
is of another shape, its predicate is false and nothing is restored; else it is true, the issuing group
stays in its handler over the restored state, every other group and team memory hold what the image records,
and the team takes its coordinates and registers from the descriptor; the handler may load again. The reads of the
image count as read packets of the context (R371). -/
def Claims.ImageLoads : Prop :=
  ∀ (o : OpCtx) (s : State),
    let i : Instr := .ctxloadImg o
    let img := (s.ctxFunc s.ct.ctx).ctxbuf.toNat / 2 ^ 16 % 2 ^ 36 * 2 ^ 16
    let total := s.placedBudget s.ct
    CanIssue i s → s.cg.inSup = true → s.active i ≠ 0 → s.ct.resumeCw.isSome = true →
    s.cg.trapRegs.code = 0x40 →
    ((∀ h l, s.readImage s.ct.ctx img = some (h, l) → shapeMatches s.ct total l = false) →
      ∃ t reads, exec i s = .next t ∧ WordFrame i id (s.noteReads s.ct.ctx reads) t ∧ AnswersWith t s i o.p false) ∧
    (∀ h l, s.readImage s.ct.ctx img = some (h, l) → shapeMatches s.ct total l = true →
      s.cg.frames ≠ [] →
      ∃ t id, exec i s = .next t ∧ t.hbm = s.hbm ∧ t.net = s.net ∧
        (o.p ≠ 0 → ∀ k, (s.active i).getLsbD k = true → Awaits t id (.p o.p.toNat) k 1) ∧
        t.cg.loaded = true ∧ t.cg.inHandler = true ∧ t.ct.x = descField l 0x20 2 ∧ t.ct.y = descField l 0x22 2 ∧
        t.ct.z = descField l 0x24 2 ∧ t.ct.tvec = BitVec.ofNat 32 (descField l 0x18 4) ∧
        t.ct.ferrylate = BitVec.ofNat 32 (descField l 0x14 4) ∧ t.ct.resumeCw = s.ct.resumeCw ∧
        (∀ g y, g < 32 → (s.ct.group? g).isSome = true → (groupsOf l).find? (fun y => y.index == g) = some y →
          ∃ x, t.ct.group? g = some x ∧
            (g ≠ s.curGroup → x.ended = false ∧ Restored x (recordedLanes x) y s.ct.spill) ∧
            (g = s.curGroup → ∃ f rest, x.frames = f :: rest ∧ Restored x f.lanes y s.ct.spill)) ∧
        (∀ g x, g < 32 → g ≠ s.curGroup → (s.ct.group? g).isSome = true →
          (groupsOf l).find? (fun y => y.index == g) = none → t.ct.group? g = some x → x.ended = true) ∧
        ((∀ y ∈ l, y.ty ≠ 5) → ∀ a,
          (∀ y ∈ l, y.ty = 10 → field y.bytes 0 4 ≤ a → a < field y.bytes 0 4 + (y.bytes.length - 16) →
            (∀ z ∈ l, z.ty = 10 → z ≠ y →
              a < field z.bytes 0 4 ∨ field z.bytes 0 4 + (z.bytes.length - 16) ≤ a) →
            t.ct.tm.readLe a 1 = field y.bytes (16 + (a - field y.bytes 0 4)) 1) ∧
          ((∀ y ∈ l, y.ty = 10 → a < field y.bytes 0 4 ∨ field y.bytes 0 4 + (y.bytes.length - 16) ≤ a) →
            t.ct.tm.readLe a 1 = 0)))

end Sys2Proof

/-- R299, R316 to R319, R321, R348, R349: context images are written and restored. The clauses on the form that an
entry's code permits, on the shape that an image has and on the handler of the issuing group after a load
are the model's reading (log 79); so are those on the bytes of a save (logs 45, 46, 105) and on what a load
restores (log 47). -/
def Obligations.Images : Prop :=
  Claims.ImageBytes ∧ Claims.SectionsHeld ∧ Claims.GroupSections ∧ Claims.ImageSaves ∧ Claims.RestorableImages ∧
    Claims.ImageLoads

namespace Sys2Proof

/-! ### Waits that end, answers and pages -/

/-- R144, R199, R214, R209: a group parked at a `ld`, `ldu`, `pwait`, `cwwait` or full tracker repeats its
word once the lines its active lanes read are present, the lines of their ranges are, the word can be read in the
order of the core's accesses (R162) and has reached its value, or an entry is free. Nothing else changes. -/
def Claims.ParksEnd : Prop :=
  ∀ (s : State) (t g : Nat),
    let h : State := { s with curTeam := t, curGroup := g }
    let again := s.modGroup t g fun x => { x with park := .retry }
    (s.team? t).isSome = true → (s.team t).running (s.group t g) = true →
    (∀ d ad ty v acq pro m, (s.group t g).park = .ld → s.heldAt t g = some (.ld d ad ty v acq pro m) →
      (∀ l x, (h.active (.ld d ad ty v acq pro m)).getLsbD l = true →
        h.checkElem h.ct h.cg l ad.sp (eaOf ad h.cg l) (ty.size * v.count) true false = .ok (.tm x) →
        h.present x (ty.size * v.count) = true) →
      exec (.parkedLdRelease t g) s = .next again) ∧
    (∀ d ad ty v m, (s.group t g).park = .ld → s.heldAt t g = some (.ldu d ad ty v m) →
      (∀ x, h.checkElem h.ct h.cg ((lanesOf (h.active (.ldu d ad ty v m))).headD 0) ad.sp (eaOf ad h.cg 0)
          (ty.size * v.count) true false = .ok (.tm x) → h.present x (ty.size * v.count) = true) →
      exec (.parkedLdRelease t g) s = .next again) ∧
    (∀ b ad m, (s.group t g).park = .pwait → s.heldAt t g = some (.pwait b ad m) →
      (∀ l x, (h.active (.pwait b ad m)).getLsbD l = true → (h.cg.rg b l).toNat ≠ 0 →
        h.place h.ct h.cg ad.sp (eaOf ad h.cg l) (h.cg.rg b l).toNat = some (.tm x) →
        h.present x (h.cg.rg b l).toNat = true) →
      exec (.pwaitRelease t g) s = .next again) ∧
    (∀ o cl x, (s.group t g).park = .cwwait cl → s.heldAt t g = some (.cwwait o) →
      h.cwCheck (.cwwait o) o true false = .ok x → h.engineReads (s.team t).core x 8 s.fresh = true →
      (if o.w64 then h.cg.rs64 o.b else (h.cg.rs o.b).toNat) ≤ (s.team x.team).tm.readLe x.addr 8 →
      (s.team? x.team).isSome = true → x.addr + 8 ≤ round4k (s.team x.team).tmSize →
      exec (.cwwaitRelease t g) s = .next again) ∧
    ((s.group t g).park = .tracker →
      (s.copies.filter fun o => o.team == t && o.group == g).length < 16 →
      (s.copies.filter fun o => o.core == (s.team t).core).length < 64 →
      exec (.trackerEntryFree t g) s = .next again)

/-- R310, R307: an answer to a service request frees its request, and the lane that waits for it becomes READY
at its word, or has its trap pending; one that names no request is ignored. FAIL for a lane that runs in a
supervisor handler enters no handler: the lane is READY and its team halts, with a record that says NESTED. -/
def Claims.ServiceAnswers : Prop :=
  ∀ (s : State) (fn pos : Nat) (retry : Bool) (e : Instr),
    (e = .svcansRetry fn pos ∧ retry = true ∨ e = .svcansFail fn pos ∧ retry = false) →
    ((∀ r ∈ (s.func fn).requests, r.1 % 2 ^ 31 ≠ pos % 2 ^ 31) → exec e s = .next s) ∧
    ∀ r, (s.func fn).requests.find? (fun r => r.1 % 2 ^ 31 == pos % 2 ^ 31) = some r →
      (s.team? r.2.1).isSome = true → ((s.team r.2.1).group? r.2.2.1).isSome = true →
      (s.group r.2.1 r.2.2.1).lanes.length = 32 →
      let x := s.group r.2.1 r.2.2.1
      let waits (l : Nat) : Prop := ∃ p, (x.lane l).st = .parked (.service r.1 p)
      ((retry = true ∨ x.inSup = false ∨ ∀ l, l < 32 → ¬ waits l) →
        ∃ u, exec e s = .next u ∧ u.hbm = s.hbm ∧ u.net = s.net ∧
          (u.func fn).requests = (s.func fn).requests.erase r ∧
          ∀ l, l < 32 →
            let y := (u.group r.2.1 r.2.2.1).lane l
            { y with st := (x.lane l).st } = x.lane l ∧
            (∀ p, (x.lane l).st = .parked (.service r.1 p) →
              y.st = (if retry then .ready else .parked (.trapped p)) ∧
              (retry = false → (u.group r.2.1 r.2.2.1).entry.isSome = true)) ∧
            (¬ waits l → y.st = (x.lane l).st)) ∧
      (retry = false → x.inSup = true → x.ended = false → ∀ l p, l < 32 → (∀ k, k < l → ¬ waits k) →
        (x.lane l).st = .parked (.service r.1 p) →
        ∃ u, exec e s = .next u ∧ (u.group r.2.1 r.2.2.1).halted = true ∧
          ((u.group r.2.1 r.2.2.1).lane l).st = .ready ∧ ((u.group r.2.1 r.2.2.1).lane l).pc = (x.lane l).pc ∧
          ((s.func ((s.team r.2.1).ctx - 1)).queueOk = true →
            (s.func ((s.team r.2.1).ctx - 1)).fqtail - (s.func ((s.team r.2.1).ctx - 1)).fqhead ≠
              (s.func ((s.team r.2.1).ctx - 1)).fqsize →
            let f := s.func ((s.team r.2.1).ctx - 1)
            let a := f.fqbase.toNat + 32 * (f.fqtail.toNat % f.fqsize.toNat)
            u.hostMem.readLe a 1 = p.code % 256 ∧ u.hostMem.readLe (a + 1) 1 = l ∧
              u.hostMem.readLe (a + 2) 2 = 5))

/-- R311, R312: the oldest record of a team is delivered: to the team while it is resident, has not ended and holds
fewer than 16, and its receiver's entry begins; else to the context's fault queue, marked EXITED or
DIVERTED. A record in the ring is 32 bytes at FQTAIL; a full ring counts it lost. -/
def Claims.RecordDelivery : Prop :=
  (∀ (s : State) (i k ctx : Nat) (r : FaultRec),
    let q : State := { s with faults := s.faults.eraseIdx i }
    s.faults[i]? = some (k, ctx, r) → (∀ y ∈ s.faults.take i, y.1 ≠ k) →
    ((∀ t, s.team? k = some t → t.departed = true) → exec (.faultRecordDelivery i) s =
      .next (q.faultQueue (ctx - 1) { r with flags := r.flags ||| flagExited }).1) ∧
    (∀ t, s.team? k = some t → t.departed = false → 16 ≤ t.records.length → exec (.faultRecordDelivery i) s =
      .next (q.faultQueue (ctx - 1) { r with flags := r.flags ||| flagDiverted }).1) ∧
    (∀ t, s.team? k = some t → t.departed = false → t.records.length < 16 →
      ∃ u, exec (.faultRecordDelivery i) s = .next u ∧ u.faults = s.faults.eraseIdx i ∧
        u.hostMem = s.hostMem ∧ u.hbm = s.hbm ∧ (u.team k).records = t.records ++ [r] ∧
        ∀ g b, t.receiver r = some (g, b) → (s.group k g).ended = false → (s.group k g).inSup = false →
           (u.group k g).entry.isSome = true)) ∧
  (∀ (s : State) (fn : Nat) (r : FaultRec),
    let f := s.func fn
    let u := (s.faultQueue fn r).1
    f.queueOk = true →
    (f.fqtail - f.fqhead = f.fqsize →
      u.hostMem = s.hostMem ∧ (u.func fn).fqlost.toNat = min 0xFFFFFFFF (f.fqlost.toNat + 1)) ∧
    (f.fqtail - f.fqhead ≠ f.fqsize →
      let a := f.fqbase.toNat + 32 * (f.fqtail.toNat % f.fqsize.toNat)
      (u.func fn).fqtail = f.fqtail + 1 ∧
      (∀ b, (b < a ∨ a + 32 ≤ b) → u.hostMem.read b = s.hostMem.read b) ∧
      u.hostMem.readLe a 1 = r.code % 256 ∧ u.hostMem.readLe (a + 1) 1 = r.lane % 256 ∧
      u.hostMem.readLe (a + 2) 2 = r.flags.toNat ∧ u.hostMem.readLe (a + 4) 4 = r.pc.toNat ∧
      u.hostMem.readLe (a + 8) 8 = r.addr.toNat ∧ u.hostMem.readLe (a + 0x10) 4 = r.grpslot.toNat ∧
      u.hostMem.readLe (a + 0x14) 2 = r.x % 65536 ∧ u.hostMem.readLe (a + 0x16) 2 = r.y % 65536 ∧
      u.hostMem.readLe (a + 0x18) 2 = r.z % 65536 ∧ u.hostMem.readLe (a + 0x1A) 1 = r.group % 256))

end Sys2Proof

/-- R144, R199, R209, R214, R310 to R312: parked words repeat, service requests are answered, and records
delivered. Readings: log 55. -/
def Obligations.AnswersArrive : Prop :=
  Claims.ParksEnd ∧ Claims.ServiceAnswers ∧ Claims.RecordDelivery

namespace Sys2Proof

/-- The value of a table entry at a physical address. -/
def entryAtPa (s : State) (pa : Nat) : Nat := leNat (s.hbmBytes pa 8)

end Sys2Proof

/-- R154, R155: a migration out first sets MIG in its page's entry and sweeps; when the operations that
were translated before are complete, the page goes to the capacity tier and its entry becomes invalid. A
migration in first sets MIG in the invalid entry; then the page's bytes stand at the new address and the
entry is valid, of type page, with MIG 0. A lane that waited for a page translates again once its
migration is over. A host shootdown sweeps, and is acknowledged when those operations are complete. Readings: logs 42, 56. -/
def Obligations.PageMoves : Prop :=
  (∀ (s : State) (ctx : Nat) (va : BitVec 52) (pa e : Nat),
    let page := some (va.toNat / 65536)
    let go := exec (.pageMigrationOut ctx va) s
    s.leaf (s.ctxFunc ctx) va.toNat = some (pa, e) → s.scrub = [] →
    (s.sweepOf ctx page = none → entV e = true → entT e = true → entRes0 e = true → entMig e = false →
      ∃ u, go = .next u ∧ entryAtPa u pa = e + 2 ^ 7 ∧ Swept s u ctx none ∧
        u.sweeps = s.sweeps ++ [{ ctx := ctx, page := page, since := s.fresh }]) ∧
    (∀ w p, s.sweepOf ctx page = some w → ¬ translatedBefore s ctx w.since →
      stageTwo (s.ctxFunc ctx) (entAddr e) = some p →
      ∃ u x, go = .next u ∧ entryAtPa u pa / 2 ^ 8 = e / 2 ^ 8 ∧ entV (entryAtPa u pa) = false ∧
        entMig (entryAtPa u pa) = false ∧ Swept s u ctx none ∧ (∀ y ∈ u.sweeps, y.ctx = ctx → y.page ≠ page) ∧
        tfind u.capacity (ctx * 2 ^ 36 + va.toNat / 65536) = some x ∧
        ∀ k, k < 65536 → x.mem.read k = s.hbmByte (p + k))) ∧
  (∀ (s : State) (ctx : Nat) (va ia : BitVec 52) (pa e p : Nat) (x : CapPage),
    let key := ctx * 2 ^ 36 + va.toNat / 65536
    let go := exec (.pageMigrationIn ctx va ia) s
    s.leaf (s.ctxFunc ctx) va.toNat = some (pa, e) → s.scrub = [] → entV e = false → ia.toNat % 65536 = 0 →
    tfind s.capacity key = some x → stageTwo (s.ctxFunc ctx) ia.toNat = some p →
    (entMig e = false → ∃ u, go = .next u ∧ entryAtPa u pa = e + 2 ^ 7) ∧
    (entMig e = true → x.mem.wf = true → (∀ c ∈ x.mem, c.1 < 65536) →
      (pa + 8 ≤ p ∨ p + 65536 ≤ pa) → p % 65536 = 0 →
      ∃ u, go = .next u ∧ entAddr (entryAtPa u pa) = ia.toNat ∧ entV (entryAtPa u pa) = true ∧
        entT (entryAtPa u pa) = true ∧ entMig (entryAtPa u pa) = false ∧ Swept s u ctx none ∧
        tfind u.capacity key = none ∧ ∀ k, k < 65536 → u.hbmByte (p + k) = x.mem.read k)) ∧
  (∀ (s : State) (t g l va : Nat),
    (s.team? t).isSome = true → (s.group t g).lanes.length = 32 → ((s.team t).group? g).isSome = true → l < 32 →
    ((s.group t g).lane l).st = .parked (.mig va) →
    s.walk (s.ctxFunc (s.team t).ctx) (va % 2 ^ 52) .rd ≠ .mig →
    ∃ u, exec (.migClearRetry t g) s = .next u ∧ ((u.group t g).lane l).st = .ready ∧
      ((u.group t g).lane l).pc = ((s.group t g).lane l).pc ∧ u.hbm = s.hbm ∧
      ∀ k, k < 32 → (∀ va, ((s.group t g).lane k).st ≠ .parked (.mig va)) →
        (u.group t g).lane k = (s.group t g).lane k) ∧
  (∀ (s : State) (ctx : Nat),
    (s.sweepOf ctx none = none → ∃ u, exec (.hostShootdown ctx) s = .next u ∧ Swept s u ctx none ∧ u.hbm = s.hbm ∧
      u.sweeps = s.sweeps ++ [{ ctx := ctx, page := none, since := s.fresh }]) ∧
    ∀ w, s.sweepOf ctx none = some w → ¬ translatedBefore s ctx w.since →
      exec (.hostShootdown ctx) s =
        .next { s with sweeps := s.sweeps.filter fun y => !(y.ctx == ctx && y.page == none) })

namespace Sys2Proof

/-! ### Stops -/

/-- A team and its peloton (R20). -/
def sameStop (t y : Team) : Prop :=
  y.key = t.key ∨
    (t.peloton = true ∧ y.peloton = true ∧ y.grid = t.grid ∧ y.ctx = t.ctx ∧ y.departed = false)

/-- Teams have names of their own. -/
def DistinctTeams (s : State) : Prop := s.teams.Pairwise fun a b => a.key ≠ b.key

/-- The teams of a stop take it, but for one in the handler of its stop and one whose stop is over while its
peloton is not whole; the others are as before. -/
def TakesStop (s u : State) (t : Team) (stop : Stop) : Prop :=
  { u with teams := s.teams } = s ∧
  ∀ k y, s.team? k = some y → ∃ z, u.team? k = some z ∧
    ((¬ sameStop t y ∨ (∃ c b, y.stop = .handler c b) ∨ y.stop = .over) → z = y) ∧
    (sameStop t y → (∀ c b, y.stop ≠ .handler c b) → y.stop ≠ .over → z.stop = stop ∧
      { z with stop := y.stop, groups := y.groups } = y ∧ (∀ g ∈ z.groups, g.stopped = false) ∧
      z.groups.map (fun g => { g with stopped := false }) = y.groups.map (fun g => { g with stopped := false }))

/-- R313 to R315, R20: a fine stop is requested of a team and its peloton; a slice end some group does not
reach within the limit becomes one. When every member has stopped and its work has settled, the
lowest-indexed group not ended enters the supervisor at PREEMPT or SLICE_END: its lanes READY at the
vector, the interrupted lanes kept, the code and the lanes that were READY or PARKED in the trap
registers, the registers as they stand. -/
def Claims.TeamStops : Prop :=
  (∀ (s : State) (k : Nat) (t : Team), s.team? k = some t → t.stop = .none → t.departed = false → DistinctTeams s →
    ∃ u, exec (.finePreemptionRequest k) s = .next u ∧ TakesStop s u t (.fine false)) ∧
  (∀ (s : State) (k : Nat) (t : Team), s.team? k = some t → t.stop = .slice 0 → t.departed = false → DistinctTeams s →
    t.isHalted = false → (∃ y ∈ s.members t, y.hasStopped = false) →
    ∃ u, exec (.sliceEndFallback k) s = .next u ∧ TakesStop s u t (.fine true)) ∧
  (∀ (s : State) (k g code : Nat) (live : Bool) (e : Instr) (t : Team) (v : Word),
    let f := s.ctxFunc t.ctx
    let x := t.group g
    s.team? k = some t →
    ((e = .preemptEntry k ∧ live = false ∧
        (t.stop = .fine false ∧ code = 0x40 ∨ t.stop = .fine true ∧ code = 0x41)) ∨
      (e = .sliceEndEntry k ∧ live = true ∧ (∃ n, t.stop = .slice n) ∧ code = 0x41)) →
    (∀ y ∈ s.members t, y.hasStopped = true) → s.stopWork k = none → s.stopSettled k = true →
    f.tracectl.getLsbD 0 = false → g < 32 → (t.group? g).isSome = true → x.ended = false →
    (∀ j y, j < g → t.group? j = some y → y.ended = true) → x.lanes.length = 32 →
    s.codeWord t.ctx (BitVec.ofNat 32 (f.svtab.toNat / 256 * 256 + 4 * code)) = some v →
    ∃ u, exec e s = .next u ∧ u.hbm = s.hbm ∧ u.net = s.net ∧ (u.team k).stop = .handler code live ∧
      (∀ l, l < 32 → ((u.group k g).lane l).st = .ready ∧ ((u.group k g).lane l).pc = v) ∧
      (∃ h, (u.group k g).frames = h :: x.frames ∧ h.sup = true ∧ h.lanes.length = 32 ∧
        ∀ l, l < 32 → { h.lanes.getD l (Lane.placed 0 0) with mid := (x.lane l).mid } = x.lane l ∧
          (∀ c, x.clause = some c → (∀ w, x.park ≠ .header w) → c.issue.getLsbD l = true →
            (h.lanes.getD l (Lane.placed 0 0)).mid = some (c.hdr, (x.lane l).pc))) ∧
      (u.group k g).trapRegs.code = code ∧ (u.group k g).trapRegs.info = 0 ∧
      (u.group k g).trapRegs.flt = 0 ∧
      (∀ l, l < 32 → ((u.group k g).trapRegs.act.getLsbD l = true ↔
        (x.lane l).st = .ready ∨ (x.lane l).st.isParked = true)) ∧
      (∀ n l, (u.group k g).read n l = x.read n l) ∧
      ∀ y ∈ (u.team k).groups, y.midWord = false → ∀ o, y.chprog = some o → o.kind = .chain → o.stopped = true)

/-- R324, R350, R386: the host halts every group of the team that the Debug capability names, and its
`chain`s stop; it resumes them; a command that names no resident team, or of another function, is
ignored. -/
def Claims.HostDebug : Prop :=
  ∀ (s : State) (z : BitVec 16),
    (∀ fn, fn ≠ 0 → exec (.debugHalt fn z) s = .next s ∧ exec (.debugResume fn z) s = .next s) ∧
    (s.debugTeam 0 z = none → exec (.debugHalt 0 z) s = .next s ∧ exec (.debugResume 0 z) s = .next s) ∧
    ∀ t, s.debugTeam 0 z = some t → s.team? t.key = some t →
      t.departed = false ∧ t.ctx = (s.func 0).dbgCtx.toNat ∧ t.x = (s.func 0).dbgXY.toNat % 65536 ∧
      t.y = (s.func 0).dbgXY.toNat / 65536 ∧ t.z = z.toNat ∧
      (∃ u, exec (.debugHalt 0 z) s = .next u ∧
        (∀ g x, g < 32 → (u.team t.key).group? g = some x → x.ended = true ∨ x.halted = true) ∧
        ∀ x ∈ (u.team t.key).groups, x.midWord = false → ∀ o, x.chprog = some o → o.kind = .chain →
          o.stopped = true) ∧
      ∃ u, exec (.debugResume 0 z) s = .next u ∧ u.net = s.net ∧
        (∀ g x, g < 32 → (u.team t.key).group? g = some x → x.ended = true ∨ x.halted = false) ∧
        ∀ x ∈ (u.team t.key).groups, ∀ o, x.chprog = some o → o.kind = .chain → o.stopped = false

end Sys2Proof

/-- R313 to R315, R324, R350, R386: teams stop, for the dispatcher and for the host. Readings: logs 49, 50. -/
def Obligations.TeamStops : Prop :=
  Claims.TeamStops ∧ Claims.HostDebug

namespace Sys2Proof

/-! ### Launch queues, placement, periods -/

/-- R361 to R363: a record whose 128 bytes are written enters the queue of its aperture, or is dropped
and counted when the queue holds 64; a function without a context drops it. It enters in the dispatcher's
cycle, and in the next one behind a launch instruction's record. -/
def Claims.RecordsTaken : Prop :=
  ∀ (s : State) (fn off : Nat) (bs : List Byte),
    let f := s.func fn
    let r := parseRecord bs
    let q := off / 4096
    let depth := (s.grids.filter fun g => g.ctx == fn + 1 && g.queue == q && !g.left).length
    let late := s.disp.ahead + if 1 < s.disp.order then 1 else 0
    fn < 64 → bs.length = 128 → off % 128 = 0 → off < 0x8000 → off % 4096 < 0xF80 →
    ∃ u, exec (.launchRecordTaken fn off bs) s = .next u ∧
      u.teams = s.teams ∧ u.hbm = s.hbm ∧ (∀ k, k ≠ fn → u.func k = s.func k) ∧
      (∀ a, off ≤ a → a < off + 128 → (u.func fn).staged.read a = 0) ∧
      (∀ a, (a < off ∨ off + 128 ≤ a) → (u.func fn).staged.read a = f.staged.read a) ∧
      (f.exists_ = false → u.grids = s.grids) ∧
      (f.exists_ = true → depth < 64 → u.gridSerial = s.gridSerial + 1 ∧ u.grids = s.grids ++
        [{ serial := s.gridSerial, ctx := fn + 1, queue := q, entered := s.disp.cycle + late, record := r, placed := 0,
           unended := r.gx * r.gy * r.gz, left := false, waited := 0, replay := none, follows := none,
           replayRecs := [] }]) ∧
      (f.exists_ = true → u.disp = { s.disp with ahead := late, order := 1 }) ∧
      (f.exists_ = true → 64 ≤ depth → u.grids = s.grids ∧ (u.func fn).overflow = true ∧
        (u.func fn).drops = (if f.drops < 65535 then f.drops + 1 else f.drops) ∧
        (u.func fn).lostSeq = if f.overflow then f.lostSeq else r.seq)

/-- R14, R18, R364 to R367: a dispatcher cycle with nothing to refuse places the next team of the first
grid in its order on the core chosen: its coordinates, groups, roles and budgets are the record's, its
lanes stand READY at the kernel, s8 and s9 hold the argument; nothing else of the other teams changes. A
record to be refused leaves its queue, and the first such is latched (R15). -/
def Claims.Placement : Prop :=
  (∀ (s : State) (g : Grid) (rest : List Grid) (c : Nat),
    let r := g.record
    s.boot.isReady = true → s.capDue = false → (∀ h ∈ s.heads, s.refusable h = false) → s.candidates = g :: rest →
    r.peloton = false → r.resume = false → s.chooseCore g.ctx r g.placed = some c →
    (s.ctxFunc g.ctx).tracectl.getLsbD 0 = false →
    ∃ u x, exec .dispatcherCycle s = .next u ∧ u.teams = s.teams ++ [x] ∧ u.hbm = s.hbm ∧ u.net = s.net ∧
      x.key = s.fresh ∧ u.fresh = s.fresh + 1 ∧ x.ctx = g.ctx ∧ x.core = c ∧ x.grid = g.serial ∧
      x.x = g.placed % r.gx ∧ x.y = g.placed / r.gx % r.gy ∧ x.z = g.placed / (r.gx * r.gy) ∧
      x.gx = r.gx ∧ x.gy = r.gy ∧ x.gz = r.gz ∧ x.tmSize = round4k r.tm ∧ x.spill = r.spill ∧
      x.quantum = r.quantum ∧ x.rows = r.rows ∧ x.tm = [] ∧ x.stop = .none ∧
      x.serial.toNat = (s.core c).serial % 2 ^ 32 ∧
      x.groups.map (fun y => (y.role, y.budget)) = r.roleList ∧
      (∀ (n : Nat) (y : Group), x.groups[n]? = some y → y.index = n ∧ y.ended = false ∧ y.lanes.length = 32 ∧
        y.rs (8 : BitVec 6) = BitVec.ofNat 32 r.arg.toNat ∧ y.rs (9 : BitVec 6) = BitVec.ofNat 32 (r.arg.toNat / 2 ^ 32) ∧
        ∀ l, l < 32 → (y.lane l).st = .ready ∧ (y.lane l).pc = r.kernel) ∧
      ∀ h, s.grid? g.serial = some h → ∃ h', u.grid? g.serial = some h' ∧ h'.placed = h.placed + 1 ∧
        h'.left = true) ∧
  (∀ (s : State) (g : Grid),
    let f := s.func (g.ctx - 1)
    s.boot.isReady = true → s.capDue = false → s.grids = [g] → g.left = false → s.refusable g = true →
    exec .dispatcherCycle s = .next ({ s with
        grids := []
        disp := { s.disp with ahead := s.disp.ahead + (if 0 < s.disp.order then 1 else 0), order := 1 }
        }.modFunc (g.ctx - 1) fun _ =>
      { f with refused := true, refusedSeq := if f.refused then f.refusedSeq else g.record.seq }))

/-- One grid stands before another in the dispatcher's order (R365, R369): a tenant with a balance, or without a
budget, first; then the higher priority, raised for every 8 periods waited; then the earlier cycle of entry,
the lower context, the lower queue. -/
def ServedBefore (s : State) (a b : Grid) : Prop :=
  let funded (g : Grid) : Prop := g.ctx ≤ 1 ∨ 0 < (s.func (g.ctx - 1)).balance
  let level (g : Grid) : Nat := min 3 (g.record.priority + g.waited / 8)
  (funded a ∧ ¬ funded b) ∨ ((funded a ↔ funded b) ∧
    (level b < level a ∨ level a = level b ∧ (a.entered < b.entered ∨ a.entered = b.entered ∧
      (a.ctx < b.ctx ∨ a.ctx = b.ctx ∧ (a.queue < b.queue ∨ a.queue = b.queue ∧ a.serial ≤ b.serial)))))

/-- R365, R369, R370, R375: the grids that may be served stand in that order, none of a tenant over budget, nor a
best-effort one once the cap is reached; while the first one, of a tenant with a balance, fits nowhere, the
team chosen of a tenant over budget is asked to end its slice, one team at a time. -/
def Claims.ServiceOrder : Prop :=
  (∀ (s : State), s.candidates.Pairwise (ServedBefore s)) ∧
  (∀ (s : State), ∀ g ∈ s.candidates, s.overBudget g.ctx = false ∧
    (s.disp.capReached = true → (s.func (g.ctx - 1)).flags.getLsbD 2 = true)) ∧
  (∀ (s : State) (g : Grid) (rest : List Grid) (t : Team),
    s.boot.isReady = true → s.capDue = false → (∀ h ∈ s.heads, s.refusable h = false) → s.candidates = g :: rest →
    2 ≤ g.ctx → (s.func (g.ctx - 1)).balance ≠ 0 → s.chooseCore g.ctx g.record g.placed = none →
    s.disp.stopping = none → s.victim g none = some t → t.peloton = false → s.team? t.key = some t →
    (∀ y ∈ s.teams, y.key < s.fresh) →
    ∃ u, exec .dispatcherCycle s = .next u ∧ (u.team t.key).stop = .slice 65536 ∧ u.disp.stopping = some t.key)

end Sys2Proof

/-- R14 to R18, R361 to R367, R370: launch records enter their queues, and teams are placed. Readings: logs 52,
53, 54. -/
def Obligations.Dispatch : Prop :=
  Claims.RecordsTaken ∧ Claims.Placement ∧ Claims.ServiceOrder

namespace Sys2Proof

/-- R365, R368, R369, R374, R375: at a period boundary the knobs take effect; every tenant but 0 repays
min(debt, refill * rate / 65,536) and takes the rest of its refill as its balance; eligible heads have
waited one period more; the energy cap is open again, and the throttle steps follow. -/
def Claims.PeriodBoundaries : Prop :=
  (∀ (s : State),
    let s1 := s.applyKnobs [1, 2, 3, 6]
    s.disp.boundaryDue = true → s.disp.tickDue = false → s.decisionDue = false →
    ∃ u, exec .periodBoundary s = .next u ∧ u.disp.boundaryDue = false ∧ u.disp.capReached = false ∧
      u.disp.periodFrom = s.disp.periodEnd ∧ u.energy = s.energy ∧
      u.disp.cap = s1.disp.cap ∧ u.teams = s.teams ∧ u.hbm = s.hbm ∧
      u.grids = s.grids.map (fun g => if s.heads.any fun h => h.serial == g.serial && s.eligible h then
        { g with waited := g.waited + 1 } else g) ∧
      ∀ fn f, tfind s1.funcs fn = some f →
        let repay := min f.debt (f.refill * f.rate / 65536)
        (fn ≠ 0 → (u.func fn).debt = f.debt - repay ∧ (u.func fn).balance = f.refill - repay) ∧
        (fn = 0 → (u.func fn).debt = f.debt ∧ (u.func fn).balance = f.balance) ∧
        (u.func fn).step = if f.flags.getLsbD 2 then 0 else min 15 (f.floor + s.disp.lambda)) ∧
  (∀ (s : State) (n : Nat),
    let b := s.binding n
    s.applied n = if s.pilot.everOn = false ∨ s.boot.minimal = true then b.dflt.toInt
      else if b.hi.toInt < b.lo.toInt then b.lo.toInt
      else max b.lo.toInt (min (s.pilot.word (0x0330 + n)).toInt b.hi.toInt)) ∧
  (∀ (s : State),
    let used := ((s.energy.map (·.2)).sum - s.disp.periodFrom) / (Config.energyUnit + 1)
    s.disp.capReached = false → s.disp.boundaryDue = false →
    (∀ c, s.disp.cap = some c → c ≤ used →
      ∃ u, exec .energyCapReached s = .next u ∧ u.disp = { s.disp with capReached := true } ∧ u.teams = s.teams ∧
        ∀ fn f, tfind s.funcs fn = some f → u.func fn = { f with step := if f.flags.getLsbD 2 then 0 else 15 }) ∧
    ((∀ c, s.disp.cap = some c → used < c) → exec .energyCapReached s = .fault .notEnabled))

/-- R371, R372: a read packet counts in the bucket of its latency at the controller of its stack. At a control
tick the dispatcher sums a tenant's buckets over the 16 controllers, which are cleared, and the loop step
rises by one, to 15 at most, when a critical tenant with a target and reads lies above it, falls by one,
to 0 at least, when every such tenant lies an eighth or more below it, and else stands. The 99th
percentile is the upper end of the first bucket that reaches 99 percent of the reads. -/
def Claims.ControlTicks : Prop :=
  (∀ (s : State),
    let s1 := s.applyKnobs [4, 5]
    let reads (x : Nat × Func) : List Nat := s.tickHist x.1
    let above (x : Nat × Func) : Prop := x.2.flags.getLsbD 2 = true ∧ x.2.target ≠ 0 ∧
      (reads x).sum ≠ 0 ∧ x.2.target < lat99 (reads x)
    let near (x : Nat × Func) : Prop := x.2.flags.getLsbD 2 = true ∧ x.2.target ≠ 0 ∧
      (reads x).sum ≠ 0 ∧ x.2.target - x.2.target / 8 < lat99 (reads x)
    s.disp.tickDue = true →
    ∃ u, exec (.controlTick (s.funcs.map fun x => (x.1, reads x))) s = .next u ∧ u.disp.tickDue = false ∧
      u.hists = [] ∧ u.teams = s.teams ∧ u.hbm = s.hbm ∧
      ((∃ x ∈ s1.funcs, above x) → u.disp.lambda = min 15 (s.disp.lambda + 1)) ∧
      ((∀ x ∈ s1.funcs, ¬ near x) → u.disp.lambda = s.disp.lambda - 1) ∧
      ((∀ x ∈ s1.funcs, ¬ above x) → (∃ x ∈ s1.funcs, near x) → u.disp.lambda = s.disp.lambda)) ∧
  (∀ (s : State) (fn b : Nat), b < 64 → (s.tickHist fn).length = 64 ∧ (s.tickHist fn).getD b 0 =
    ((List.range 16).map fun c => ((tfind s.hists (c * 64 + fn)).getD []).getD b 0).sum) ∧
  (∀ (s : State) (ctx n pa : Nat), 1 ≤ ctx → ctx ≤ 64 → pa < 1008 * 2 ^ 30 →
    ∃ b, b < 64 ∧ ∀ fn k, k < 64 → fn < 64 →
      ((s.noteRead ctx (n, pa)).tickHist fn).getD k 0 =
        (s.tickHist fn).getD k 0 + (if fn = ctx - 1 ∧ k = b then 1 else 0)) ∧
  (∀ (h : List Nat) (b : Nat), h.sum ≠ 0 → b < h.length → 99 * h.sum ≤ 100 * (h.take (b + 1)).sum →
    (∀ c, c < b → 100 * (h.take (c + 1)).sum < 99 * h.sum) → lat99 h = 32 * b + 31)

/-- The period's energy has reached the applied cap (R375), that of the whole period once its boundary is due. -/
def Capped (s : State) : Prop :=
  s.disp.capReached = true ∨ ∃ c, s.disp.cap = some c ∧
    c ≤ ((if s.disp.boundaryDue then s.disp.periodEnd else (s.energy.map (·.2)).sum) - s.disp.periodFrom) /
      (Config.energyUnit + 1)

/-- R48, R372, R373, R375: a group that an arbiter chooses has a word to issue, and the phase of its port is not below
the step at which its tenant is throttled: none for a critical one, 15 for another once the period's energy has
reached the cap, and else the step that the loop gave it. -/
def Claims.Throttling : Prop :=
  ∀ (s : State), ∀ a ∈ s.arbiter, ∃ t ∈ s.teams, t.key = a.1 ∧ ∃ g ∈ t.groups, g.index = a.2 ∧
    g.clause.isSome = true ∧ t.running g = true ∧
    let phase := (s.core t.core).phases.getD g.port 0
    let f := s.func (t.ctx - 1)
    (f.flags.getLsbD 2 = false → (Capped s → 15 ≤ phase) ∧ (¬ Capped s → f.step ≤ phase)) ∧
      (f.flags.getLsbD 2 = true → s.throttle t.ctx = 0)

/-- R327 to R329: a hang report of a group whose counter has reached the limit sets FIRED of `%hangwd` and
starts the counter again. -/
def Claims.HangReports : Prop :=
  ∀ (s : State) (t g : Nat),
    let f := s.func ((s.team t).ctx - 1)
    let limit := f.hangwd.toNat % 65536
    (s.team? t).isSome = true → ((s.team t).group? g).isSome = true → limit ≠ 0 →
    limit * 65536 ≤ (s.group t g).watchdog →
    ((∃ cl, (s.group t g).park = .cwwait cl) ∨ ∃ l b ph, l < 32 ∧ ((s.group t g).lane l).st = .barrier b ph) →
    f.tracectl.getLsbD 0 = false →
    exec (.hangReport t g) s =
      .next ((s.modFunc ((s.team t).ctx - 1) fun f => { f with hangwd := f.hangwd ||| 0x80000000 }).modGroup t g
        fun x => { x with watchdog := 0 })

end Sys2Proof

/-- R48, R327 to R329, R365, R368 to R375: period boundaries, control ticks, throttling and hang reports.
Readings: logs 57, 58, 59, 76. -/
def Obligations.Periods : Prop :=
  Claims.PeriodBoundaries ∧ Claims.ControlTicks ∧ Claims.Throttling ∧ Claims.HangReports

namespace Sys2Proof

/-! ### The Pilot -/

/-- R354, R355, R357: the oldest access of a group arrives: a write stores its word, a read returns the
word as it stands; a control write that sets EN while the Pilot is stopped makes the mooring vector the
knobs, clears the counters and begins interval 1; one that clears EN leaves the knobs, and so does one
that leaves EN set. A control write with REPLAY and a row count out of range is ignored. -/
def Claims.PilotAccesses : Prop :=
  (∀ (s : State) (n : Nat) (m : PilotMsg),
    s.pilotNet[n]? = some m → (∀ y ∈ s.pilotNet.take n, y.team = m.team → y.group ≠ m.group) →
    s.boot.minimal = false →
    (∀ v, m.set = some v → m.index ≠ 0 → exec (.pilotAccessArrival n) s =
      .next { s with pilotNet := s.pilotNet.eraseIdx n, pilot := s.pilot.put m.index (v &&& pilotMask m.index) }) ∧
    (∀ v, m.set = some v → m.index = 0 → exec (.pilotAccessArrival n) s =
      .next ({ s with pilotNet := s.pilotNet.eraseIdx n }.pilotControl v)) ∧
    (∀ id r d, m.set = none → m.res = some id → r ∈ (s.group m.team m.group).pending → r.id = id →
      (∀ q ∈ (s.group m.team m.group).pending, q.id = id → q = r) → r.live.map (·.1) = [RegName.s d] →
      (s.team? m.team).isSome = true → ((s.team m.team).group? m.group).isSome = true →
      ∃ u, exec (.pilotAccessArrival n) s = .next u ∧ u.pilotNet = s.pilotNet.eraseIdx n ∧
        Returned s u m.team m.group id [{ name := .s d, lane := 0, val := s.pilot.word m.index }] ∧
        u.pilot = s.pilot ∧ u.hbm = s.hbm)) ∧
  (∀ (s : State) (n : Nat) (v : Word) (e : Instr),
    s.controlWrite v = some n → s.boot.minimal = false → s.pilot.invalid v = false →
    (e = .pilotEnable v ∧ v.getLsbD 0 = true ∧ s.pilot.enabled = false ∨ e = .pilotStop v ∧ v.getLsbD 0 = false ∨
      e = .pilotReplayUpdate v ∧ v.getLsbD 0 = true ∧ s.pilot.enabled = true) →
    exec e s = .next ({ s with pilotNet := s.pilotNet.eraseIdx n }.pilotControl v)) ∧
  (∀ (s : State) (v : Word),
    let u := s.pilotControl v
    (s.pilot.invalid v = true → u = s) ∧
    (s.pilot.invalid v = false → (v.getLsbD 0 = false ∨ s.pilot.enabled = true) →
      u = { s with pilot := s.pilot.put 0 (v &&& 0x0000FF03) }) ∧
    (s.pilot.invalid v = false → v.getLsbD 0 = true → s.pilot.enabled = false →
      u.pilot.word 0 = v &&& 0x0000FF03 ∧ u.pilot.everOn = true ∧ u.pilot.interval = 1 ∧
      (∀ k, k < 16 → u.pilot.word (0x0330 + k) = s.pilot.word (0x0320 + k)) ∧
      (∀ k, k < 6 → u.pilot.word (0x2000 + k) = 0) ∧ u.teams = s.teams ∧
      ∀ x, x ≠ 0 → (x < 0x0330 ∨ 0x0340 ≤ x) → (x < 0x2000 ∨ 0x2006 ≤ x) → u.pilot.word x = s.pilot.word x))

/-- R358, R376, R377: at the boundary that ends an interval the Pilot decides, counts the decision and
begins the next interval with sensors cleared; the sensor of KIND 8 is the step at which its tenant is throttled
(R372, R375). The greedy action is the lowest with the largest Q of the
state. An action's knobs are taken only when every envelope row holds for them; else the knobs stand and
the refusal is counted. -/
def Claims.PilotDecisions : Prop :=
  (∀ (s : State) (temp : Int),
    s.disp.boundaryDue = true → s.disp.tickDue = false → s.decisionDue = true → s.pilot.ps < 256 →
    s.pilot.pa < 16 →
    ∃ u, exec (.pilotDecision temp) s = .next u ∧ u.teams = s.teams ∧ u.hbm = s.hbm ∧ u.disp = s.disp ∧
      u.pilot.interval = s.pilot.interval + 1 ∧ u.pilot.word 0x2001 = s.pilot.word 0x2001 + 1 ∧
      (∀ x, (x < 0x0330 ∧ x ≠ 0) ∨ 0x3000 ≤ x → u.pilot.word x = s.pilot.word x) ∧
      u.pilot.energyFrom = s.disp.periodEnd ∧
      ∀ fn f, tfind s.funcs fn = some f → u.func fn = { f with hist := [], tokens := 0, borrowed := 0, work := 0 }) ∧
  (∀ (s : State) (temp : Int), s.pilot.energyFrom = s.disp.periodFrom →
    s.measure temp 0x500 = s.measure temp 0x600) ∧
  (∀ (s : State) (temp : Int) (t : Nat), 1 ≤ t → t < 64 →
    let f := s.func t
    (f.flags.getLsbD 2 = true → s.measure temp (0x800 + t) = 0) ∧
      (f.flags.getLsbD 2 = false → (Capped s → s.measure temp (0x800 + t) = 15) ∧
        (¬ Capped s → s.measure temp (0x800 + t) = (f.step : Int)))) ∧
  (∀ (p : Pilot) (x limit : Nat), (p.word x).toInt ≤ 0 → p.count x limit = 0) ∧
  (∀ (p : Pilot) (st a : Nat), a < p.nActions →
    p.bestAction st < p.nActions ∧ p.q st a ≤ p.q st (p.bestAction st) ∧
      (p.q st a = p.q st (p.bestAction st) → p.bestAction st ≤ a)) ∧
  (∀ (p : Pilot) (st a n : Nat), n < 16 →
    let v := if n < p.nKnobs then
        max (-2147483648) (min 2147483647 (p.knob n + (p.word (0x0200 + 16 * a + n)).toInt)) else p.knob n
    let u := p.act st a
    ((∀ e, e < p.nEnvelope → p.holds (p.candidate a) e = true) → u.knob n = v ∧
      u.word 0x2002 = p.word 0x2002 ∧ u.prevRefused = false) ∧
    ((∃ e, e < p.nEnvelope ∧ p.holds (p.candidate a) e = false) → u.knob n = p.knob n ∧
      u.word 0x2002 = p.word 0x2002 + 1 ∧ u.word 0x2005 = BitVec.ofNat 32 p.interval ∧ u.prevRefused = true)) ∧
  (∀ (p : Pilot) (sens : List Int), p.stateOf sens < p.nStates)

end Sys2Proof

/-- R354 to R358, R374 to R377: what the Pilot does. The bits that a word keeps of a write, a negative count acting
as 0 and the state of the first decision are the model's reading (logs 43, 80), and so is the rest of what is
settled for the Pilot (logs 44, 57). -/
def Obligations.PilotSteps : Prop :=
  Claims.PilotAccesses ∧ Claims.PilotDecisions

namespace Sys2Proof

/-! ### Functions, registers, start-up and links -/

/-- The registers of a context that its creation loads from the administration block (R383). -/
def Created (f : Func) (g : Func) : Prop :=
  g.exists_ = true ∧ g.ptbase = f.ptbaseReg ∧ g.codebase = f.codebaseReg ∧ g.svtab = f.svtabReg &&& 0xFFFFFF00 ∧
    g.tdeleg = 0 ∧ g.memmode = 0 ∧ g.ctxbuf = 0 ∧ g.hangwd = 0 ∧ g.tracectl = 0 ∧ g.requests = [] ∧
    g.overflow = false ∧ g.refused = false ∧ g.drops = 0

/-- Nothing of a context is left in the device, and its carve-out is to be scrubbed (R322, R323). -/
def Gone (s u : State) (fn : Nat) : Prop :=
  (∀ t ∈ u.teams, t.ctx ≠ fn + 1) ∧ (∀ g ∈ u.grids, g.ctx ≠ fn + 1) ∧ (∀ o ∈ u.copies, o.ctx ≠ fn + 1) ∧
    (∀ l ∈ u.tlb, l.ctx ≠ fn + 1) ∧ (∀ l ∈ u.walks, l.ctx ≠ fn + 1) ∧ (∀ x ∈ u.faults, x.2.1 ≠ fn + 1) ∧
    (∀ k t, s.team? k = some t → t.ctx ≠ fn + 1 → DistinctTeams s → u.team? k = some t) ∧
    ∀ n, n < (s.func fn).segsize.toNat → (s.func fn).segbase.toNat + n ∈ u.scrub

/-- R322, R323, R382, R383: a context is created from its function's administration block when ENABLE
rises; it is destroyed when ENABLE falls, unless the function is busy; a function-level reset destroys
it, and creates it again while ENABLE is 1. -/
def Claims.Contexts : Prop :=
  (∀ (s : State) (fn : Nat), fn < 64 → (s.func fn).flags.getLsbD 0 = false → s.busyFunc fn = false →
    ∃ u, exec (.contextCreate fn) s = .next u ∧ Created (s.func fn) (u.func fn) ∧
      (u.func fn).flags = (s.func fn).flags &&& 7 ||| 1 ∧ { u with funcs := s.funcs } = s ∧
      ∀ k, k ≠ fn → u.func k = s.func k) ∧
  (∀ (s : State) (fn : Nat), fn < 64 → (s.func fn).flags.getLsbD 0 = true →
    (s.busyFunc fn = true → exec (.contextDestroy fn) s = .next s) ∧
    (s.busyFunc fn = false → ∃ u, exec (.contextDestroy fn) s = .next u ∧ Gone s u fn ∧
      (u.func fn).exists_ = false ∧ (u.func fn).flags.getLsbD 0 = false ∧ ∀ k, k ≠ fn → u.func k = s.func k)) ∧
  (∀ (s : State) (fn : Nat), fn < 64 →
    ∃ u, exec (.functionLevelReset fn) s = .next u ∧ Gone s u fn ∧
      (∀ k, k ≠ fn → u.func k = s.func k) ∧ (u.func fn).flags = (s.func fn).flags ∧
      ((s.func fn).flags.getLsbD 0 = true → Created (s.func fn) (u.func fn)) ∧
      ((s.func fn).flags.getLsbD 0 = false → (u.func fn).exists_ = false))

/-- Offsets of an administration block whose field reads back what was written (R382). -/
def plainField (o : Nat) : Prop := o ∈ [0x0C, 0x10, 0x18, 0x1C, 0x20, 0x24, 0x48, 0x4C, 0x50, 0x54, 0x58]

/-- A register or a record slot stands at the offset of a host write (R361, R363, R381, R382, R384 to R386, R389). -/
def holdsRegister (w : HostWrite) : Prop :=
  (w.bar2 = true ∧ w.off < 0x8000 ∧ w.off % 4096 ≤ 0xF80) ∨
  (w.bar2 = false ∧ (w.off = 0x29C ∨ w.fn = 0 ∧ (w.off ∈ [0x144, 0x2C4, 0x2C8, 0x2CC, 0xE020] ∨
    (0xE000 ≤ w.off ∧ w.off < 0xE020) ∨ (0xF000 ≤ w.off ∧ w.off < 0xF100) ∨
    (0x10000 ≤ w.off ∧ w.off < 0x14000 ∧ w.off % 256 ∈ [0x00, 0x04, 0x08, 0x0C, 0x10, 0x18, 0x1C, 0x20, 0x24, 0x30,
      0x38, 0x3C, 0x40, 0x44, 0x48, 0x4C, 0x50, 0x54, 0x58, 0x5C]))))

/-- R381 to R386, R389, R391, R392: what a register write does: a field of an administration block reads
back the word, unless the function is busy and keeps it; a knob binding does while the Pilot is stopped;
a 1 clears the bits that are cleared so; REARM clears the failed-start count; EXTEND extends slot 5 by the
staged digest, and only while it is live. Other offsets are ignored. -/
def Claims.RegisterWrites : Prop :=
  (∀ (s : State) (w : HostWrite), w.fn < 64 → ∃ u, exec (.registerWrite w) s = .next u) ∧
  (∀ (s : State) (w : HostWrite), w.fn < 64 → (w.off % 4 ≠ 0 ∨ ¬ holdsRegister w) →
    ∃ u, exec (.registerWrite w) s = .next u ∧ { u with funcs := s.funcs } = s ∧ ∀ k, u.func k = s.func k) ∧
  (∀ (s : State) (n o : Nat) (v : Word), n < 64 → plainField o →
    let w : HostWrite := { fn := 0, bar2 := false, off := 0x10000 + 256 * n + o, value := v }
    let kept : Bool := s.busyFunc n && (o ≤ 0x10 || 0x38 ≤ o)
    ∃ u, exec (.registerWrite w) s = .next u ∧ u.teams = s.teams ∧ u.hbm = s.hbm ∧
      u.bar0Read 0 w.off = (if kept then s.bar0Read 0 w.off else v) ∧
      ∀ k, k ≠ n → u.func k = s.func k) ∧
  (∀ (s : State) (n o : Nat) (v : Word), n < 16 → o % 4 = 0 → o < 16 →
    let w : HostWrite := { fn := 0, bar2 := false, off := 0xF000 + 16 * n + o, value := v }
    ∃ u, exec (.registerWrite w) s = .next u ∧ { u with bindings := s.bindings } = s ∧
      u.bar0Read 0 w.off = (if s.pilot.enabled then s.bar0Read 0 w.off
        else if o = 0 then BitVec.ofNat 32 (v.toNat % 65536) else v) ∧
      ∀ k, k ≠ n → u.binding k = s.binding k) ∧
  (∀ (s : State) (fn a : Nat) (v : Word), fn < 64 → a < 8 →
    exec (.registerWrite { fn := fn, bar2 := true, off := 4096 * a + 0xF80, value := v }) s =
      .next (s.modFunc fn fun f => { f with overflow := f.overflow && !v.getLsbD 31
                                            refused := f.refused && !v.getLsbD 30 })) ∧
  (∀ (s : State), exec .rearm s = .next { s with boot := { s.boot with count := 0 } }) ∧
  (∀ (s : State),
    let live := s.boot.stage = .ready false ∧ s.boot.busy = false
    (¬ live → exec .extend s = .next s) ∧
    (live → ∃ u, exec .extend s = .next u ∧ { u with boot := s.boot } = s ∧
      u.boot.mslots = s.boot.mslots.set 5 (sha256 (s.boot.mslots.getD 5 [] ++ s.boot.digest)) ∧
      u.boot.extends_ = s.boot.extends_ + 1 ∧ u.boot.digest = List.replicate 32 0 ∧
      u.boot.count = s.boot.count ∧ u.boot.stage = s.boot.stage))

end Sys2Proof

/-- R322, R323, R381 to R386, R389, R392: contexts come and go, and registers are written. Readings: log 65. -/
def Obligations.HostRegisters : Prop :=
  Claims.Contexts ∧ Claims.RegisterWrites

namespace Sys2Proof

/-- The answer to each SPDM request (R390). -/
def spdmAnswer (b : Boot) : Instr → Option SpdmResponse
  | .getVersion => some (.version [(1, 3)])
  | .getCapabilities => some (.capabilities false false false)
  | .negotiateAlgorithms => some (.algorithms [.rsassa3072, .sha256])
  | .getDigests => some (.digests [sha256 Config.certificate])
  | .getCertificate => some (.certificate Config.certificate)
  | .challenge n => some (.challenge n)
  | .getMeasurements x =>
    some (.measurements (((List.range 8).map fun k => (k + 1, b.mslots.getD k [])).filter fun y => x == 0xFF || y.1 == x))
  | _ => none

/-- A start that fails for a reason (R391, R392): the count rises, to 255 at most, and the reason joins the
last two. -/
def failed (b : Boot) (code : Nat) : Boot :=
  { b with stage := .failed, count := min 255 (b.count + 1)
           reason := BitVec.ofNat 24 (b.reason.toNat * 256 + code) }

/-- A start whose next stage's image is measured into slot n and runs (R387, R388). -/
def staged (b : Boot) (n : Nat) (minimal : Bool) (image : List Byte) : Boot :=
  { b with
    mslots := b.mslots.set n (sha256 (b.mslots.getD n [] ++ sha256 image))
    stage := .stage (n + 1) minimal }

/-- What a stage's end makes of the start (R387, R391). -/
def handedOff (b : Boot) (n : Nat) (minimal : Bool) (image key sig : List Byte) : Boot :=
  if b.selfTest ≠ 0 then failed b (b.selfTest % 256)
  else if sha256 key = Config.fusedKeyHash ∧ Config.signatureGood image key sig = true then
    staged b n minimal image
  else failed b 1

/-- R385, R391, R392: the host links and clusters of a start, and the reason its training or self-test gives: a
link is down or runs at 32 or 128 GT/s, a minimal start at 32 at most, on one link and one cluster; main
memory, no cluster, and the links fail the start in that order. -/
def LinksTrained (b : Boot) (minimal : Prop) : Prop :=
  b.links.length = 2 ∧ (∀ x ∈ b.links, x.1 = 0 ∧ x.2 = 0 ∨ (x.1 = 5 ∨ x.1 = 7) ∧ 1 ≤ x.2 ∧ x.2 ≤ 16) ∧
    (minimal → (∀ x ∈ b.links, x.1 ≤ 5) ∧ (∃ x ∈ b.links, x.1 = 0) ∧
      ∀ j k, b.clusters.getLsbD j = true → b.clusters.getLsbD k = true → j = k) ∧
    b.selfTest ∈ [0, 3, 4, 5] ∧ (b.selfTest = 0 → b.clusters ≠ 0 ∧ (∃ x ∈ b.links, x.1 ≠ 0) ∧
      (¬ minimal → ∀ x ∈ b.links, x.1 ≠ 0)) ∧
    (b.selfTest = 4 → b.clusters = 0) ∧ (b.selfTest = 5 → ∃ x ∈ b.links, x.1 = 0)

/-- R387, R388, R390 to R392, R395: the management core's steps. A stage whose key and signature are good
is measured and starts, any other fails the start; READY extends slots 3 and 4 and, in a full start,
clears the count; a stage that takes too long, a thermal trip or a power fault fails the start, and a
thermal trip in service stops the device; while it runs it answers the SPDM requests, each response signed with
the identity key. -/
def Claims.StartUp : Prop :=
  (∀ (s : State) (image key sig : List Byte),
    ∃ u, exec (.powerOn image key sig) s = .next u ∧ u.teams = [] ∧ u.hbm = [] ∧ u.cores = [] ∧ u.funcs = [] ∧
      u.grids = [] ∧ u.net = [] ∧ u.hostMem = s.hostMem ∧
      (sha256 key = Config.fusedKeyHash → Config.signatureGood image key sig = true →
        u.boot.stage = .stage 1 (3 ≤ s.boot.count) ∧ u.boot.count = s.boot.count ∧
        u.boot.reason.toNat = (if s.boot.trip then (s.boot.reason.toNat * 256 + 8) % 2 ^ 24 else s.boot.reason.toNat) ∧
        LinksTrained u.boot (3 ≤ s.boot.count) ∧
        u.boot.mslots = (List.replicate 8 (List.replicate 32 0)).set 0
          (sha256 (List.replicate 32 0 ++ sha256 image))) ∧
      (¬ (sha256 key = Config.fusedKeyHash ∧ Config.signatureGood image key sig = true) →
        u.boot.stage = .failed ∧ u.boot.count = min 255 (s.boot.count + 1) ∧ u.boot.reason.toNat % 256 = 1)) ∧
  (∀ (s : State) (image key sig : List Byte) (n : Nat) (minimal : Bool),
    s.boot.stage = .stage n minimal → n < 3 →
    exec (.stageHandoff image key sig) s =
      .next { s with boot := handedOff s.boot n minimal image key sig }) ∧
  (∀ (s : State) (fuses : List Byte) (minimal : Bool), s.boot.stage = .stage 3 minimal →
    s.boot.mslots.length = 8 →
    ∃ u, exec (.ready fuses) s = .next u ∧ { u with boot := s.boot } = s ∧
      (s.boot.selfTest ≠ 0 → u.boot = failed s.boot (s.boot.selfTest % 256)) ∧
      (s.boot.selfTest = 0 → u.boot.stage = .ready minimal ∧
        u.boot.count = (if minimal then s.boot.count else 0) ∧ u.boot.reason = s.boot.reason ∧
        u.boot.mslots.getD 3 [] = sha256 (s.boot.mslots.getD 3 [] ++ sha256 fuses) ∧
        u.boot.mslots.getD 4 [] = sha256 (s.boot.mslots.getD 4 [] ++
          (leBytes 4 ((if minimal then 2 ^ 30 else 0) + u.boot.count % 256) ++ leBytes 4 s.boot.reason.toNat)) ∧
        ∀ k, k ≠ 3 → k ≠ 4 → u.boot.mslots.getD k [] = s.boot.mslots.getD k [])) ∧
  (∀ (s : State) (n : Nat) (minimal : Bool), s.boot.stage = .stage n minimal →
    exec .stageTimeLimit s = .next { s with boot := failed s.boot 2 } ∧
    exec .powerFault s = .next { s with boot := failed s.boot 6 } ∧
    exec .thermalTrip s = .next { s with boot := failed s.boot 7 }) ∧
  (∀ (s : State) (minimal : Bool), s.boot.stage = .ready minimal →
    exec .thermalTrip s = .next { s with boot := { s.boot with stage := .stopped, trip := true } }) ∧
  (∀ (s : State) (e : Instr) (r : SpdmResponse), spdmAnswer s.boot e = some r →
    (∃ n m, s.boot.stage = .stage n m) ∨ (∃ m, s.boot.stage = .ready m) →
    exec e s = .next { s with spdmOut := s.spdmOut ++ [{ response := r, signature := Config.deviceSign r.content }] })

/-- The receive slot of a function with a number (R394). -/
def slotBase (f : Func) (k : Nat) : Nat :=
  (f.segbase.toNat + f.crecvbase.toNat) * 65536 + k * (f.cslot.toNat * 4096)

/-- A contribution stands in a slot: its state word 1, its header and its payload (R394). -/
def Holds (u : State) (a : Nat) (c : Contribution) : Prop :=
  leNat (u.hbmBytes a 4) = 1 ∧ leNat (u.hbmBytes (a + 4) 2) = c.collective.toNat ∧
    leNat (u.hbmBytes (a + 6) 1) = c.link % 256 ∧ leNat (u.hbmBytes (a + 7) 1) = c.sender % 256 ∧
    leNat (u.hbmBytes (a + 8) 4) = c.round.toNat ∧ leNat (u.hbmBytes (a + 12) 4) = c.payload.length % 2 ^ 32 ∧
    u.hbmBytes (a + 64) c.payload.length = c.payload

/-- R323, R385, R391, R393, R394: a contribution that arrives over a link that is up takes the lowest free
slot of its function's window, or waits at its sender until one is free; a send that has waited 2^32
cycles counts a straggler and waits on; links go down and, outside minimal mode, come up; a unit whose
scrubbing has finished reads 0. -/
def Claims.LinksAndScrubbing : Prop :=
  (∀ (s : State) (c : Contribution) (k : Nat) (e : Instr) (rest : List Contribution),
    (e = .contributionArrival c.fn c.link c.sender c.collective c.round c.payload ∧ rest = s.waitingIn ∧
        c.link < 12 ∧ c.sender < 64 ∧ c.fn < 64 ∧ c.payload.length % 4 = 0 ∧ s.linkUp.getLsbD c.link = true) ∨
      (∃ n, e = .waitingContributionLands n ∧ s.waitingIn[n]? = some c ∧ rest = s.waitingIn.eraseIdx n) →
    s.receives c = true → s.freeSlot (s.func c.fn) = some k → s.scrub = [] →
    ∃ u, exec e s = .next u ∧ Holds u (slotBase (s.func c.fn) k) c ∧ u.waitingIn = rest ∧
      u.teams = s.teams ∧ ∀ a, (a < slotBase (s.func c.fn) k ∨
        slotBase (s.func c.fn) k + 64 + c.payload.length ≤ a) → u.hbmByte a = s.hbmByte a) ∧
  (∀ (s : State) (c : Contribution),
    c.link < 12 → c.sender < 64 → c.fn < 64 → c.payload.length % 4 = 0 → s.linkUp.getLsbD c.link = true →
    s.receives c = true → s.freeSlot (s.func c.fn) = none →
    exec (.contributionArrival c.fn c.link c.sender c.collective c.round c.payload) s =
      .next { s with waitingIn := s.waitingIn ++ [c] }) ∧
  (∀ (s : State) (n : Nat) (o : CopyOp), s.copies[n]? = some o → o.waitingPeer = true →
    ∃ u, exec (.stragglers n) s = .next u ∧ (u.func (o.ctx - 1)).stalled = true ∧
      (u.func (o.ctx - 1)).stragglers = min 0xFFFFFFFF ((s.func (o.ctx - 1)).stragglers + 1) ∧
      u.teams = s.teams ∧ u.hbm = s.hbm ∧ u.copies[n]? = some { o with waitingPeer := false }) ∧
  (∀ (s : State) (link : Nat), link < 12 → s.linkUp.getLsbD link = true →
    ∃ u, exec (.causewayLinkDown link) s = .next u ∧ { u with linkUp := s.linkUp } = s ∧
      ∀ k, k < 12 → u.linkUp.getLsbD k = (s.linkUp.getLsbD k && k != link)) ∧
  (∀ (s : State) (link : Nat), link < 12 → s.linkUp.getLsbD link = false →
    (∀ n, s.boot.stage ≠ .stage n true) → s.boot.stage ≠ .ready true →
    ∃ u, exec (.causewayLinkUp link) s = .next u ∧ { u with linkUp := s.linkUp } = s ∧
      ∀ k, k < 12 → u.linkUp.getLsbD k = (s.linkUp.getLsbD k || k == link)) ∧
  (∀ (s : State) (n : Nat), n ∈ s.scrub →
    ∃ u, exec (.scrubUnitFinished n) s = .next u ∧ n ∉ u.scrub ∧ u.teams = s.teams ∧
      (∀ a, a / 65536 = n → u.hbmByte a = 0 ∧ u.hbm.read a = 0 ∧ u.hbmTag (a / 32) = 0) ∧
      ∀ a, a / 65536 ≠ n → u.hbmByte a = s.hbmByte a)

end Sys2Proof

/-- R323, R385, R387 to R395: start-up, measurement, links and scrubbing. Readings: logs 62, 63, 64, 67. -/
def Obligations.StartAndLinks : Prop :=
  Claims.StartUp ∧ Claims.LinksAndScrubbing

namespace Sys2Proof

/-! ### The step -/

end Sys2Proof

/-- R26, R48, R93, R85: a step that takes the current group's word runs exactly the instruction that its
word decodes to, and time passes; while a name it reads is pending the group parks instead; a word that
does not decode traps. A free step takes one of the enabled steps, every group that the arbiters choose
among them, and an enabled event does what `exec` says; a word that has left its slot adds to the energy alone.
Time moves clocks, counters and charges, and the errors of R301, alone: no memory, no packet, and nothing of a
group but its watchdog. The model's reading: a stopped device takes the next start and nothing else (log 82), a
word waits for a name that is still to be written (log 85), and steps, choices and errors are logs 3, 5, 8
and 28. -/
def Obligations.StepRunsDecoded : Prop :=
  (∀ (s t : State) (i : Instr), s.stopped = false → s.choice = 1 → s.cl.instr = .ok i →
    let held : Prop := s.cg.park = .none ∧
      ((∃ n ∈ readNames i, s.cg.busy n = true) ∨ ∃ n ∈ writeNames i, s.cg.unreturned n = true)
    (held → step s = .next (s.slotUsed (s.modCg fun g => { g with park := .scoreboard })).passTime) ∧
    (¬ held → exec i s = .next t → step s = .next (s.slotUsed t).passTime)) ∧
  (∀ (s : State) (e : DecodeError), s.stopped = false → s.choice = 1 → s.cl.instr = .error e →
    step s = .next (s.slotUsed
      (s.decodeTrap s.curTeam s.curGroup s.cl.issue s.cl.hdr (decodeCode e) s.cl.word s.cl.here)).passTime) ∧
  (∀ (s t : State), { s.slotUsed t with energy := t.energy } = t) ∧
  (∀ (s t : State) (n : Nat) (a : Action), s.stopped = false → s.choice = n + 2 → n < s.actions.length →
    s.actions[n]? = some a → s.perform a = .next t → step s = .next t.passTime) ∧
  (∀ (s t : State) (e : Instr), exec e s = .next t → e ∈ s.events → .event e ∈ s.actions ∧
    (s.inbox = [] → s.perform (.event e) = .next { t with inbox := [] })) ∧
  (∀ (s : State) (a : Nat × Nat), a ∈ s.arbiter → .issue a.1 a.2 ∈ s.actions ∧
    ∀ t, { s with curTeam := a.1, curGroup := a.2 }.issueWord = .next t →
      s.perform (.issue a.1 a.2) = .next ({ s with curTeam := a.1, curGroup := a.2 }.slotUsed t)) ∧
  (∀ (s : State), s.stopped = true →
    (s.inbox = [] → step s = .next s.passTime) ∧
    (∀ e rest, s.inbox = e :: rest → (∀ image key sig, e ≠ .powerOn image key sig) →
      step s = .next ({ s with inbox := rest }).passTime) ∧
    ∀ image key sig rest t, s.inbox = .powerOn image key sig :: rest → exec (.powerOn image key sig) s = .next t →
      step s = .next ({ t with inbox := rest }).passTime) ∧
  (∀ (s : State), s.passTime.hbm = s.hbm ∧ s.passTime.hostMem = s.hostMem ∧ s.passTime.net = s.net ∧
    s.passTime.copies = s.copies ∧ s.passTime.tick = s.tick + 1 ∧
    s.passTime.teams.map (fun t => { t with stop := .none, groups := [] }) =
      s.teams.map (fun t => { t with stop := .none, groups := [] }) ∧
    s.passTime.teams.map (fun t => t.groups.map fun g => { g with watchdog := 0 }) =
      s.teams.map (fun t => t.groups.map fun g => { g with watchdog := 0 })) ∧
  (∀ (nbits w : Nat) (i : Instr), decodeTableWord nbits w = some i →
    (State.reset.withFetchWord nbits w).choice = 1 ∧ (State.reset.withFetchWord nbits w).cl.instr = .ok i)

namespace Sys2Proof

/-- An instruction with an encoding: every row of the table but the events. -/
def encodable (i : Instr) : Prop := encode i ≠ (0, 0) ∨ ∃ m, i = .nop m

end Sys2Proof

/-- The model's own totality, over R85 and R301: in every state every instruction answers a next state, a
trap where the specification raises one, and every step of the device answers a next state. Readings: log 3. -/
def Obligations.StepAnswers : Prop :=
  (∀ (i : Instr) (s : State), encodable i → ∃ t, exec i s = .next t) ∧
  (∀ (s : State), ∃ t, step s = .next t)

/-- Memory of every kind keeps its canonical form: addresses rising, no entry equal to what an unlisted
address reads as; every step keeps it. The form is the model's own (log 2). -/
def Obligations.MemoryInvariant : Prop :=
  ∀ (s t : State), Inv s → step s = .next t → Inv t

/-- R78 to R85: the bytes of a well-formed instruction's words, low byte first, decode to that instruction
and leave what follows; and what decodes is well formed and encodes to the words it was read from, so
that no word has two meanings. -/
def Obligations.CodecRoundTrip : Prop :=
  (∀ (i : Instr) (rest : List Byte), encodable i → wellFormed i = true →
    decodeBytes (wordBytes (encode i).1 ++
      (if isFx ((encode i).1 / 2 ^ 24) then wordBytes (encode i).2 else []) ++ rest) = .ok (i, rest)) ∧
  (∀ (w x : Nat) (i : Instr), decodeWords w x = .ok i →
    wellFormed i = true ∧ encode i = (w, if isFx (w / 2 ^ 24) then x else 0))

namespace Sys2Proof

/-- The low bits of an unguarded and of a guarded word without reuse and marker (R78). -/
abbrev noMods : Mods := { g := false, r := false, s := false }
abbrev guardedOnly : Mods := { g := true, r := false, s := false }

/-- `[s16 + g3 + off]` in team memory. -/
abbrev at16 (off : BitVec 11) : Addr := { a := 3, base := 16, sp := .tm, bx := true, ix := true, off := off }

end Sys2Proof

/-- Words printed in the specification decode to the instructions beside which they are printed (R78 to
R84, R104, R109, R115, R118 to R120, R124 to R134, R197 to R214, R270 to R279, R342 to R354). -/
def Obligations.PrintedWords : Prop :=
  (decodeWords 0x00000000 0).toOption = some (.nop noMods) ∧
  (decodeWords 0x27000000 0x10).toOption = some (.movi 0 16 noMods) ∧
  (decodeWords 0x2C000400 0x00180200).toOption = some (.isetp 3 1 0 .lt .i32 noMods) ∧
  (decodeWords 0x290C0820 0x4002).toOption = some (.lea { d := 6, a := 2, b := 4, m := noMods } 0x40 2) ∧
  (decodeWords 0x330A0410 0x06043000).toOption = some (.ffma { d := 5, a := 1, b := 2, c := 3, m := noMods } .ru) ∧
  (decodeWords 0x38000410 0x00340A00).toOption = some (.fsetp 6 1 2 (.unord .lt) noMods) ∧
  (decodeWords 0x48101090 0).toOption = some (.pand { pd := 4, pa := 1, na := false, pb := 2, nb := true, m := noMods }) ∧
  (decodeWords 0x600C0800 0x321).toOption = some (.shfl { d := 6, a := 2, b := 0, m := noMods } 0 .mirror true 1) ∧
  (decodeWords 0x800A0C00 0x41030000).toOption = some (.ld 5 (at16 0) .i32 .v1 none false noMods) ∧
  (decodeWords 0x81000C40 0x4103000C).toOption = some (.st 8 (at16 12) .i32 .v1 none noMods) ∧
  (decodeWords 0x88200000 0).toOption = some (.fence .team noMods) ∧
  (decodeWords 0x8B0A1048 0).toOption = some (.tagptr { d := 5, a := 4, b := 9, m := noMods }) ∧
  (decodeWords 0xC4080818 0).toOption = some (.launch { d := 4, a := 2, b := 3, m := noMods }) ∧
  (decodeWords 0xD0000700 0).toOption = some (.trap 7 noMods) ∧
  (decodeWords 0xD1000000 0).toOption = some (.eret noMods) ∧
  (decodeWords 0xD2408008 0).toOption = some (.sread (.s 1) .grpid noMods) ∧
  (decodeWords 0xD38101D0 0).toOption = some (.swrite (.k 2) .ctxbuflo noMods) ∧
  (decodeWords 0xD4001030 0x64800000).toOption = some (.watch .team .w .tm 2 4 6 noMods) ∧
  (decodeWords 0xD75E0000 0x80000000).toOption = some (.ctxsaveDump { p := 47, m := noMods }) ∧
  (decodeWords 0xDF001800 0x40000000).toOption = some (.tlbinvPage 6 noMods) ∧
  (decodeWords 0xBA005804 0).toOption = some (.ferry { a := 22, m := guardedOnly })

namespace Sys2Proof

/-- What reset leaves (R217, R233, R353, R356, R357, R388): no team; on every core the store owned by no
context, the serial counter at 1 and the counters at 0; every Pilot word 0; every measurement slot 32
zero bytes. -/
def Claims.ResetState : Prop :=
  State.reset.teams = [] ∧
  (∀ c, (State.reset.core c).accowner = 0 ∧ (State.reset.core c).serial = 1 ∧ (State.reset.core c).cycles = 0 ∧
    (State.reset.core c).msteps = 0 ∧ (State.reset.core c).chunks = 0) ∧
  (∀ x, State.reset.pilot.word x = 0) ∧
  (∀ i, i < 8 → State.reset.boot.mslots.getD i [] = List.replicate 32 0) ∧
  (∀ fn, (State.reset.func fn).exists_ = false)

/-- Memory of every kind has its canonical form at reset, and a group at its placement has the values that
R13, R27, R33, R102, R122, R165, R252, R290 and R341 give it. -/
def Claims.InitialForms : Prop :=
  Inv State.reset ∧
  ∀ (index role slot gen port budget spill l : Nat) (entry : Word),
    let g := Group.placed index role slot gen port budget entry spill
    l < 32 →
      (g.lane l).st = .ready ∧ (g.lane l).pc = entry ∧ (g.lane l).lsp.toNat = spill / 4 % 2 ^ 13 ∧
      g.limit.toNat = 2048 ∧ g.fpflags = 0 ∧ g.rngseed = 0 ∧ g.qovf = false ∧ g.exmask = 0 ∧ g.acclim = 0 ∧
      g.accbase = 0 ∧ g.wflags = 0 ∧ g.chprogWord = 0 ∧ g.capsel.toNat * 4 = 0x100 ∧
      ∀ n, g.read n l = match n with | .p 0 => 1 | _ => 0

end Sys2Proof

/-- R13, R27, R33, R102, R122, R165, R217, R233, R252, R290, R341, R353, R356, R388: what reset and
placement leave; memory then has its form (log 2). -/
def Obligations.InitialState : Prop :=
  Claims.ResetState ∧ Claims.InitialForms

end
end

