-- ==== Sys2Proof/Laws/Table.lean ====
section
/-! SUPPORT. Laws of sparse storage: reading after writing, and the canonical form that every update
keeps; the same of bytes of memory; masks and their lanes. -/

namespace Sys2Proof.Machine

variable {α : Type}

/-! ### Lookup after update -/

theorem tfind_tins (t : Table α) (k j : Nat) (v : α) :
    tfind (tins t k v) j = if j = k then some v else tfind t j := by
  induction t with
  | nil => simp [tins, tfind]
  | cons e r ih =>
    obtain ⟨k', v'⟩ := e
    unfold tins
    split
    · simp [tfind]
    · split
      · rename_i h; subst h
        by_cases hj : j = k <;> simp [tfind, hj]
      · rename_i hlt hne
        by_cases hj : j = k'
        · have : ¬ j = k := by omega
          simp [tfind, hj, Ne.symm hne]
        · simp [tfind, hj, ih]

theorem tfind_tdel (t : Table α) (k j : Nat) :
    tfind (tdel t k) j = if j = k then none else tfind t j := by
  induction t with
  | nil => simp [tdel, tfind]
  | cons e r ih =>
    obtain ⟨k', v'⟩ := e
    unfold tdel
    split
    · rename_i h; subst h
      rw [ih, tfind]
      by_cases hj : j = k <;> simp [hj]
    · rename_i hne
      by_cases hj : j = k'
      · subst hj; simp [tfind, Ne.symm hne]
      · simp [tfind, hj, ih]

/-- Reading a table after a write: the value at the key written, every other key as before. -/
@[simp] theorem tget_tput [DecidableEq α] (d : α) (t : Table α) (k j : Nat) (v : α) :
    tget d (tput d t k v) j = if j = k then v else tget d t j := by
  unfold tget tput
  split
  · rename_i h; subst h
    rw [tfind_tdel]; split <;> simp
  · rw [tfind_tins]; split <;> simp

/-- The other key, for rewriting with a side condition. -/
theorem tget_tput_of_ne [DecidableEq α] {d : α} {t : Table α} {k j : Nat} {v : α} (h : j ≠ k) :
    tget d (tput d t k v) j = tget d t j := by simp [h]

@[simp] theorem tget_nil (d : α) (k : Nat) : tget d [] k = d := rfl

/-! ### Canonical form -/

theorem risingFrom_mono {t : Table α} {a b : Nat} (h : a ≤ b) (hb : risingFrom b t = true) :
    risingFrom a t = true := by
  cases t with
  | nil => rfl
  | cons e r =>
    obtain ⟨k, v⟩ := e
    simp [risingFrom] at hb ⊢
    exact ⟨by omega, hb.2⟩

theorem risingFrom_tins {t : Table α} {lo k : Nat} {v : α} (hlo : lo ≤ k)
    (h : risingFrom lo t = true) : risingFrom lo (tins t k v) = true := by
  induction t generalizing lo with
  | nil => simp [tins, risingFrom, hlo]
  | cons e r ih =>
    obtain ⟨k', v'⟩ := e
    simp [risingFrom] at h
    unfold tins
    split
    · rename_i hlt
      simp [risingFrom, hlo]
      exact ⟨by omega, h.2⟩
    · split
      · rename_i heq; subst heq
        simp [risingFrom, hlo, h.2]
      · simp [risingFrom, h.1]
        exact ih (by omega) h.2

theorem risingFrom_tdel {t : Table α} {lo k : Nat} (h : risingFrom lo t = true) :
    risingFrom lo (tdel t k) = true := by
  induction t generalizing lo with
  | nil => rfl
  | cons e r ih =>
    obtain ⟨k', v'⟩ := e
    simp [risingFrom] at h
    unfold tdel
    split
    · exact risingFrom_mono (by omega) (ih h.2)
    · simp [risingFrom, h.1, ih h.2]

theorem risingFrom_filter {t : Table α} {lo : Nat} (p : Nat × α → Bool) (h : risingFrom lo t = true) :
    risingFrom lo (t.filter p) = true := by
  induction t generalizing lo with
  | nil => rfl
  | cons e r ih =>
    obtain ⟨k', v'⟩ := e
    simp [risingFrom] at h
    rw [List.filter_cons]
    split
    · simp [risingFrom, h.1, ih h.2]
    · exact risingFrom_mono (by omega) (ih h.2)

theorem mem_tins {t : Table α} {k : Nat} {v : α} {e : Nat × α} (h : e ∈ tins t k v) :
    e = (k, v) ∨ e ∈ t := by
  revert h
  fun_induction tins t k v <;> grind

theorem mem_tdel {t : Table α} {k : Nat} {e : Nat × α} (h : e ∈ tdel t k) : e ∈ t := by
  revert h
  fun_induction tdel t k <;> grind

/-- A key that is found is listed. -/
theorem tfind_mem {t : Table α} {k : Nat} {v : α} (h : tfind t k = some v) : (k, v) ∈ t := by
  revert h
  fun_induction tfind t k <;> grind

theorem canonical_iff [DecidableEq α] {d : α} {t : Table α} :
    Table.canonical d t = true ↔ risingFrom 0 t = true ∧ ∀ e ∈ t, e.2 ≠ d := by
  simp [Table.canonical, rising]

/-- A write keeps the canonical form. -/
theorem canonical_tput [DecidableEq α] {d : α} {t : Table α} (k : Nat) (v : α)
    (h : Table.canonical d t = true) : Table.canonical d (tput d t k v) = true := by
  rw [canonical_iff] at h ⊢
  unfold tput
  split
  · exact ⟨risingFrom_tdel h.1, fun e he => h.2 e (mem_tdel he)⟩
  · rename_i hv
    refine ⟨risingFrom_tins (Nat.zero_le k) h.1, fun e he => ?_⟩
    rcases mem_tins he with rfl | he
    · exact hv
    · exact h.2 e he

/-! ### Memory -/

@[simp] theorem Memory.read_write (m : Memory) (a b : Nat) (v : Byte) :
    (m.write a v).read b = if b = a then v else m.read b := tget_tput _ _ _ _ _

@[simp] theorem Memory.read_nil (a : Nat) : Memory.read [] a = 0 := rfl

theorem Memory.wf_nil : Memory.wf [] = true := rfl

theorem Memory.wf_write {m : Memory} (a : Nat) (v : Byte) (h : m.wf = true) :
    (m.write a v).wf = true := canonical_tput a v h

theorem Memory.wf_writeN {m : Memory} (a : Nat) (bs : List Byte) (h : m.wf = true) :
    (m.writeN a bs).wf = true := by
  induction bs generalizing m a with
  | nil => exact h
  | cons b r ih => exact ih (a + 1) (Memory.wf_write a b h)

theorem Memory.wf_clear {m : Memory} (a n : Nat) (h : m.wf = true) : (m.clear a n).wf = true := by
  unfold Memory.wf at h ⊢
  rw [canonical_iff] at h ⊢
  exact ⟨risingFrom_filter _ h.1, fun e he => h.2 e (List.mem_filter.mp he).1⟩

/-- Reading a byte after a run of bytes was written: the byte of the run, or what stood there. -/
theorem Memory.read_writeN (m : Memory) (a b : Nat) (bs : List Byte) :
    (m.writeN a bs).read b = if a ≤ b ∧ b < a + bs.length then bs.getD (b - a) 0 else m.read b := by
  induction bs generalizing m a with
  | nil =>
    have : ¬ (a ≤ b ∧ b < a + ([] : List Byte).length) := by simp only [List.length_nil]; omega
    rw [if_neg this]; rfl
  | cons x r ih =>
    rw [Memory.writeN, ih]
    by_cases h : b = a
    · subst h
      have : ¬ (b + 1 ≤ b ∧ b < b + 1 + r.length) := by omega
      rw [if_neg this]; simp
    · by_cases h2 : a + 1 ≤ b ∧ b < a + 1 + r.length
      · have h3 : a ≤ b ∧ b < a + (x :: r).length := by simp only [List.length_cons]; omega
        rw [if_pos h2, if_pos h3]
        obtain ⟨c, hc⟩ : ∃ c, b - a = c + 1 := ⟨b - a - 1, by omega⟩
        have : b - (a + 1) = c := by omega
        rw [hc, this]; rfl
      · have h3 : ¬ (a ≤ b ∧ b < a + (x :: r).length) := by simp only [List.length_cons]; omega
        rw [if_neg h2, if_neg h3]
        simp [h]

/-! ### Masks -/

theorem foldl_or_getLsbD (p : Nat → Bool) (ls : List Nat) (m : Mask) (l : Nat)
    (h : ∀ x ∈ ls, x < 32) :
    (ls.foldl (fun m x => if p x then m ||| (1#32 <<< x) else m) m).getLsbD l =
      (m.getLsbD l || (decide (l ∈ ls) && p l)) := by
  induction ls generalizing m with
  | nil => simp
  | cons x r ih =>
    have hx : x < 32 := h x List.mem_cons_self
    rw [List.foldl_cons, ih _ (fun y hy => h y (List.mem_cons_of_mem _ hy))]
    by_cases hl : l = x
    · subst hl
      by_cases hp : p l = true
      · simp [hp, hx]
      · simp [hp]
    · by_cases hp : p x = true
      · have h0 : (1#32 <<< x).getLsbD l = false := by
          rw [BitVec.getLsbD_shiftLeft]
          by_cases h1 : l < x
          · simp [h1]
          · have : l - x ≠ 0 := by omega
            simp [BitVec.getLsbD_one, this]
        simp [hp, h0, hl, BitVec.getLsbD_or]
      · simp [hp, hl]

/-- A lane is in a mask of lanes that satisfy a condition exactly when it satisfies it. -/
@[simp] theorem getLsbD_maskOf (p : Nat → Bool) (l : Nat) :
    (maskOf p).getLsbD l = (decide (l < 32) && p l) := by
  unfold maskOf
  rw [foldl_or_getLsbD _ _ _ _ (by simp)]
  simp

@[simp] theorem mem_lanesOf (m : Mask) (l : Nat) : l ∈ lanesOf m ↔ m.getLsbD l = true := by
  unfold lanesOf
  simp only [List.mem_filter, List.mem_range, and_iff_right_iff_imp]
  intro h
  refine Decidable.byContradiction fun hl => ?_
  have := BitVec.getLsbD_of_ge m l (by omega)
  simp [this] at h

theorem nodup_lanesOf (m : Mask) : (lanesOf m).Nodup := List.nodup_range.filter _

/-- A mask is the mask of its own lanes. -/
@[simp] theorem maskOf_getLsbD (m : Mask) : maskOf (fun l => m.getLsbD l) = m := by
  apply BitVec.eq_of_getLsbD_eq
  intro l hl
  rw [getLsbD_maskOf]
  simp [hl]

theorem lanesOf_eq_nil {m : Mask} : lanesOf m = [] ↔ m = 0 := by
  constructor
  · intro h
    apply BitVec.eq_of_getLsbD_eq
    intro l _
    refine Decidable.byContradiction fun hc => ?_
    have : l ∈ lanesOf m := by simpa using hc
    simp [h] at this
  · rintro rfl; rfl

/-! ### Little-endian values -/

@[simp] theorem leBytes_length (n v : Nat) : (leBytes n v).length = n := by
  induction n generalizing v with
  | zero => rfl
  | succ n ih => simp [leBytes, ih]

/-- The bytes of a value read back as the value modulo their number (R4). -/
theorem leNat_leBytes (n v : Nat) : leNat (leBytes n v) = v % 256 ^ n := by
  induction n generalizing v with
  | zero => simp [leBytes, leNat, Nat.mod_one]
  | succ n ih =>
    rw [leBytes, leNat, ih, BitVec.toNat_ofNat]
    have h : v % 256 ^ (n + 1) = v % 256 + 256 * (v / 256 % 256 ^ n) := by
      rw [Nat.pow_succ, Nat.mul_comm, Nat.mod_mul]
    omega

end Sys2Proof.Machine
end

