-- ==== Sys2Proof/Laws/State.lean ====
section
/-! SUPPORT. Laws of the state's updates: each field after each update, and the registers, lanes and
groups read after a write. -/

namespace Sys2Proof.Machine

/-! ### Changes of a team, group, core, function or grid -/

@[simp] theorem State.modTeam_curTeam (s : State) (k f) : (s.modTeam k f).curTeam = s.curTeam := rfl
@[simp] theorem State.modTeam_curGroup (s : State) (k f) : (s.modTeam k f).curGroup = s.curGroup := rfl
@[simp] theorem State.modTeam_choice (s : State) (k f) : (s.modTeam k f).choice = s.choice := rfl
@[simp] theorem State.modTeam_tick (s : State) (k f) : (s.modTeam k f).tick = s.tick := rfl
@[simp] theorem State.modTeam_fresh (s : State) (k f) : (s.modTeam k f).fresh = s.fresh := rfl
@[simp] theorem State.modTeam_inbox (s : State) (k f) : (s.modTeam k f).inbox = s.inbox := rfl
@[simp] theorem State.modTeam_cores (s : State) (k f) : (s.modTeam k f).cores = s.cores := rfl
@[simp] theorem State.modTeam_funcs (s : State) (k f) : (s.modTeam k f).funcs = s.funcs := rfl
@[simp] theorem State.modTeam_grids (s : State) (k f) : (s.modTeam k f).grids = s.grids := rfl
@[simp] theorem State.modTeam_gridSerial (s : State) (k f) : (s.modTeam k f).gridSerial = s.gridSerial := rfl
@[simp] theorem State.modTeam_hbm (s : State) (k f) : (s.modTeam k f).hbm = s.hbm := rfl
@[simp] theorem State.modTeam_hbmTags (s : State) (k f) : (s.modTeam k f).hbmTags = s.hbmTags := rfl
@[simp] theorem State.modTeam_hostMem (s : State) (k f) : (s.modTeam k f).hostMem = s.hostMem := rfl
@[simp] theorem State.modTeam_capacity (s : State) (k f) : (s.modTeam k f).capacity = s.capacity := rfl
@[simp] theorem State.modTeam_sweeps (s : State) (k f) : (s.modTeam k f).sweeps = s.sweeps := rfl
@[simp] theorem State.modTeam_scrub (s : State) (k f) : (s.modTeam k f).scrub = s.scrub := rfl
@[simp] theorem State.modTeam_eccHbm (s : State) (k f) : (s.modTeam k f).eccHbm = s.eccHbm := rfl
@[simp] theorem State.modTeam_eccTm (s : State) (k f) : (s.modTeam k f).eccTm = s.eccTm := rfl
@[simp] theorem State.modTeam_eccRows (s : State) (k f) : (s.modTeam k f).eccRows = s.eccRows := rfl
@[simp] theorem State.modTeam_eccSk (s : State) (k f) : (s.modTeam k f).eccSk = s.eccSk := rfl
@[simp] theorem State.modTeam_eccRegs (s : State) (k f) : (s.modTeam k f).eccRegs = s.eccRegs := rfl
@[simp] theorem State.modTeam_poisonTm (s : State) (k f) : (s.modTeam k f).poisonTm = s.poisonTm := rfl
@[simp] theorem State.modTeam_poisonHbm (s : State) (k f) : (s.modTeam k f).poisonHbm = s.poisonHbm := rfl
@[simp] theorem State.modTeam_tlb (s : State) (k f) : (s.modTeam k f).tlb = s.tlb := rfl
@[simp] theorem State.modTeam_walks (s : State) (k f) : (s.modTeam k f).walks = s.walks := rfl
@[simp] theorem State.modTeam_keptSamples (s : State) (k f) : (s.modTeam k f).keptSamples = s.keptSamples := rfl
@[simp] theorem State.modTeam_net (s : State) (k f) : (s.modTeam k f).net = s.net := rfl
@[simp] theorem State.modTeam_copies (s : State) (k f) : (s.modTeam k f).copies = s.copies := rfl
@[simp] theorem State.modTeam_mmaxs (s : State) (k f) : (s.modTeam k f).mmaxs = s.mmaxs := rfl
@[simp] theorem State.modTeam_rowsInFlight (s : State) (k f) : (s.modTeam k f).rowsInFlight = s.rowsInFlight := rfl
@[simp] theorem State.modTeam_rowWrites (s : State) (k f) : (s.modTeam k f).rowWrites = s.rowWrites := rfl
@[simp] theorem State.modTeam_answers (s : State) (k f) : (s.modTeam k f).answers = s.answers := rfl
@[simp] theorem State.modTeam_lands (s : State) (k f) : (s.modTeam k f).lands = s.lands := rfl
@[simp] theorem State.modTeam_faults (s : State) (k f) : (s.modTeam k f).faults = s.faults := rfl
@[simp] theorem State.modTeam_pilotNet (s : State) (k f) : (s.modTeam k f).pilotNet = s.pilotNet := rfl
@[simp] theorem State.modTeam_pilot (s : State) (k f) : (s.modTeam k f).pilot = s.pilot := rfl
@[simp] theorem State.modTeam_bindings (s : State) (k f) : (s.modTeam k f).bindings = s.bindings := rfl
@[simp] theorem State.modTeam_disp (s : State) (k f) : (s.modTeam k f).disp = s.disp := rfl
@[simp] theorem State.modTeam_hists (s : State) (k f) : (s.modTeam k f).hists = s.hists := rfl
@[simp] theorem State.modTeam_energy (s : State) (k f) : (s.modTeam k f).energy = s.energy := rfl
@[simp] theorem State.modTeam_boot (s : State) (k f) : (s.modTeam k f).boot = s.boot := rfl
@[simp] theorem State.modTeam_spdmOut (s : State) (k f) : (s.modTeam k f).spdmOut = s.spdmOut := rfl
@[simp] theorem State.modTeam_linkUp (s : State) (k f) : (s.modTeam k f).linkUp = s.linkUp := rfl
@[simp] theorem State.modTeam_sent (s : State) (k f) : (s.modTeam k f).sent = s.sent := rfl
@[simp] theorem State.modTeam_waitingIn (s : State) (k f) : (s.modTeam k f).waitingIn = s.waitingIn := rfl
@[simp] theorem State.modGroup_curTeam (s : State) (k g f) : (s.modGroup k g f).curTeam = s.curTeam := rfl
@[simp] theorem State.modGroup_curGroup (s : State) (k g f) : (s.modGroup k g f).curGroup = s.curGroup := rfl
@[simp] theorem State.modGroup_choice (s : State) (k g f) : (s.modGroup k g f).choice = s.choice := rfl
@[simp] theorem State.modGroup_tick (s : State) (k g f) : (s.modGroup k g f).tick = s.tick := rfl
@[simp] theorem State.modGroup_fresh (s : State) (k g f) : (s.modGroup k g f).fresh = s.fresh := rfl
@[simp] theorem State.modGroup_inbox (s : State) (k g f) : (s.modGroup k g f).inbox = s.inbox := rfl
@[simp] theorem State.modGroup_cores (s : State) (k g f) : (s.modGroup k g f).cores = s.cores := rfl
@[simp] theorem State.modGroup_funcs (s : State) (k g f) : (s.modGroup k g f).funcs = s.funcs := rfl
@[simp] theorem State.modGroup_grids (s : State) (k g f) : (s.modGroup k g f).grids = s.grids := rfl
@[simp] theorem State.modGroup_gridSerial (s : State) (k g f) : (s.modGroup k g f).gridSerial = s.gridSerial := rfl
@[simp] theorem State.modGroup_hbm (s : State) (k g f) : (s.modGroup k g f).hbm = s.hbm := rfl
@[simp] theorem State.modGroup_hbmTags (s : State) (k g f) : (s.modGroup k g f).hbmTags = s.hbmTags := rfl
@[simp] theorem State.modGroup_hostMem (s : State) (k g f) : (s.modGroup k g f).hostMem = s.hostMem := rfl
@[simp] theorem State.modGroup_capacity (s : State) (k g f) : (s.modGroup k g f).capacity = s.capacity := rfl
@[simp] theorem State.modGroup_sweeps (s : State) (k g f) : (s.modGroup k g f).sweeps = s.sweeps := rfl
@[simp] theorem State.modGroup_scrub (s : State) (k g f) : (s.modGroup k g f).scrub = s.scrub := rfl
@[simp] theorem State.modGroup_eccHbm (s : State) (k g f) : (s.modGroup k g f).eccHbm = s.eccHbm := rfl
@[simp] theorem State.modGroup_eccTm (s : State) (k g f) : (s.modGroup k g f).eccTm = s.eccTm := rfl
@[simp] theorem State.modGroup_eccRows (s : State) (k g f) : (s.modGroup k g f).eccRows = s.eccRows := rfl
@[simp] theorem State.modGroup_eccSk (s : State) (k g f) : (s.modGroup k g f).eccSk = s.eccSk := rfl
@[simp] theorem State.modGroup_eccRegs (s : State) (k g f) : (s.modGroup k g f).eccRegs = s.eccRegs := rfl
@[simp] theorem State.modGroup_poisonTm (s : State) (k g f) : (s.modGroup k g f).poisonTm = s.poisonTm := rfl
@[simp] theorem State.modGroup_poisonHbm (s : State) (k g f) : (s.modGroup k g f).poisonHbm = s.poisonHbm := rfl
@[simp] theorem State.modGroup_tlb (s : State) (k g f) : (s.modGroup k g f).tlb = s.tlb := rfl
@[simp] theorem State.modGroup_walks (s : State) (k g f) : (s.modGroup k g f).walks = s.walks := rfl
@[simp] theorem State.modGroup_keptSamples (s : State) (k g f) : (s.modGroup k g f).keptSamples = s.keptSamples := rfl
@[simp] theorem State.modGroup_net (s : State) (k g f) : (s.modGroup k g f).net = s.net := rfl
@[simp] theorem State.modGroup_copies (s : State) (k g f) : (s.modGroup k g f).copies = s.copies := rfl
@[simp] theorem State.modGroup_mmaxs (s : State) (k g f) : (s.modGroup k g f).mmaxs = s.mmaxs := rfl
@[simp] theorem State.modGroup_rowsInFlight (s : State) (k g f) : (s.modGroup k g f).rowsInFlight = s.rowsInFlight := rfl
@[simp] theorem State.modGroup_rowWrites (s : State) (k g f) : (s.modGroup k g f).rowWrites = s.rowWrites := rfl
@[simp] theorem State.modGroup_answers (s : State) (k g f) : (s.modGroup k g f).answers = s.answers := rfl
@[simp] theorem State.modGroup_lands (s : State) (k g f) : (s.modGroup k g f).lands = s.lands := rfl
@[simp] theorem State.modGroup_faults (s : State) (k g f) : (s.modGroup k g f).faults = s.faults := rfl
@[simp] theorem State.modGroup_pilotNet (s : State) (k g f) : (s.modGroup k g f).pilotNet = s.pilotNet := rfl
@[simp] theorem State.modGroup_pilot (s : State) (k g f) : (s.modGroup k g f).pilot = s.pilot := rfl
@[simp] theorem State.modGroup_bindings (s : State) (k g f) : (s.modGroup k g f).bindings = s.bindings := rfl
@[simp] theorem State.modGroup_disp (s : State) (k g f) : (s.modGroup k g f).disp = s.disp := rfl
@[simp] theorem State.modGroup_hists (s : State) (k g f) : (s.modGroup k g f).hists = s.hists := rfl
@[simp] theorem State.modGroup_energy (s : State) (k g f) : (s.modGroup k g f).energy = s.energy := rfl
@[simp] theorem State.modGroup_boot (s : State) (k g f) : (s.modGroup k g f).boot = s.boot := rfl
@[simp] theorem State.modGroup_spdmOut (s : State) (k g f) : (s.modGroup k g f).spdmOut = s.spdmOut := rfl
@[simp] theorem State.modGroup_linkUp (s : State) (k g f) : (s.modGroup k g f).linkUp = s.linkUp := rfl
@[simp] theorem State.modGroup_sent (s : State) (k g f) : (s.modGroup k g f).sent = s.sent := rfl
@[simp] theorem State.modGroup_waitingIn (s : State) (k g f) : (s.modGroup k g f).waitingIn = s.waitingIn := rfl
@[simp] theorem State.modCg_curTeam (s : State) (f) : (s.modCg f).curTeam = s.curTeam := rfl
@[simp] theorem State.modCg_curGroup (s : State) (f) : (s.modCg f).curGroup = s.curGroup := rfl
@[simp] theorem State.modCg_choice (s : State) (f) : (s.modCg f).choice = s.choice := rfl
@[simp] theorem State.modCg_tick (s : State) (f) : (s.modCg f).tick = s.tick := rfl
@[simp] theorem State.modCg_fresh (s : State) (f) : (s.modCg f).fresh = s.fresh := rfl
@[simp] theorem State.modCg_inbox (s : State) (f) : (s.modCg f).inbox = s.inbox := rfl
@[simp] theorem State.modCg_cores (s : State) (f) : (s.modCg f).cores = s.cores := rfl
@[simp] theorem State.modCg_funcs (s : State) (f) : (s.modCg f).funcs = s.funcs := rfl
@[simp] theorem State.modCg_grids (s : State) (f) : (s.modCg f).grids = s.grids := rfl
@[simp] theorem State.modCg_gridSerial (s : State) (f) : (s.modCg f).gridSerial = s.gridSerial := rfl
@[simp] theorem State.modCg_hbm (s : State) (f) : (s.modCg f).hbm = s.hbm := rfl
@[simp] theorem State.modCg_hbmTags (s : State) (f) : (s.modCg f).hbmTags = s.hbmTags := rfl
@[simp] theorem State.modCg_hostMem (s : State) (f) : (s.modCg f).hostMem = s.hostMem := rfl
@[simp] theorem State.modCg_capacity (s : State) (f) : (s.modCg f).capacity = s.capacity := rfl
@[simp] theorem State.modCg_sweeps (s : State) (f) : (s.modCg f).sweeps = s.sweeps := rfl
@[simp] theorem State.modCg_scrub (s : State) (f) : (s.modCg f).scrub = s.scrub := rfl
@[simp] theorem State.modCg_eccHbm (s : State) (f) : (s.modCg f).eccHbm = s.eccHbm := rfl
@[simp] theorem State.modCg_eccTm (s : State) (f) : (s.modCg f).eccTm = s.eccTm := rfl
@[simp] theorem State.modCg_eccRows (s : State) (f) : (s.modCg f).eccRows = s.eccRows := rfl
@[simp] theorem State.modCg_eccSk (s : State) (f) : (s.modCg f).eccSk = s.eccSk := rfl
@[simp] theorem State.modCg_eccRegs (s : State) (f) : (s.modCg f).eccRegs = s.eccRegs := rfl
@[simp] theorem State.modCg_poisonTm (s : State) (f) : (s.modCg f).poisonTm = s.poisonTm := rfl
@[simp] theorem State.modCg_poisonHbm (s : State) (f) : (s.modCg f).poisonHbm = s.poisonHbm := rfl
@[simp] theorem State.modCg_tlb (s : State) (f) : (s.modCg f).tlb = s.tlb := rfl
@[simp] theorem State.modCg_walks (s : State) (f) : (s.modCg f).walks = s.walks := rfl
@[simp] theorem State.modCg_keptSamples (s : State) (f) : (s.modCg f).keptSamples = s.keptSamples := rfl
@[simp] theorem State.modCg_net (s : State) (f) : (s.modCg f).net = s.net := rfl
@[simp] theorem State.modCg_copies (s : State) (f) : (s.modCg f).copies = s.copies := rfl
@[simp] theorem State.modCg_mmaxs (s : State) (f) : (s.modCg f).mmaxs = s.mmaxs := rfl
@[simp] theorem State.modCg_rowsInFlight (s : State) (f) : (s.modCg f).rowsInFlight = s.rowsInFlight := rfl
@[simp] theorem State.modCg_rowWrites (s : State) (f) : (s.modCg f).rowWrites = s.rowWrites := rfl
@[simp] theorem State.modCg_answers (s : State) (f) : (s.modCg f).answers = s.answers := rfl
@[simp] theorem State.modCg_lands (s : State) (f) : (s.modCg f).lands = s.lands := rfl
@[simp] theorem State.modCg_faults (s : State) (f) : (s.modCg f).faults = s.faults := rfl
@[simp] theorem State.modCg_pilotNet (s : State) (f) : (s.modCg f).pilotNet = s.pilotNet := rfl
@[simp] theorem State.modCg_pilot (s : State) (f) : (s.modCg f).pilot = s.pilot := rfl
@[simp] theorem State.modCg_bindings (s : State) (f) : (s.modCg f).bindings = s.bindings := rfl
@[simp] theorem State.modCg_disp (s : State) (f) : (s.modCg f).disp = s.disp := rfl
@[simp] theorem State.modCg_hists (s : State) (f) : (s.modCg f).hists = s.hists := rfl
@[simp] theorem State.modCg_energy (s : State) (f) : (s.modCg f).energy = s.energy := rfl
@[simp] theorem State.modCg_boot (s : State) (f) : (s.modCg f).boot = s.boot := rfl
@[simp] theorem State.modCg_spdmOut (s : State) (f) : (s.modCg f).spdmOut = s.spdmOut := rfl
@[simp] theorem State.modCg_linkUp (s : State) (f) : (s.modCg f).linkUp = s.linkUp := rfl
@[simp] theorem State.modCg_sent (s : State) (f) : (s.modCg f).sent = s.sent := rfl
@[simp] theorem State.modCg_waitingIn (s : State) (f) : (s.modCg f).waitingIn = s.waitingIn := rfl
@[simp] theorem State.modCt_curTeam (s : State) (f) : (s.modCt f).curTeam = s.curTeam := rfl
@[simp] theorem State.modCt_curGroup (s : State) (f) : (s.modCt f).curGroup = s.curGroup := rfl
@[simp] theorem State.modCt_choice (s : State) (f) : (s.modCt f).choice = s.choice := rfl
@[simp] theorem State.modCt_tick (s : State) (f) : (s.modCt f).tick = s.tick := rfl
@[simp] theorem State.modCt_fresh (s : State) (f) : (s.modCt f).fresh = s.fresh := rfl
@[simp] theorem State.modCt_inbox (s : State) (f) : (s.modCt f).inbox = s.inbox := rfl
@[simp] theorem State.modCt_cores (s : State) (f) : (s.modCt f).cores = s.cores := rfl
@[simp] theorem State.modCt_funcs (s : State) (f) : (s.modCt f).funcs = s.funcs := rfl
@[simp] theorem State.modCt_grids (s : State) (f) : (s.modCt f).grids = s.grids := rfl
@[simp] theorem State.modCt_gridSerial (s : State) (f) : (s.modCt f).gridSerial = s.gridSerial := rfl
@[simp] theorem State.modCt_hbm (s : State) (f) : (s.modCt f).hbm = s.hbm := rfl
@[simp] theorem State.modCt_hbmTags (s : State) (f) : (s.modCt f).hbmTags = s.hbmTags := rfl
@[simp] theorem State.modCt_hostMem (s : State) (f) : (s.modCt f).hostMem = s.hostMem := rfl
@[simp] theorem State.modCt_capacity (s : State) (f) : (s.modCt f).capacity = s.capacity := rfl
@[simp] theorem State.modCt_sweeps (s : State) (f) : (s.modCt f).sweeps = s.sweeps := rfl
@[simp] theorem State.modCt_scrub (s : State) (f) : (s.modCt f).scrub = s.scrub := rfl
@[simp] theorem State.modCt_eccHbm (s : State) (f) : (s.modCt f).eccHbm = s.eccHbm := rfl
@[simp] theorem State.modCt_eccTm (s : State) (f) : (s.modCt f).eccTm = s.eccTm := rfl
@[simp] theorem State.modCt_eccRows (s : State) (f) : (s.modCt f).eccRows = s.eccRows := rfl
@[simp] theorem State.modCt_eccSk (s : State) (f) : (s.modCt f).eccSk = s.eccSk := rfl
@[simp] theorem State.modCt_eccRegs (s : State) (f) : (s.modCt f).eccRegs = s.eccRegs := rfl
@[simp] theorem State.modCt_poisonTm (s : State) (f) : (s.modCt f).poisonTm = s.poisonTm := rfl
@[simp] theorem State.modCt_poisonHbm (s : State) (f) : (s.modCt f).poisonHbm = s.poisonHbm := rfl
@[simp] theorem State.modCt_tlb (s : State) (f) : (s.modCt f).tlb = s.tlb := rfl
@[simp] theorem State.modCt_walks (s : State) (f) : (s.modCt f).walks = s.walks := rfl
@[simp] theorem State.modCt_keptSamples (s : State) (f) : (s.modCt f).keptSamples = s.keptSamples := rfl
@[simp] theorem State.modCt_net (s : State) (f) : (s.modCt f).net = s.net := rfl
@[simp] theorem State.modCt_copies (s : State) (f) : (s.modCt f).copies = s.copies := rfl
@[simp] theorem State.modCt_mmaxs (s : State) (f) : (s.modCt f).mmaxs = s.mmaxs := rfl
@[simp] theorem State.modCt_rowsInFlight (s : State) (f) : (s.modCt f).rowsInFlight = s.rowsInFlight := rfl
@[simp] theorem State.modCt_rowWrites (s : State) (f) : (s.modCt f).rowWrites = s.rowWrites := rfl
@[simp] theorem State.modCt_answers (s : State) (f) : (s.modCt f).answers = s.answers := rfl
@[simp] theorem State.modCt_lands (s : State) (f) : (s.modCt f).lands = s.lands := rfl
@[simp] theorem State.modCt_faults (s : State) (f) : (s.modCt f).faults = s.faults := rfl
@[simp] theorem State.modCt_pilotNet (s : State) (f) : (s.modCt f).pilotNet = s.pilotNet := rfl
@[simp] theorem State.modCt_pilot (s : State) (f) : (s.modCt f).pilot = s.pilot := rfl
@[simp] theorem State.modCt_bindings (s : State) (f) : (s.modCt f).bindings = s.bindings := rfl
@[simp] theorem State.modCt_disp (s : State) (f) : (s.modCt f).disp = s.disp := rfl
@[simp] theorem State.modCt_hists (s : State) (f) : (s.modCt f).hists = s.hists := rfl
@[simp] theorem State.modCt_energy (s : State) (f) : (s.modCt f).energy = s.energy := rfl
@[simp] theorem State.modCt_boot (s : State) (f) : (s.modCt f).boot = s.boot := rfl
@[simp] theorem State.modCt_spdmOut (s : State) (f) : (s.modCt f).spdmOut = s.spdmOut := rfl
@[simp] theorem State.modCt_linkUp (s : State) (f) : (s.modCt f).linkUp = s.linkUp := rfl
@[simp] theorem State.modCt_sent (s : State) (f) : (s.modCt f).sent = s.sent := rfl
@[simp] theorem State.modCt_waitingIn (s : State) (f) : (s.modCt f).waitingIn = s.waitingIn := rfl
@[simp] theorem State.modCore_curTeam (s : State) (c f) : (s.modCore c f).curTeam = s.curTeam := rfl
@[simp] theorem State.modCore_curGroup (s : State) (c f) : (s.modCore c f).curGroup = s.curGroup := rfl
@[simp] theorem State.modCore_choice (s : State) (c f) : (s.modCore c f).choice = s.choice := rfl
@[simp] theorem State.modCore_tick (s : State) (c f) : (s.modCore c f).tick = s.tick := rfl
@[simp] theorem State.modCore_fresh (s : State) (c f) : (s.modCore c f).fresh = s.fresh := rfl
@[simp] theorem State.modCore_inbox (s : State) (c f) : (s.modCore c f).inbox = s.inbox := rfl
@[simp] theorem State.modCore_teams (s : State) (c f) : (s.modCore c f).teams = s.teams := rfl
@[simp] theorem State.modCore_funcs (s : State) (c f) : (s.modCore c f).funcs = s.funcs := rfl
@[simp] theorem State.modCore_grids (s : State) (c f) : (s.modCore c f).grids = s.grids := rfl
@[simp] theorem State.modCore_gridSerial (s : State) (c f) : (s.modCore c f).gridSerial = s.gridSerial := rfl
@[simp] theorem State.modCore_hbm (s : State) (c f) : (s.modCore c f).hbm = s.hbm := rfl
@[simp] theorem State.modCore_hbmTags (s : State) (c f) : (s.modCore c f).hbmTags = s.hbmTags := rfl
@[simp] theorem State.modCore_hostMem (s : State) (c f) : (s.modCore c f).hostMem = s.hostMem := rfl
@[simp] theorem State.modCore_capacity (s : State) (c f) : (s.modCore c f).capacity = s.capacity := rfl
@[simp] theorem State.modCore_sweeps (s : State) (c f) : (s.modCore c f).sweeps = s.sweeps := rfl
@[simp] theorem State.modCore_scrub (s : State) (c f) : (s.modCore c f).scrub = s.scrub := rfl
@[simp] theorem State.modCore_eccHbm (s : State) (c f) : (s.modCore c f).eccHbm = s.eccHbm := rfl
@[simp] theorem State.modCore_eccTm (s : State) (c f) : (s.modCore c f).eccTm = s.eccTm := rfl
@[simp] theorem State.modCore_eccRows (s : State) (c f) : (s.modCore c f).eccRows = s.eccRows := rfl
@[simp] theorem State.modCore_eccSk (s : State) (c f) : (s.modCore c f).eccSk = s.eccSk := rfl
@[simp] theorem State.modCore_eccRegs (s : State) (c f) : (s.modCore c f).eccRegs = s.eccRegs := rfl
@[simp] theorem State.modCore_poisonTm (s : State) (c f) : (s.modCore c f).poisonTm = s.poisonTm := rfl
@[simp] theorem State.modCore_poisonHbm (s : State) (c f) : (s.modCore c f).poisonHbm = s.poisonHbm := rfl
@[simp] theorem State.modCore_tlb (s : State) (c f) : (s.modCore c f).tlb = s.tlb := rfl
@[simp] theorem State.modCore_walks (s : State) (c f) : (s.modCore c f).walks = s.walks := rfl
@[simp] theorem State.modCore_keptSamples (s : State) (c f) : (s.modCore c f).keptSamples = s.keptSamples := rfl
@[simp] theorem State.modCore_net (s : State) (c f) : (s.modCore c f).net = s.net := rfl
@[simp] theorem State.modCore_copies (s : State) (c f) : (s.modCore c f).copies = s.copies := rfl
@[simp] theorem State.modCore_mmaxs (s : State) (c f) : (s.modCore c f).mmaxs = s.mmaxs := rfl
@[simp] theorem State.modCore_rowsInFlight (s : State) (c f) : (s.modCore c f).rowsInFlight = s.rowsInFlight := rfl
@[simp] theorem State.modCore_rowWrites (s : State) (c f) : (s.modCore c f).rowWrites = s.rowWrites := rfl
@[simp] theorem State.modCore_answers (s : State) (c f) : (s.modCore c f).answers = s.answers := rfl
@[simp] theorem State.modCore_lands (s : State) (c f) : (s.modCore c f).lands = s.lands := rfl
@[simp] theorem State.modCore_faults (s : State) (c f) : (s.modCore c f).faults = s.faults := rfl
@[simp] theorem State.modCore_pilotNet (s : State) (c f) : (s.modCore c f).pilotNet = s.pilotNet := rfl
@[simp] theorem State.modCore_pilot (s : State) (c f) : (s.modCore c f).pilot = s.pilot := rfl
@[simp] theorem State.modCore_bindings (s : State) (c f) : (s.modCore c f).bindings = s.bindings := rfl
@[simp] theorem State.modCore_disp (s : State) (c f) : (s.modCore c f).disp = s.disp := rfl
@[simp] theorem State.modCore_hists (s : State) (c f) : (s.modCore c f).hists = s.hists := rfl
@[simp] theorem State.modCore_energy (s : State) (c f) : (s.modCore c f).energy = s.energy := rfl
@[simp] theorem State.modCore_boot (s : State) (c f) : (s.modCore c f).boot = s.boot := rfl
@[simp] theorem State.modCore_spdmOut (s : State) (c f) : (s.modCore c f).spdmOut = s.spdmOut := rfl
@[simp] theorem State.modCore_linkUp (s : State) (c f) : (s.modCore c f).linkUp = s.linkUp := rfl
@[simp] theorem State.modCore_sent (s : State) (c f) : (s.modCore c f).sent = s.sent := rfl
@[simp] theorem State.modCore_waitingIn (s : State) (c f) : (s.modCore c f).waitingIn = s.waitingIn := rfl
@[simp] theorem State.modFunc_curTeam (s : State) (n f) : (s.modFunc n f).curTeam = s.curTeam := rfl
@[simp] theorem State.modFunc_curGroup (s : State) (n f) : (s.modFunc n f).curGroup = s.curGroup := rfl
@[simp] theorem State.modFunc_choice (s : State) (n f) : (s.modFunc n f).choice = s.choice := rfl
@[simp] theorem State.modFunc_tick (s : State) (n f) : (s.modFunc n f).tick = s.tick := rfl
@[simp] theorem State.modFunc_fresh (s : State) (n f) : (s.modFunc n f).fresh = s.fresh := rfl
@[simp] theorem State.modFunc_inbox (s : State) (n f) : (s.modFunc n f).inbox = s.inbox := rfl
@[simp] theorem State.modFunc_teams (s : State) (n f) : (s.modFunc n f).teams = s.teams := rfl
@[simp] theorem State.modFunc_cores (s : State) (n f) : (s.modFunc n f).cores = s.cores := rfl
@[simp] theorem State.modFunc_grids (s : State) (n f) : (s.modFunc n f).grids = s.grids := rfl
@[simp] theorem State.modFunc_gridSerial (s : State) (n f) : (s.modFunc n f).gridSerial = s.gridSerial := rfl
@[simp] theorem State.modFunc_hbm (s : State) (n f) : (s.modFunc n f).hbm = s.hbm := rfl
@[simp] theorem State.modFunc_hbmTags (s : State) (n f) : (s.modFunc n f).hbmTags = s.hbmTags := rfl
@[simp] theorem State.modFunc_hostMem (s : State) (n f) : (s.modFunc n f).hostMem = s.hostMem := rfl
@[simp] theorem State.modFunc_capacity (s : State) (n f) : (s.modFunc n f).capacity = s.capacity := rfl
@[simp] theorem State.modFunc_sweeps (s : State) (n f) : (s.modFunc n f).sweeps = s.sweeps := rfl
@[simp] theorem State.modFunc_scrub (s : State) (n f) : (s.modFunc n f).scrub = s.scrub := rfl
@[simp] theorem State.modFunc_eccHbm (s : State) (n f) : (s.modFunc n f).eccHbm = s.eccHbm := rfl
@[simp] theorem State.modFunc_eccTm (s : State) (n f) : (s.modFunc n f).eccTm = s.eccTm := rfl
@[simp] theorem State.modFunc_eccRows (s : State) (n f) : (s.modFunc n f).eccRows = s.eccRows := rfl
@[simp] theorem State.modFunc_eccSk (s : State) (n f) : (s.modFunc n f).eccSk = s.eccSk := rfl
@[simp] theorem State.modFunc_eccRegs (s : State) (n f) : (s.modFunc n f).eccRegs = s.eccRegs := rfl
@[simp] theorem State.modFunc_poisonTm (s : State) (n f) : (s.modFunc n f).poisonTm = s.poisonTm := rfl
@[simp] theorem State.modFunc_poisonHbm (s : State) (n f) : (s.modFunc n f).poisonHbm = s.poisonHbm := rfl
@[simp] theorem State.modFunc_tlb (s : State) (n f) : (s.modFunc n f).tlb = s.tlb := rfl
@[simp] theorem State.modFunc_walks (s : State) (n f) : (s.modFunc n f).walks = s.walks := rfl
@[simp] theorem State.modFunc_keptSamples (s : State) (n f) : (s.modFunc n f).keptSamples = s.keptSamples := rfl
@[simp] theorem State.modFunc_net (s : State) (n f) : (s.modFunc n f).net = s.net := rfl
@[simp] theorem State.modFunc_copies (s : State) (n f) : (s.modFunc n f).copies = s.copies := rfl
@[simp] theorem State.modFunc_mmaxs (s : State) (n f) : (s.modFunc n f).mmaxs = s.mmaxs := rfl
@[simp] theorem State.modFunc_rowsInFlight (s : State) (n f) : (s.modFunc n f).rowsInFlight = s.rowsInFlight := rfl
@[simp] theorem State.modFunc_rowWrites (s : State) (n f) : (s.modFunc n f).rowWrites = s.rowWrites := rfl
@[simp] theorem State.modFunc_answers (s : State) (n f) : (s.modFunc n f).answers = s.answers := rfl
@[simp] theorem State.modFunc_lands (s : State) (n f) : (s.modFunc n f).lands = s.lands := rfl
@[simp] theorem State.modFunc_faults (s : State) (n f) : (s.modFunc n f).faults = s.faults := rfl
@[simp] theorem State.modFunc_pilotNet (s : State) (n f) : (s.modFunc n f).pilotNet = s.pilotNet := rfl
@[simp] theorem State.modFunc_pilot (s : State) (n f) : (s.modFunc n f).pilot = s.pilot := rfl
@[simp] theorem State.modFunc_bindings (s : State) (n f) : (s.modFunc n f).bindings = s.bindings := rfl
@[simp] theorem State.modFunc_disp (s : State) (n f) : (s.modFunc n f).disp = s.disp := rfl
@[simp] theorem State.modFunc_hists (s : State) (n f) : (s.modFunc n f).hists = s.hists := rfl
@[simp] theorem State.modFunc_energy (s : State) (n f) : (s.modFunc n f).energy = s.energy := rfl
@[simp] theorem State.modFunc_boot (s : State) (n f) : (s.modFunc n f).boot = s.boot := rfl
@[simp] theorem State.modFunc_spdmOut (s : State) (n f) : (s.modFunc n f).spdmOut = s.spdmOut := rfl
@[simp] theorem State.modFunc_linkUp (s : State) (n f) : (s.modFunc n f).linkUp = s.linkUp := rfl
@[simp] theorem State.modFunc_sent (s : State) (n f) : (s.modFunc n f).sent = s.sent := rfl
@[simp] theorem State.modFunc_waitingIn (s : State) (n f) : (s.modFunc n f).waitingIn = s.waitingIn := rfl
@[simp] theorem State.modCtx_curTeam (s : State) (n f) : (s.modCtx n f).curTeam = s.curTeam := rfl
@[simp] theorem State.modCtx_curGroup (s : State) (n f) : (s.modCtx n f).curGroup = s.curGroup := rfl
@[simp] theorem State.modCtx_choice (s : State) (n f) : (s.modCtx n f).choice = s.choice := rfl
@[simp] theorem State.modCtx_tick (s : State) (n f) : (s.modCtx n f).tick = s.tick := rfl
@[simp] theorem State.modCtx_fresh (s : State) (n f) : (s.modCtx n f).fresh = s.fresh := rfl
@[simp] theorem State.modCtx_inbox (s : State) (n f) : (s.modCtx n f).inbox = s.inbox := rfl
@[simp] theorem State.modCtx_teams (s : State) (n f) : (s.modCtx n f).teams = s.teams := rfl
@[simp] theorem State.modCtx_cores (s : State) (n f) : (s.modCtx n f).cores = s.cores := rfl
@[simp] theorem State.modCtx_grids (s : State) (n f) : (s.modCtx n f).grids = s.grids := rfl
@[simp] theorem State.modCtx_gridSerial (s : State) (n f) : (s.modCtx n f).gridSerial = s.gridSerial := rfl
@[simp] theorem State.modCtx_hbm (s : State) (n f) : (s.modCtx n f).hbm = s.hbm := rfl
@[simp] theorem State.modCtx_hbmTags (s : State) (n f) : (s.modCtx n f).hbmTags = s.hbmTags := rfl
@[simp] theorem State.modCtx_hostMem (s : State) (n f) : (s.modCtx n f).hostMem = s.hostMem := rfl
@[simp] theorem State.modCtx_capacity (s : State) (n f) : (s.modCtx n f).capacity = s.capacity := rfl
@[simp] theorem State.modCtx_sweeps (s : State) (n f) : (s.modCtx n f).sweeps = s.sweeps := rfl
@[simp] theorem State.modCtx_scrub (s : State) (n f) : (s.modCtx n f).scrub = s.scrub := rfl
@[simp] theorem State.modCtx_eccHbm (s : State) (n f) : (s.modCtx n f).eccHbm = s.eccHbm := rfl
@[simp] theorem State.modCtx_eccTm (s : State) (n f) : (s.modCtx n f).eccTm = s.eccTm := rfl
@[simp] theorem State.modCtx_eccRows (s : State) (n f) : (s.modCtx n f).eccRows = s.eccRows := rfl
@[simp] theorem State.modCtx_eccSk (s : State) (n f) : (s.modCtx n f).eccSk = s.eccSk := rfl
@[simp] theorem State.modCtx_eccRegs (s : State) (n f) : (s.modCtx n f).eccRegs = s.eccRegs := rfl
@[simp] theorem State.modCtx_poisonTm (s : State) (n f) : (s.modCtx n f).poisonTm = s.poisonTm := rfl
@[simp] theorem State.modCtx_poisonHbm (s : State) (n f) : (s.modCtx n f).poisonHbm = s.poisonHbm := rfl
@[simp] theorem State.modCtx_tlb (s : State) (n f) : (s.modCtx n f).tlb = s.tlb := rfl
@[simp] theorem State.modCtx_walks (s : State) (n f) : (s.modCtx n f).walks = s.walks := rfl
@[simp] theorem State.modCtx_keptSamples (s : State) (n f) : (s.modCtx n f).keptSamples = s.keptSamples := rfl
@[simp] theorem State.modCtx_net (s : State) (n f) : (s.modCtx n f).net = s.net := rfl
@[simp] theorem State.modCtx_copies (s : State) (n f) : (s.modCtx n f).copies = s.copies := rfl
@[simp] theorem State.modCtx_mmaxs (s : State) (n f) : (s.modCtx n f).mmaxs = s.mmaxs := rfl
@[simp] theorem State.modCtx_rowsInFlight (s : State) (n f) : (s.modCtx n f).rowsInFlight = s.rowsInFlight := rfl
@[simp] theorem State.modCtx_rowWrites (s : State) (n f) : (s.modCtx n f).rowWrites = s.rowWrites := rfl
@[simp] theorem State.modCtx_answers (s : State) (n f) : (s.modCtx n f).answers = s.answers := rfl
@[simp] theorem State.modCtx_lands (s : State) (n f) : (s.modCtx n f).lands = s.lands := rfl
@[simp] theorem State.modCtx_faults (s : State) (n f) : (s.modCtx n f).faults = s.faults := rfl
@[simp] theorem State.modCtx_pilotNet (s : State) (n f) : (s.modCtx n f).pilotNet = s.pilotNet := rfl
@[simp] theorem State.modCtx_pilot (s : State) (n f) : (s.modCtx n f).pilot = s.pilot := rfl
@[simp] theorem State.modCtx_bindings (s : State) (n f) : (s.modCtx n f).bindings = s.bindings := rfl
@[simp] theorem State.modCtx_disp (s : State) (n f) : (s.modCtx n f).disp = s.disp := rfl
@[simp] theorem State.modCtx_hists (s : State) (n f) : (s.modCtx n f).hists = s.hists := rfl
@[simp] theorem State.modCtx_energy (s : State) (n f) : (s.modCtx n f).energy = s.energy := rfl
@[simp] theorem State.modCtx_boot (s : State) (n f) : (s.modCtx n f).boot = s.boot := rfl
@[simp] theorem State.modCtx_spdmOut (s : State) (n f) : (s.modCtx n f).spdmOut = s.spdmOut := rfl
@[simp] theorem State.modCtx_linkUp (s : State) (n f) : (s.modCtx n f).linkUp = s.linkUp := rfl
@[simp] theorem State.modCtx_sent (s : State) (n f) : (s.modCtx n f).sent = s.sent := rfl
@[simp] theorem State.modCtx_waitingIn (s : State) (n f) : (s.modCtx n f).waitingIn = s.waitingIn := rfl
@[simp] theorem State.modGrid_curTeam (s : State) (n f) : (s.modGrid n f).curTeam = s.curTeam := rfl
@[simp] theorem State.modGrid_curGroup (s : State) (n f) : (s.modGrid n f).curGroup = s.curGroup := rfl
@[simp] theorem State.modGrid_choice (s : State) (n f) : (s.modGrid n f).choice = s.choice := rfl
@[simp] theorem State.modGrid_tick (s : State) (n f) : (s.modGrid n f).tick = s.tick := rfl
@[simp] theorem State.modGrid_fresh (s : State) (n f) : (s.modGrid n f).fresh = s.fresh := rfl
@[simp] theorem State.modGrid_inbox (s : State) (n f) : (s.modGrid n f).inbox = s.inbox := rfl
@[simp] theorem State.modGrid_teams (s : State) (n f) : (s.modGrid n f).teams = s.teams := rfl
@[simp] theorem State.modGrid_cores (s : State) (n f) : (s.modGrid n f).cores = s.cores := rfl
@[simp] theorem State.modGrid_funcs (s : State) (n f) : (s.modGrid n f).funcs = s.funcs := rfl
@[simp] theorem State.modGrid_gridSerial (s : State) (n f) : (s.modGrid n f).gridSerial = s.gridSerial := rfl
@[simp] theorem State.modGrid_hbm (s : State) (n f) : (s.modGrid n f).hbm = s.hbm := rfl
@[simp] theorem State.modGrid_hbmTags (s : State) (n f) : (s.modGrid n f).hbmTags = s.hbmTags := rfl
@[simp] theorem State.modGrid_hostMem (s : State) (n f) : (s.modGrid n f).hostMem = s.hostMem := rfl
@[simp] theorem State.modGrid_capacity (s : State) (n f) : (s.modGrid n f).capacity = s.capacity := rfl
@[simp] theorem State.modGrid_sweeps (s : State) (n f) : (s.modGrid n f).sweeps = s.sweeps := rfl
@[simp] theorem State.modGrid_scrub (s : State) (n f) : (s.modGrid n f).scrub = s.scrub := rfl
@[simp] theorem State.modGrid_eccHbm (s : State) (n f) : (s.modGrid n f).eccHbm = s.eccHbm := rfl
@[simp] theorem State.modGrid_eccTm (s : State) (n f) : (s.modGrid n f).eccTm = s.eccTm := rfl
@[simp] theorem State.modGrid_eccRows (s : State) (n f) : (s.modGrid n f).eccRows = s.eccRows := rfl
@[simp] theorem State.modGrid_eccSk (s : State) (n f) : (s.modGrid n f).eccSk = s.eccSk := rfl
@[simp] theorem State.modGrid_eccRegs (s : State) (n f) : (s.modGrid n f).eccRegs = s.eccRegs := rfl
@[simp] theorem State.modGrid_poisonTm (s : State) (n f) : (s.modGrid n f).poisonTm = s.poisonTm := rfl
@[simp] theorem State.modGrid_poisonHbm (s : State) (n f) : (s.modGrid n f).poisonHbm = s.poisonHbm := rfl
@[simp] theorem State.modGrid_tlb (s : State) (n f) : (s.modGrid n f).tlb = s.tlb := rfl
@[simp] theorem State.modGrid_walks (s : State) (n f) : (s.modGrid n f).walks = s.walks := rfl
@[simp] theorem State.modGrid_keptSamples (s : State) (n f) : (s.modGrid n f).keptSamples = s.keptSamples := rfl
@[simp] theorem State.modGrid_net (s : State) (n f) : (s.modGrid n f).net = s.net := rfl
@[simp] theorem State.modGrid_copies (s : State) (n f) : (s.modGrid n f).copies = s.copies := rfl
@[simp] theorem State.modGrid_mmaxs (s : State) (n f) : (s.modGrid n f).mmaxs = s.mmaxs := rfl
@[simp] theorem State.modGrid_rowsInFlight (s : State) (n f) : (s.modGrid n f).rowsInFlight = s.rowsInFlight := rfl
@[simp] theorem State.modGrid_rowWrites (s : State) (n f) : (s.modGrid n f).rowWrites = s.rowWrites := rfl
@[simp] theorem State.modGrid_answers (s : State) (n f) : (s.modGrid n f).answers = s.answers := rfl
@[simp] theorem State.modGrid_lands (s : State) (n f) : (s.modGrid n f).lands = s.lands := rfl
@[simp] theorem State.modGrid_faults (s : State) (n f) : (s.modGrid n f).faults = s.faults := rfl
@[simp] theorem State.modGrid_pilotNet (s : State) (n f) : (s.modGrid n f).pilotNet = s.pilotNet := rfl
@[simp] theorem State.modGrid_pilot (s : State) (n f) : (s.modGrid n f).pilot = s.pilot := rfl
@[simp] theorem State.modGrid_bindings (s : State) (n f) : (s.modGrid n f).bindings = s.bindings := rfl
@[simp] theorem State.modGrid_disp (s : State) (n f) : (s.modGrid n f).disp = s.disp := rfl
@[simp] theorem State.modGrid_hists (s : State) (n f) : (s.modGrid n f).hists = s.hists := rfl
@[simp] theorem State.modGrid_energy (s : State) (n f) : (s.modGrid n f).energy = s.energy := rfl
@[simp] theorem State.modGrid_boot (s : State) (n f) : (s.modGrid n f).boot = s.boot := rfl
@[simp] theorem State.modGrid_spdmOut (s : State) (n f) : (s.modGrid n f).spdmOut = s.spdmOut := rfl
@[simp] theorem State.modGrid_linkUp (s : State) (n f) : (s.modGrid n f).linkUp = s.linkUp := rfl
@[simp] theorem State.modGrid_sent (s : State) (n f) : (s.modGrid n f).sent = s.sent := rfl
@[simp] theorem State.modGrid_waitingIn (s : State) (n f) : (s.modGrid n f).waitingIn = s.waitingIn := rfl
@[simp] theorem State.spend_curTeam (s : State) (c k n) : (s.spend c k n).curTeam = s.curTeam := rfl
@[simp] theorem State.spend_curGroup (s : State) (c k n) : (s.spend c k n).curGroup = s.curGroup := rfl
@[simp] theorem State.spend_choice (s : State) (c k n) : (s.spend c k n).choice = s.choice := rfl
@[simp] theorem State.spend_tick (s : State) (c k n) : (s.spend c k n).tick = s.tick := rfl
@[simp] theorem State.spend_fresh (s : State) (c k n) : (s.spend c k n).fresh = s.fresh := rfl
@[simp] theorem State.spend_inbox (s : State) (c k n) : (s.spend c k n).inbox = s.inbox := rfl
@[simp] theorem State.spend_teams (s : State) (c k n) : (s.spend c k n).teams = s.teams := rfl
@[simp] theorem State.spend_cores (s : State) (c k n) : (s.spend c k n).cores = s.cores := rfl
@[simp] theorem State.spend_funcs (s : State) (c k n) : (s.spend c k n).funcs = s.funcs := rfl
@[simp] theorem State.spend_grids (s : State) (c k n) : (s.spend c k n).grids = s.grids := rfl
@[simp] theorem State.spend_gridSerial (s : State) (c k n) : (s.spend c k n).gridSerial = s.gridSerial := rfl
@[simp] theorem State.spend_hbm (s : State) (c k n) : (s.spend c k n).hbm = s.hbm := rfl
@[simp] theorem State.spend_hbmTags (s : State) (c k n) : (s.spend c k n).hbmTags = s.hbmTags := rfl
@[simp] theorem State.spend_hostMem (s : State) (c k n) : (s.spend c k n).hostMem = s.hostMem := rfl
@[simp] theorem State.spend_capacity (s : State) (c k n) : (s.spend c k n).capacity = s.capacity := rfl
@[simp] theorem State.spend_sweeps (s : State) (c k n) : (s.spend c k n).sweeps = s.sweeps := rfl
@[simp] theorem State.spend_scrub (s : State) (c k n) : (s.spend c k n).scrub = s.scrub := rfl
@[simp] theorem State.spend_eccHbm (s : State) (c k n) : (s.spend c k n).eccHbm = s.eccHbm := rfl
@[simp] theorem State.spend_eccTm (s : State) (c k n) : (s.spend c k n).eccTm = s.eccTm := rfl
@[simp] theorem State.spend_eccRows (s : State) (c k n) : (s.spend c k n).eccRows = s.eccRows := rfl
@[simp] theorem State.spend_eccSk (s : State) (c k n) : (s.spend c k n).eccSk = s.eccSk := rfl
@[simp] theorem State.spend_eccRegs (s : State) (c k n) : (s.spend c k n).eccRegs = s.eccRegs := rfl
@[simp] theorem State.spend_poisonTm (s : State) (c k n) : (s.spend c k n).poisonTm = s.poisonTm := rfl
@[simp] theorem State.spend_poisonHbm (s : State) (c k n) : (s.spend c k n).poisonHbm = s.poisonHbm := rfl
@[simp] theorem State.spend_tlb (s : State) (c k n) : (s.spend c k n).tlb = s.tlb := rfl
@[simp] theorem State.spend_walks (s : State) (c k n) : (s.spend c k n).walks = s.walks := rfl
@[simp] theorem State.spend_keptSamples (s : State) (c k n) : (s.spend c k n).keptSamples = s.keptSamples := rfl
@[simp] theorem State.spend_net (s : State) (c k n) : (s.spend c k n).net = s.net := rfl
@[simp] theorem State.spend_copies (s : State) (c k n) : (s.spend c k n).copies = s.copies := rfl
@[simp] theorem State.spend_mmaxs (s : State) (c k n) : (s.spend c k n).mmaxs = s.mmaxs := rfl
@[simp] theorem State.spend_rowsInFlight (s : State) (c k n) : (s.spend c k n).rowsInFlight = s.rowsInFlight := rfl
@[simp] theorem State.spend_rowWrites (s : State) (c k n) : (s.spend c k n).rowWrites = s.rowWrites := rfl
@[simp] theorem State.spend_answers (s : State) (c k n) : (s.spend c k n).answers = s.answers := rfl
@[simp] theorem State.spend_lands (s : State) (c k n) : (s.spend c k n).lands = s.lands := rfl
@[simp] theorem State.spend_faults (s : State) (c k n) : (s.spend c k n).faults = s.faults := rfl
@[simp] theorem State.spend_pilotNet (s : State) (c k n) : (s.spend c k n).pilotNet = s.pilotNet := rfl
@[simp] theorem State.spend_pilot (s : State) (c k n) : (s.spend c k n).pilot = s.pilot := rfl
@[simp] theorem State.spend_bindings (s : State) (c k n) : (s.spend c k n).bindings = s.bindings := rfl
@[simp] theorem State.spend_disp (s : State) (c k n) : (s.spend c k n).disp = s.disp := rfl
@[simp] theorem State.spend_hists (s : State) (c k n) : (s.spend c k n).hists = s.hists := rfl
@[simp] theorem State.spend_boot (s : State) (c k n) : (s.spend c k n).boot = s.boot := rfl
@[simp] theorem State.spend_spdmOut (s : State) (c k n) : (s.spend c k n).spdmOut = s.spdmOut := rfl
@[simp] theorem State.spend_linkUp (s : State) (c k n) : (s.spend c k n).linkUp = s.linkUp := rfl
@[simp] theorem State.spend_sent (s : State) (c k n) : (s.spend c k n).sent = s.sent := rfl
@[simp] theorem State.spend_waitingIn (s : State) (c k n) : (s.spend c k n).waitingIn = s.waitingIn := rfl
@[simp] theorem State.next_curTeam (s : State) : (s.next).curTeam = s.curTeam := rfl
@[simp] theorem State.next_curGroup (s : State) : (s.next).curGroup = s.curGroup := rfl
@[simp] theorem State.next_choice (s : State) : (s.next).choice = s.choice := rfl
@[simp] theorem State.next_tick (s : State) : (s.next).tick = s.tick := rfl
@[simp] theorem State.next_inbox (s : State) : (s.next).inbox = s.inbox := rfl
@[simp] theorem State.next_teams (s : State) : (s.next).teams = s.teams := rfl
@[simp] theorem State.next_cores (s : State) : (s.next).cores = s.cores := rfl
@[simp] theorem State.next_funcs (s : State) : (s.next).funcs = s.funcs := rfl
@[simp] theorem State.next_grids (s : State) : (s.next).grids = s.grids := rfl
@[simp] theorem State.next_gridSerial (s : State) : (s.next).gridSerial = s.gridSerial := rfl
@[simp] theorem State.next_hbm (s : State) : (s.next).hbm = s.hbm := rfl
@[simp] theorem State.next_hbmTags (s : State) : (s.next).hbmTags = s.hbmTags := rfl
@[simp] theorem State.next_hostMem (s : State) : (s.next).hostMem = s.hostMem := rfl
@[simp] theorem State.next_capacity (s : State) : (s.next).capacity = s.capacity := rfl
@[simp] theorem State.next_sweeps (s : State) : (s.next).sweeps = s.sweeps := rfl
@[simp] theorem State.next_scrub (s : State) : (s.next).scrub = s.scrub := rfl
@[simp] theorem State.next_eccHbm (s : State) : (s.next).eccHbm = s.eccHbm := rfl
@[simp] theorem State.next_eccTm (s : State) : (s.next).eccTm = s.eccTm := rfl
@[simp] theorem State.next_eccRows (s : State) : (s.next).eccRows = s.eccRows := rfl
@[simp] theorem State.next_eccSk (s : State) : (s.next).eccSk = s.eccSk := rfl
@[simp] theorem State.next_eccRegs (s : State) : (s.next).eccRegs = s.eccRegs := rfl
@[simp] theorem State.next_poisonTm (s : State) : (s.next).poisonTm = s.poisonTm := rfl
@[simp] theorem State.next_poisonHbm (s : State) : (s.next).poisonHbm = s.poisonHbm := rfl
@[simp] theorem State.next_tlb (s : State) : (s.next).tlb = s.tlb := rfl
@[simp] theorem State.next_walks (s : State) : (s.next).walks = s.walks := rfl
@[simp] theorem State.next_keptSamples (s : State) : (s.next).keptSamples = s.keptSamples := rfl
@[simp] theorem State.next_net (s : State) : (s.next).net = s.net := rfl
@[simp] theorem State.next_copies (s : State) : (s.next).copies = s.copies := rfl
@[simp] theorem State.next_mmaxs (s : State) : (s.next).mmaxs = s.mmaxs := rfl
@[simp] theorem State.next_rowsInFlight (s : State) : (s.next).rowsInFlight = s.rowsInFlight := rfl
@[simp] theorem State.next_rowWrites (s : State) : (s.next).rowWrites = s.rowWrites := rfl
@[simp] theorem State.next_answers (s : State) : (s.next).answers = s.answers := rfl
@[simp] theorem State.next_lands (s : State) : (s.next).lands = s.lands := rfl
@[simp] theorem State.next_faults (s : State) : (s.next).faults = s.faults := rfl
@[simp] theorem State.next_pilotNet (s : State) : (s.next).pilotNet = s.pilotNet := rfl
@[simp] theorem State.next_pilot (s : State) : (s.next).pilot = s.pilot := rfl
@[simp] theorem State.next_bindings (s : State) : (s.next).bindings = s.bindings := rfl
@[simp] theorem State.next_disp (s : State) : (s.next).disp = s.disp := rfl
@[simp] theorem State.next_hists (s : State) : (s.next).hists = s.hists := rfl
@[simp] theorem State.next_energy (s : State) : (s.next).energy = s.energy := rfl
@[simp] theorem State.next_boot (s : State) : (s.next).boot = s.boot := rfl
@[simp] theorem State.next_spdmOut (s : State) : (s.next).spdmOut = s.spdmOut := rfl
@[simp] theorem State.next_linkUp (s : State) : (s.next).linkUp = s.linkUp := rfl
@[simp] theorem State.next_sent (s : State) : (s.next).sent = s.sent := rfl
@[simp] theorem State.next_waitingIn (s : State) : (s.next).waitingIn = s.waitingIn := rfl
@[simp] theorem State.next_fresh (s : State) : s.next.fresh = s.fresh + 1 := rfl

/-! ### Changes of a lane or of the pending results of a group, of a group of a team -/

@[simp] theorem Group.modLane_index (g : Group) (l f) : (g.modLane l f).index = g.index := rfl
@[simp] theorem Group.modLane_role (g : Group) (l f) : (g.modLane l f).role = g.role := rfl
@[simp] theorem Group.modLane_slot (g : Group) (l f) : (g.modLane l f).slot = g.slot := rfl
@[simp] theorem Group.modLane_gen (g : Group) (l f) : (g.modLane l f).gen = g.gen := rfl
@[simp] theorem Group.modLane_port (g : Group) (l f) : (g.modLane l f).port = g.port := rfl
@[simp] theorem Group.modLane_budget (g : Group) (l f) : (g.modLane l f).budget = g.budget := rfl
@[simp] theorem Group.modLane_ended (g : Group) (l f) : (g.modLane l f).ended = g.ended := rfl
@[simp] theorem Group.modLane_g (g : Group) (l f) : (g.modLane l f).g = g.g := rfl
@[simp] theorem Group.modLane_p (g : Group) (l f) : (g.modLane l f).p = g.p := rfl
@[simp] theorem Group.modLane_s (g : Group) (l f) : (g.modLane l f).s = g.s := rfl
@[simp] theorem Group.modLane_k (g : Group) (l f) : (g.modLane l f).k = g.k := rfl
@[simp] theorem Group.modLane_c (g : Group) (l f) : (g.modLane l f).c = g.c := rfl
@[simp] theorem Group.modLane_rejoins (g : Group) (l f) : (g.modLane l f).rejoins = g.rejoins := rfl
@[simp] theorem Group.modLane_exmask (g : Group) (l f) : (g.modLane l f).exmask = g.exmask := rfl
@[simp] theorem Group.modLane_limit (g : Group) (l f) : (g.modLane l f).limit = g.limit := rfl
@[simp] theorem Group.modLane_timer (g : Group) (l f) : (g.modLane l f).timer = g.timer := rfl
@[simp] theorem Group.modLane_queue (g : Group) (l f) : (g.modLane l f).queue = g.queue := rfl
@[simp] theorem Group.modLane_qovf (g : Group) (l f) : (g.modLane l f).qovf = g.qovf := rfl
@[simp] theorem Group.modLane_pending (g : Group) (l f) : (g.modLane l f).pending = g.pending := rfl
@[simp] theorem Group.modLane_accepted (g : Group) (l f) : (g.modLane l f).accepted = g.accepted := rfl
@[simp] theorem Group.modLane_heldOp (g : Group) (l f) : (g.modLane l f).heldOp = g.heldOp := rfl
@[simp] theorem Group.modLane_since (g : Group) (l f) : (g.modLane l f).since = g.since := rfl
@[simp] theorem Group.modLane_seq (g : Group) (l f) : (g.modLane l f).seq = g.seq := rfl
@[simp] theorem Group.modLane_clause (g : Group) (l f) : (g.modLane l f).clause = g.clause := rfl
@[simp] theorem Group.modLane_park (g : Group) (l f) : (g.modLane l f).park = g.park := rfl
@[simp] theorem Group.modLane_hold (g : Group) (l f) : (g.modLane l f).hold = g.hold := rfl
@[simp] theorem Group.modLane_fpflags (g : Group) (l f) : (g.modLane l f).fpflags = g.fpflags := rfl
@[simp] theorem Group.modLane_rngseed (g : Group) (l f) : (g.modLane l f).rngseed = g.rngseed := rfl
@[simp] theorem Group.modLane_accbase (g : Group) (l f) : (g.modLane l f).accbase = g.accbase := rfl
@[simp] theorem Group.modLane_acclim (g : Group) (l f) : (g.modLane l f).acclim = g.acclim := rfl
@[simp] theorem Group.modLane_wflags (g : Group) (l f) : (g.modLane l f).wflags = g.wflags := rfl
@[simp] theorem Group.modLane_chprog (g : Group) (l f) : (g.modLane l f).chprog = g.chprog := rfl
@[simp] theorem Group.modLane_trapRegs (g : Group) (l f) : (g.modLane l f).trapRegs = g.trapRegs := rfl
@[simp] theorem Group.modLane_entry (g : Group) (l f) : (g.modLane l f).entry = g.entry := rfl
@[simp] theorem Group.modLane_frames (g : Group) (l f) : (g.modLane l f).frames = g.frames := rfl
@[simp] theorem Group.modLane_spill (g : Group) (l f) : (g.modLane l f).spill = g.spill := rfl
@[simp] theorem Group.modLane_frame (g : Group) (l f) : (g.modLane l f).frame = g.frame := rfl
@[simp] theorem Group.modLane_watches (g : Group) (l f) : (g.modLane l f).watches = g.watches := rfl
@[simp] theorem Group.modLane_lastPages (g : Group) (l f) : (g.modLane l f).lastPages = g.lastPages := rfl
@[simp] theorem Group.modLane_halted (g : Group) (l f) : (g.modLane l f).halted = g.halted := rfl
@[simp] theorem Group.modLane_stopped (g : Group) (l f) : (g.modLane l f).stopped = g.stopped := rfl
@[simp] theorem Group.modLane_barStop (g : Group) (l f) : (g.modLane l f).barStop = g.barStop := rfl
@[simp] theorem Group.modLane_watchdog (g : Group) (l f) : (g.modLane l f).watchdog = g.watchdog := rfl
@[simp] theorem Group.modLane_sample (g : Group) (l f) : (g.modLane l f).sample = g.sample := rfl
@[simp] theorem Group.modLane_perf (g : Group) (l f) : (g.modLane l f).perf = g.perf := rfl
@[simp] theorem Group.modLane_capsel (g : Group) (l f) : (g.modLane l f).capsel = g.capsel := rfl
@[simp] theorem Group.modLane_stamp (g : Group) (l f) : (g.modLane l f).stamp = g.stamp := rfl
@[simp] theorem Group.modLane_saved (g : Group) (l f) : (g.modLane l f).saved = g.saved := rfl
@[simp] theorem Group.modLane_loaded (g : Group) (l f) : (g.modLane l f).loaded = g.loaded := rfl
@[simp] theorem Group.modLane_latch (g : Group) (l f) : (g.modLane l f).latch = g.latch := rfl
@[simp] theorem Group.modLane_older (g : Group) (l f) : (g.modLane l f).older = g.older := rfl
@[simp] theorem Group.modLane_entering (g : Group) (l f) : (g.modLane l f).entering = g.entering := rfl
@[simp] theorem Group.modLanes_index (g : Group) (m f) : (g.modLanes m f).index = g.index := rfl
@[simp] theorem Group.modLanes_role (g : Group) (m f) : (g.modLanes m f).role = g.role := rfl
@[simp] theorem Group.modLanes_slot (g : Group) (m f) : (g.modLanes m f).slot = g.slot := rfl
@[simp] theorem Group.modLanes_gen (g : Group) (m f) : (g.modLanes m f).gen = g.gen := rfl
@[simp] theorem Group.modLanes_port (g : Group) (m f) : (g.modLanes m f).port = g.port := rfl
@[simp] theorem Group.modLanes_budget (g : Group) (m f) : (g.modLanes m f).budget = g.budget := rfl
@[simp] theorem Group.modLanes_ended (g : Group) (m f) : (g.modLanes m f).ended = g.ended := rfl
@[simp] theorem Group.modLanes_g (g : Group) (m f) : (g.modLanes m f).g = g.g := rfl
@[simp] theorem Group.modLanes_p (g : Group) (m f) : (g.modLanes m f).p = g.p := rfl
@[simp] theorem Group.modLanes_s (g : Group) (m f) : (g.modLanes m f).s = g.s := rfl
@[simp] theorem Group.modLanes_k (g : Group) (m f) : (g.modLanes m f).k = g.k := rfl
@[simp] theorem Group.modLanes_c (g : Group) (m f) : (g.modLanes m f).c = g.c := rfl
@[simp] theorem Group.modLanes_rejoins (g : Group) (m f) : (g.modLanes m f).rejoins = g.rejoins := rfl
@[simp] theorem Group.modLanes_exmask (g : Group) (m f) : (g.modLanes m f).exmask = g.exmask := rfl
@[simp] theorem Group.modLanes_limit (g : Group) (m f) : (g.modLanes m f).limit = g.limit := rfl
@[simp] theorem Group.modLanes_timer (g : Group) (m f) : (g.modLanes m f).timer = g.timer := rfl
@[simp] theorem Group.modLanes_queue (g : Group) (m f) : (g.modLanes m f).queue = g.queue := rfl
@[simp] theorem Group.modLanes_qovf (g : Group) (m f) : (g.modLanes m f).qovf = g.qovf := rfl
@[simp] theorem Group.modLanes_pending (g : Group) (m f) : (g.modLanes m f).pending = g.pending := rfl
@[simp] theorem Group.modLanes_accepted (g : Group) (m f) : (g.modLanes m f).accepted = g.accepted := rfl
@[simp] theorem Group.modLanes_heldOp (g : Group) (m f) : (g.modLanes m f).heldOp = g.heldOp := rfl
@[simp] theorem Group.modLanes_since (g : Group) (m f) : (g.modLanes m f).since = g.since := rfl
@[simp] theorem Group.modLanes_seq (g : Group) (m f) : (g.modLanes m f).seq = g.seq := rfl
@[simp] theorem Group.modLanes_clause (g : Group) (m f) : (g.modLanes m f).clause = g.clause := rfl
@[simp] theorem Group.modLanes_park (g : Group) (m f) : (g.modLanes m f).park = g.park := rfl
@[simp] theorem Group.modLanes_hold (g : Group) (m f) : (g.modLanes m f).hold = g.hold := rfl
@[simp] theorem Group.modLanes_fpflags (g : Group) (m f) : (g.modLanes m f).fpflags = g.fpflags := rfl
@[simp] theorem Group.modLanes_rngseed (g : Group) (m f) : (g.modLanes m f).rngseed = g.rngseed := rfl
@[simp] theorem Group.modLanes_accbase (g : Group) (m f) : (g.modLanes m f).accbase = g.accbase := rfl
@[simp] theorem Group.modLanes_acclim (g : Group) (m f) : (g.modLanes m f).acclim = g.acclim := rfl
@[simp] theorem Group.modLanes_wflags (g : Group) (m f) : (g.modLanes m f).wflags = g.wflags := rfl
@[simp] theorem Group.modLanes_chprog (g : Group) (m f) : (g.modLanes m f).chprog = g.chprog := rfl
@[simp] theorem Group.modLanes_trapRegs (g : Group) (m f) : (g.modLanes m f).trapRegs = g.trapRegs := rfl
@[simp] theorem Group.modLanes_entry (g : Group) (m f) : (g.modLanes m f).entry = g.entry := rfl
@[simp] theorem Group.modLanes_frames (g : Group) (m f) : (g.modLanes m f).frames = g.frames := rfl
@[simp] theorem Group.modLanes_spill (g : Group) (m f) : (g.modLanes m f).spill = g.spill := rfl
@[simp] theorem Group.modLanes_frame (g : Group) (m f) : (g.modLanes m f).frame = g.frame := rfl
@[simp] theorem Group.modLanes_watches (g : Group) (m f) : (g.modLanes m f).watches = g.watches := rfl
@[simp] theorem Group.modLanes_lastPages (g : Group) (m f) : (g.modLanes m f).lastPages = g.lastPages := rfl
@[simp] theorem Group.modLanes_halted (g : Group) (m f) : (g.modLanes m f).halted = g.halted := rfl
@[simp] theorem Group.modLanes_stopped (g : Group) (m f) : (g.modLanes m f).stopped = g.stopped := rfl
@[simp] theorem Group.modLanes_barStop (g : Group) (m f) : (g.modLanes m f).barStop = g.barStop := rfl
@[simp] theorem Group.modLanes_watchdog (g : Group) (m f) : (g.modLanes m f).watchdog = g.watchdog := rfl
@[simp] theorem Group.modLanes_sample (g : Group) (m f) : (g.modLanes m f).sample = g.sample := rfl
@[simp] theorem Group.modLanes_perf (g : Group) (m f) : (g.modLanes m f).perf = g.perf := rfl
@[simp] theorem Group.modLanes_capsel (g : Group) (m f) : (g.modLanes m f).capsel = g.capsel := rfl
@[simp] theorem Group.modLanes_stamp (g : Group) (m f) : (g.modLanes m f).stamp = g.stamp := rfl
@[simp] theorem Group.modLanes_saved (g : Group) (m f) : (g.modLanes m f).saved = g.saved := rfl
@[simp] theorem Group.modLanes_loaded (g : Group) (m f) : (g.modLanes m f).loaded = g.loaded := rfl
@[simp] theorem Group.modLanes_latch (g : Group) (m f) : (g.modLanes m f).latch = g.latch := rfl
@[simp] theorem Group.modLanes_older (g : Group) (m f) : (g.modLanes m f).older = g.older := rfl
@[simp] theorem Group.modLanes_entering (g : Group) (m f) : (g.modLanes m f).entering = g.entering := rfl
@[simp] theorem Group.await_index (g : Group) (i ns ls nd vs a b c) : (g.await i ns ls nd vs a b c).index = g.index := rfl
@[simp] theorem Group.await_role (g : Group) (i ns ls nd vs a b c) : (g.await i ns ls nd vs a b c).role = g.role := rfl
@[simp] theorem Group.await_slot (g : Group) (i ns ls nd vs a b c) : (g.await i ns ls nd vs a b c).slot = g.slot := rfl
@[simp] theorem Group.await_gen (g : Group) (i ns ls nd vs a b c) : (g.await i ns ls nd vs a b c).gen = g.gen := rfl
@[simp] theorem Group.await_port (g : Group) (i ns ls nd vs a b c) : (g.await i ns ls nd vs a b c).port = g.port := rfl
@[simp] theorem Group.await_budget (g : Group) (i ns ls nd vs a b c) : (g.await i ns ls nd vs a b c).budget = g.budget := rfl
@[simp] theorem Group.await_ended (g : Group) (i ns ls nd vs a b c) : (g.await i ns ls nd vs a b c).ended = g.ended := rfl
@[simp] theorem Group.await_lanes (g : Group) (i ns ls nd vs a b c) : (g.await i ns ls nd vs a b c).lanes = g.lanes := rfl
@[simp] theorem Group.await_g (g : Group) (i ns ls nd vs a b c) : (g.await i ns ls nd vs a b c).g = g.g := rfl
@[simp] theorem Group.await_p (g : Group) (i ns ls nd vs a b c) : (g.await i ns ls nd vs a b c).p = g.p := rfl
@[simp] theorem Group.await_s (g : Group) (i ns ls nd vs a b c) : (g.await i ns ls nd vs a b c).s = g.s := rfl
@[simp] theorem Group.await_k (g : Group) (i ns ls nd vs a b c) : (g.await i ns ls nd vs a b c).k = g.k := rfl
@[simp] theorem Group.await_c (g : Group) (i ns ls nd vs a b c) : (g.await i ns ls nd vs a b c).c = g.c := rfl
@[simp] theorem Group.await_rejoins (g : Group) (i ns ls nd vs a b c) : (g.await i ns ls nd vs a b c).rejoins = g.rejoins := rfl
@[simp] theorem Group.await_exmask (g : Group) (i ns ls nd vs a b c) : (g.await i ns ls nd vs a b c).exmask = g.exmask := rfl
@[simp] theorem Group.await_limit (g : Group) (i ns ls nd vs a b c) : (g.await i ns ls nd vs a b c).limit = g.limit := rfl
@[simp] theorem Group.await_timer (g : Group) (i ns ls nd vs a b c) : (g.await i ns ls nd vs a b c).timer = g.timer := rfl
@[simp] theorem Group.await_queue (g : Group) (i ns ls nd vs a b c) : (g.await i ns ls nd vs a b c).queue = g.queue := rfl
@[simp] theorem Group.await_qovf (g : Group) (i ns ls nd vs a b c) : (g.await i ns ls nd vs a b c).qovf = g.qovf := rfl
@[simp] theorem Group.await_accepted (g : Group) (i ns ls nd vs a b c) : (g.await i ns ls nd vs a b c).accepted = g.accepted := rfl
@[simp] theorem Group.await_heldOp (g : Group) (i ns ls nd vs a b c) : (g.await i ns ls nd vs a b c).heldOp = g.heldOp := rfl
@[simp] theorem Group.await_since (g : Group) (i ns ls nd vs a b c) : (g.await i ns ls nd vs a b c).since = g.since := rfl
@[simp] theorem Group.await_seq (g : Group) (i ns ls nd vs a b c) : (g.await i ns ls nd vs a b c).seq = g.seq := rfl
@[simp] theorem Group.await_clause (g : Group) (i ns ls nd vs a b c) : (g.await i ns ls nd vs a b c).clause = g.clause := rfl
@[simp] theorem Group.await_park (g : Group) (i ns ls nd vs a b c) : (g.await i ns ls nd vs a b c).park = g.park := rfl
@[simp] theorem Group.await_hold (g : Group) (i ns ls nd vs a b c) : (g.await i ns ls nd vs a b c).hold = g.hold := rfl
@[simp] theorem Group.await_fpflags (g : Group) (i ns ls nd vs a b c) : (g.await i ns ls nd vs a b c).fpflags = g.fpflags := rfl
@[simp] theorem Group.await_rngseed (g : Group) (i ns ls nd vs a b c) : (g.await i ns ls nd vs a b c).rngseed = g.rngseed := rfl
@[simp] theorem Group.await_accbase (g : Group) (i ns ls nd vs a b c) : (g.await i ns ls nd vs a b c).accbase = g.accbase := rfl
@[simp] theorem Group.await_acclim (g : Group) (i ns ls nd vs a b c) : (g.await i ns ls nd vs a b c).acclim = g.acclim := rfl
@[simp] theorem Group.await_wflags (g : Group) (i ns ls nd vs a b c) : (g.await i ns ls nd vs a b c).wflags = g.wflags := rfl
@[simp] theorem Group.await_chprog (g : Group) (i ns ls nd vs a b c) : (g.await i ns ls nd vs a b c).chprog = g.chprog := rfl
@[simp] theorem Group.await_trapRegs (g : Group) (i ns ls nd vs a b c) : (g.await i ns ls nd vs a b c).trapRegs = g.trapRegs := rfl
@[simp] theorem Group.await_entry (g : Group) (i ns ls nd vs a b c) : (g.await i ns ls nd vs a b c).entry = g.entry := rfl
@[simp] theorem Group.await_frames (g : Group) (i ns ls nd vs a b c) : (g.await i ns ls nd vs a b c).frames = g.frames := rfl
@[simp] theorem Group.await_spill (g : Group) (i ns ls nd vs a b c) : (g.await i ns ls nd vs a b c).spill = g.spill := rfl
@[simp] theorem Group.await_frame (g : Group) (i ns ls nd vs a b c) : (g.await i ns ls nd vs a b c).frame = g.frame := rfl
@[simp] theorem Group.await_watches (g : Group) (i ns ls nd vs a b c) : (g.await i ns ls nd vs a b c).watches = g.watches := rfl
@[simp] theorem Group.await_lastPages (g : Group) (i ns ls nd vs a b c) : (g.await i ns ls nd vs a b c).lastPages = g.lastPages := rfl
@[simp] theorem Group.await_halted (g : Group) (i ns ls nd vs a b c) : (g.await i ns ls nd vs a b c).halted = g.halted := rfl
@[simp] theorem Group.await_stopped (g : Group) (i ns ls nd vs a b c) : (g.await i ns ls nd vs a b c).stopped = g.stopped := rfl
@[simp] theorem Group.await_barStop (g : Group) (i ns ls nd vs a b c) : (g.await i ns ls nd vs a b c).barStop = g.barStop := rfl
@[simp] theorem Group.await_watchdog (g : Group) (i ns ls nd vs a b c) : (g.await i ns ls nd vs a b c).watchdog = g.watchdog := rfl
@[simp] theorem Group.await_sample (g : Group) (i ns ls nd vs a b c) : (g.await i ns ls nd vs a b c).sample = g.sample := rfl
@[simp] theorem Group.await_perf (g : Group) (i ns ls nd vs a b c) : (g.await i ns ls nd vs a b c).perf = g.perf := rfl
@[simp] theorem Group.await_capsel (g : Group) (i ns ls nd vs a b c) : (g.await i ns ls nd vs a b c).capsel = g.capsel := rfl
@[simp] theorem Group.await_stamp (g : Group) (i ns ls nd vs a b c) : (g.await i ns ls nd vs a b c).stamp = g.stamp := rfl
@[simp] theorem Group.await_saved (g : Group) (i ns ls nd vs a b c) : (g.await i ns ls nd vs a b c).saved = g.saved := rfl
@[simp] theorem Group.await_loaded (g : Group) (i ns ls nd vs a b c) : (g.await i ns ls nd vs a b c).loaded = g.loaded := rfl
@[simp] theorem Group.await_latch (g : Group) (i ns ls nd vs a b c) : (g.await i ns ls nd vs a b c).latch = g.latch := rfl
@[simp] theorem Group.await_older (g : Group) (i ns ls nd vs a b c) : (g.await i ns ls nd vs a b c).older = g.older := rfl
@[simp] theorem Group.await_entering (g : Group) (i ns ls nd vs a b c) : (g.await i ns ls nd vs a b c).entering = g.entering := rfl
@[simp] theorem Team.modGroup_key (t : Team) (g f) : (t.modGroup g f).key = t.key := rfl
@[simp] theorem Team.modGroup_ctx (t : Team) (g f) : (t.modGroup g f).ctx = t.ctx := rfl
@[simp] theorem Team.modGroup_core (t : Team) (g f) : (t.modGroup g f).core = t.core := rfl
@[simp] theorem Team.modGroup_serial (t : Team) (g f) : (t.modGroup g f).serial = t.serial := rfl
@[simp] theorem Team.modGroup_grid (t : Team) (g f) : (t.modGroup g f).grid = t.grid := rfl
@[simp] theorem Team.modGroup_ownGrid (t : Team) (g f) : (t.modGroup g f).ownGrid = t.ownGrid := rfl
@[simp] theorem Team.modGroup_newSerial (t : Team) (g f) : (t.modGroup g f).newSerial = t.newSerial := rfl
@[simp] theorem Team.modGroup_linear (t : Team) (g f) : (t.modGroup g f).linear = t.linear := rfl
@[simp] theorem Team.modGroup_x (t : Team) (g f) : (t.modGroup g f).x = t.x := rfl
@[simp] theorem Team.modGroup_y (t : Team) (g f) : (t.modGroup g f).y = t.y := rfl
@[simp] theorem Team.modGroup_z (t : Team) (g f) : (t.modGroup g f).z = t.z := rfl
@[simp] theorem Team.modGroup_gx (t : Team) (g f) : (t.modGroup g f).gx = t.gx := rfl
@[simp] theorem Team.modGroup_gy (t : Team) (g f) : (t.modGroup g f).gy = t.gy := rfl
@[simp] theorem Team.modGroup_gz (t : Team) (g f) : (t.modGroup g f).gz = t.gz := rfl
@[simp] theorem Team.modGroup_kernel (t : Team) (g f) : (t.modGroup g f).kernel = t.kernel := rfl
@[simp] theorem Team.modGroup_peloton (t : Team) (g f) : (t.modGroup g f).peloton = t.peloton := rfl
@[simp] theorem Team.modGroup_tmSize (t : Team) (g f) : (t.modGroup g f).tmSize = t.tmSize := rfl
@[simp] theorem Team.modGroup_spill (t : Team) (g f) : (t.modGroup g f).spill = t.spill := rfl
@[simp] theorem Team.modGroup_quantum (t : Team) (g f) : (t.modGroup g f).quantum = t.quantum := rfl
@[simp] theorem Team.modGroup_rows (t : Team) (g f) : (t.modGroup g f).rows = t.rows := rfl
@[simp] theorem Team.modGroup_firstUnit (t : Team) (g f) : (t.modGroup g f).firstUnit = t.firstUnit := rfl
@[simp] theorem Team.modGroup_restoreMark (t : Team) (g f) : (t.modGroup g f).restoreMark = t.restoreMark := rfl
@[simp] theorem Team.modGroup_clearMark (t : Team) (g f) : (t.modGroup g f).clearMark = t.clearMark := rfl
@[simp] theorem Team.modGroup_tm (t : Team) (g f) : (t.modGroup g f).tm = t.tm := rfl
@[simp] theorem Team.modGroup_tags (t : Team) (g f) : (t.modGroup g f).tags = t.tags := rfl
@[simp] theorem Team.modGroup_absent (t : Team) (g f) : (t.modGroup g f).absent = t.absent := rfl
@[simp] theorem Team.modGroup_barriers (t : Team) (g f) : (t.modGroup g f).barriers = t.barriers := rfl
@[simp] theorem Team.modGroup_watches (t : Team) (g f) : (t.modGroup g f).watches = t.watches := rfl
@[simp] theorem Team.modGroup_tmchk (t : Team) (g f) : (t.modGroup g f).tmchk = t.tmchk := rfl
@[simp] theorem Team.modGroup_tvec (t : Team) (g f) : (t.modGroup g f).tvec = t.tvec := rfl
@[simp] theorem Team.modGroup_ferrylate (t : Team) (g f) : (t.modGroup g f).ferrylate = t.ferrylate := rfl
@[simp] theorem Team.modGroup_mode (t : Team) (g f) : (t.modGroup g f).mode = t.mode := rfl
@[simp] theorem Team.modGroup_records (t : Team) (g f) : (t.modGroup g f).records = t.records := rfl
@[simp] theorem Team.modGroup_stop (t : Team) (g f) : (t.modGroup g f).stop = t.stop := rfl
@[simp] theorem Team.modGroup_resumeCw (t : Team) (g f) : (t.modGroup g f).resumeCw = t.resumeCw := rfl
@[simp] theorem Team.modGroup_placed (t : Team) (g f) : (t.modGroup g f).placed = t.placed := rfl

/-! ### Teams and groups -/

theorem find?_map_upd {α : Type} (l : List α) (key : α → Nat) (f : α → α) (k j : Nat)
    (hf : ∀ x, key (f x) = key x) :
    (l.map fun x => if key x = k then f x else x).find? (fun x => key x == j) =
      if j = k then (l.find? fun x => key x == j).map f else l.find? fun x => key x == j := by
  induction l with
  | nil => simp
  | cons x r ih =>
    rw [List.map_cons, List.find?_cons, List.find?_cons, ih]
    by_cases hx : key x = k
    · by_cases hj : j = k
      · subst hj; simp [hx, hf]
      · have h1 : (key x == j) = false := by simp; omega
        have h2 : (key (f x) == j) = false := by simp [hf]; omega
        simp only [if_pos hx, if_neg hj, h1, h2]
    · by_cases hj : key x = j
      · have : ¬ j = k := by omega
        simp [hj, this]
      · have h1 : (key x == j) = false := by simp [hj]
        simp only [if_neg hx, h1]

/-- A team after a change of a team: the change keeps the team's key. -/
theorem State.team?_modTeam (s : State) (k j : Nat) (f : Team → Team) (hf : ∀ t, (f t).key = t.key) :
    (s.modTeam k f).team? j = if j = k then (s.team? j).map f else s.team? j :=
  find?_map_upd s.teams Team.key f k j hf

theorem Team.group?_modGroup (t : Team) (k j : Nat) (f : Group → Group)
    (hf : ∀ g, (f g).index = g.index) :
    (t.modGroup k f).group? j = if j = k then (t.group? j).map f else t.group? j :=
  find?_map_upd t.groups Group.index f k j hf

theorem State.team_modTeam_ne {s : State} {k j : Nat} {f : Team → Team} (hf : ∀ t, (f t).key = t.key)
    (h : j ≠ k) : (s.modTeam k f).team j = s.team j := by
  simp [State.team, State.team?_modTeam _ _ _ _ hf, h]

theorem State.team_modTeam {s : State} {k : Nat} {f : Team → Team} (hf : ∀ t, (f t).key = t.key)
    (h : (s.team? k).isSome = true) : (s.modTeam k f).team k = f (s.team k) := by
  obtain ⟨t, ht⟩ := Option.isSome_iff_exists.mp h
  simp [State.team, State.team?_modTeam _ _ _ _ hf, ht]

/-- The issuing group after a change of it that keeps its index. -/
theorem State.cg_modCg {s : State} {f : Group → Group} (hf : ∀ g, (f g).index = g.index)
    (ht : (s.team? s.curTeam).isSome = true) (hg : (s.ct.group? s.curGroup).isSome = true) :
    (s.modCg f).cg = f s.cg := by
  obtain ⟨g, hg⟩ := Option.isSome_iff_exists.mp hg
  have h := State.team_modTeam (s := s) (k := s.curTeam) (f := fun t => t.modGroup s.curGroup f)
    (fun _ => rfl) ht
  unfold State.ct at hg
  simp only [State.cg, State.modCg, State.modGroup, State.modTeam_curTeam, State.modTeam_curGroup,
    State.group, h, Team.group, Team.group?_modGroup _ _ _ _ hf, hg, if_pos, Option.map_some,
    Option.getD_some]

theorem State.ct_modCg {s : State} {f : Group → Group}
    (ht : (s.team? s.curTeam).isSome = true) : (s.modCg f).ct = s.ct.modGroup s.curGroup f :=
  State.team_modTeam (s := s) (k := s.curTeam) (f := fun t => t.modGroup s.curGroup f) (fun _ => rfl) ht

@[simp] theorem State.modCg_modCg (s : State) (f h : Group → Group) (hf : ∀ g, (f g).index = g.index) :
    (s.modCg f).modCg h = s.modCg fun g => h (f g) := by
  have e : ∀ (x : Team), (if x.key = s.curTeam then x.modGroup s.curGroup f else x).key = x.key := by
    intro x; split <;> rfl
  simp only [State.modCg, State.modGroup, State.modTeam, List.map_map]
  congr 1
  apply List.map_congr_left
  intro t _
  simp only [Function.comp]
  by_cases hk : t.key = s.curTeam
  · simp only [hk, if_pos, Team.modGroup, List.map_map]
    congr 1
    apply List.map_congr_left
    intro g _
    by_cases hi : g.index = s.curGroup <;> simp [hi, hf]
  · simp [hk]

/-! ### Lanes -/

@[simp] theorem Group.modLanes_length (g : Group) (m : Mask) (f : Nat → Lane → Lane) :
    (g.modLanes m f).lanes.length = g.lanes.length := by simp [Group.modLanes]

@[simp] theorem Group.modLane_length (g : Group) (l : Nat) (f : Lane → Lane) :
    (g.modLane l f).lanes.length = g.lanes.length := by simp [Group.modLane]

theorem Group.lane_modLanes {g : Group} {m : Mask} {f : Nat → Lane → Lane} {l : Nat}
    (h : l < g.lanes.length) :
    (g.modLanes m f).lane l = if m.getLsbD l then f l (g.lane l) else g.lane l := by
  simp [Group.lane, Group.modLanes, List.getD_eq_getElem?_getD, h]

theorem Group.lane_modLane {g : Group} {k : Nat} {f : Lane → Lane} {l : Nat} (h : l < g.lanes.length) :
    (g.modLane k f).lane l = if l = k then f (g.lane l) else g.lane l := by
  by_cases hk : k = l
  · subst hk
    simp [Group.lane, Group.modLane, List.getD_eq_getElem?_getD, h]
  · simp [Group.lane, Group.modLane, List.getD_eq_getElem?_getD, h, hk, Ne.symm hk]

/-! ### Registers -/

theorem getLsbD_setBit (m : Mask) (l j : Nat) (b : Bool) (hl : l < 32) :
    (setBit m l b).getLsbD j = if j = l then b else m.getLsbD j := by
  have h1 : (1#32 <<< l).getLsbD j = decide (j = l) := by
    rw [BitVec.getLsbD_shiftLeft, BitVec.getLsbD_one]
    by_cases h : j < l
    · have : ¬ j = l := by omega
      simp [h, this]
    · by_cases h2 : j = l
      · subst h2; simp [hl]
      · have : ¬ j - l = 0 := by omega
        simp [h2, this]
  cases b
  · rw [setBit, if_neg (by simp), BitVec.getLsbD_and, BitVec.getLsbD_not, h1]
    by_cases h : j = l
    · simp [h]
    · by_cases hj : j < 32
      · simp [h, hj]
      · simp [h, BitVec.getLsbD_of_ge m j (by omega)]
  · rw [setBit, if_pos rfl, BitVec.getLsbD_or, h1]
    by_cases h : j = l <;> simp [h]

/-- Whether a write is to an element: uniform registers ignore the lane. -/
def RegWrite.hits (w : RegWrite) (n : RegName) (l : Nat) : Bool :=
  decide (w.name = n) && (w.lane == l || (match n with | .s _ => true | .k _ => true | _ => false))

/-- What a register element holds after a value was written: a predicate holds one bit, p0 is true. -/
def held (n : RegName) (v : Word) : Word :=
  match n with
  | .p n => if n = 0 then 1 else if v = 0 then 0 else 1
  | _ => v

theorem elem_inj {a b l j : Nat} (hl : l < 32) (hj : j < 32) : elem a l = elem b j ↔ a = b ∧ l = j := by
  unfold elem; omega

/-- The register file after a write. -/
theorem Group.peek_poke (g : Group) (w : RegWrite) (n : RegName) (l : Nat) (hw : w.lane < 32)
    (hl : l < 32) : (g.poke w).peek n l = if w.hits n l then held n w.val else g.peek n l := by
  obtain ⟨name, lane, val⟩ := w
  dsimp only at hw
  have e : (lane == l) = decide (l = lane) := by
    by_cases h : l = lane
    · simp [h]
    · have : ¬ lane = l := fun h2 => h h2.symm
      simp [h, this]
  cases name with
  | g a =>
    cases n <;> simp only [Group.poke, Group.peek, RegWrite.hits, held, e] <;> (try simp) <;> (try rfl)
    rename_i b
    simp only [elem_inj hl hw, eq_comm (a := b)]
  | c a =>
    cases n <;> simp only [Group.poke, Group.peek, RegWrite.hits, held, e] <;> (try simp) <;> (try rfl)
    rename_i b
    simp only [elem_inj hl hw, eq_comm (a := b)]
  | s a =>
    cases n <;> simp only [Group.poke, Group.peek, RegWrite.hits, held, e] <;> (try simp) <;> (try rfl)
    rename_i b
    simp only [eq_comm (a := b)]
  | k a =>
    cases n <;> simp only [Group.poke, Group.peek, RegWrite.hits, held, e] <;> (try simp) <;> (try rfl)
    rename_i b
    simp only [eq_comm (a := b)]
  | p a =>
    by_cases ha : a = 0
    · subst ha
      cases n <;> simp only [Group.poke, Group.peek, RegWrite.hits, held, if_true] <;> simp
      rename_i b
      by_cases hb : b = 0
      · simp [hb]
      · simp [hb, Ne.symm hb]
    · cases n <;> simp only [Group.poke, Group.peek, RegWrite.hits, held, if_neg ha] <;> simp
      rename_i b
      by_cases hb : b = 0
      · subst hb; simp
      · by_cases hab : a = b
        · subst hab
          simp only [hb, if_false, if_true, getLsbD_setBit _ _ _ _ hw]
          by_cases hll : l = lane
          · subst hll
            by_cases hv : val = 0 <;> simp [hv]
          · simp [hll, Ne.symm hll]
        · simp [hb, hab, Ne.symm hab]

/-- What a write of the register file leaves alone: everything but the registers. -/
theorem Group.poke_rest (g : Group) (w : RegWrite) :
    { g.poke w with g := g.g, p := g.p, s := g.s, k := g.k, c := g.c, latch := g.latch } = g := by
  unfold Group.poke
  split <;> first | rfl | (split <;> rfl)

theorem Group.poke_pending (g : Group) (w : RegWrite) : (g.poke w).pending = g.pending := by
  unfold Group.poke
  split <;> first | rfl | (split <;> rfl)

theorem Group.poke_seq (g : Group) (w : RegWrite) : (g.poke w).seq = g.seq := by
  unfold Group.poke
  split <;> first | rfl | (split <;> rfl)

/-- What a short-latency write leaves alone. -/
theorem Group.write_rest (g : Group) (w : RegWrite) :
    { g.write w with g := g.g, p := g.p, s := g.s, k := g.k, c := g.c, pending := g.pending, latch := g.latch } = g := by
  have := Group.poke_rest { g with pending := g.pending.map fun (r : PendRes) => r.kill w.name w.lane } w
  unfold Group.write
  exact congrArg (fun x : Group => { x with pending := g.pending }) this

theorem Group.writes_rest (g : Group) (ws : List RegWrite) :
    { g.writes ws with g := g.g, p := g.p, s := g.s, k := g.k, c := g.c, pending := g.pending, latch := g.latch } = g := by
  unfold Group.writes
  induction ws generalizing g with
  | nil => rfl
  | cons w r ih =>
    rw [List.foldl_cons]
    have h1 := ih (g.write w)
    have h2 := Group.write_rest g w
    exact (congrArg (fun x : Group => { x with g := g.g, p := g.p, s := g.s, k := g.k, c := g.c, pending := g.pending, latch := g.latch }) h1).trans h2

/-- What a release leaves alone. -/
theorem Group.release_rest (g : Group) (n : RegName) :
    { g.release n with g := g.g, p := g.p, s := g.s, k := g.k, c := g.c, pending := g.pending, latch := g.latch } = g := by
  unfold Group.release
  generalize List.range 32 = ls
  have : ∀ g' : Group, { ls.foldl (fun g l => g.poke { name := n, lane := l, val := 0 }) g' with
      g := g.g, p := g.p, s := g.s, k := g.k, c := g.c, pending := g.pending, latch := g.latch } =
      { g' with g := g.g, p := g.p, s := g.s, k := g.k, c := g.c, pending := g.pending, latch := g.latch } := by
    induction ls with
    | nil => intro g'; rfl
    | cons l r ih =>
      intro g'
      rw [List.foldl_cons, ih]
      exact congrArg (fun x : Group => { x with g := g.g, p := g.p, s := g.s, k := g.k, c := g.c, pending := g.pending, latch := g.latch }) (Group.poke_rest g' { name := n, lane := l, val := 0 })
  exact this g

@[simp] theorem Group.write_index (g : Group) (w) : (g.write w).index = g.index := by have h := congrArg Group.index (g.write_rest w); exact h
@[simp] theorem Group.write_role (g : Group) (w) : (g.write w).role = g.role := by have h := congrArg Group.role (g.write_rest w); exact h
@[simp] theorem Group.write_slot (g : Group) (w) : (g.write w).slot = g.slot := by have h := congrArg Group.slot (g.write_rest w); exact h
@[simp] theorem Group.write_gen (g : Group) (w) : (g.write w).gen = g.gen := by have h := congrArg Group.gen (g.write_rest w); exact h
@[simp] theorem Group.write_port (g : Group) (w) : (g.write w).port = g.port := by have h := congrArg Group.port (g.write_rest w); exact h
@[simp] theorem Group.write_budget (g : Group) (w) : (g.write w).budget = g.budget := by have h := congrArg Group.budget (g.write_rest w); exact h
@[simp] theorem Group.write_ended (g : Group) (w) : (g.write w).ended = g.ended := by have h := congrArg Group.ended (g.write_rest w); exact h
@[simp] theorem Group.write_lanes (g : Group) (w) : (g.write w).lanes = g.lanes := by have h := congrArg Group.lanes (g.write_rest w); exact h
@[simp] theorem Group.write_rejoins (g : Group) (w) : (g.write w).rejoins = g.rejoins := by have h := congrArg Group.rejoins (g.write_rest w); exact h
@[simp] theorem Group.write_exmask (g : Group) (w) : (g.write w).exmask = g.exmask := by have h := congrArg Group.exmask (g.write_rest w); exact h
@[simp] theorem Group.write_limit (g : Group) (w) : (g.write w).limit = g.limit := by have h := congrArg Group.limit (g.write_rest w); exact h
@[simp] theorem Group.write_timer (g : Group) (w) : (g.write w).timer = g.timer := by have h := congrArg Group.timer (g.write_rest w); exact h
@[simp] theorem Group.write_queue (g : Group) (w) : (g.write w).queue = g.queue := by have h := congrArg Group.queue (g.write_rest w); exact h
@[simp] theorem Group.write_qovf (g : Group) (w) : (g.write w).qovf = g.qovf := by have h := congrArg Group.qovf (g.write_rest w); exact h
@[simp] theorem Group.write_accepted (g : Group) (w) : (g.write w).accepted = g.accepted := by have h := congrArg Group.accepted (g.write_rest w); exact h
@[simp] theorem Group.write_heldOp (g : Group) (w) : (g.write w).heldOp = g.heldOp := by have h := congrArg Group.heldOp (g.write_rest w); exact h
@[simp] theorem Group.write_since (g : Group) (w) : (g.write w).since = g.since := by have h := congrArg Group.since (g.write_rest w); exact h
@[simp] theorem Group.write_seq (g : Group) (w) : (g.write w).seq = g.seq := by have h := congrArg Group.seq (g.write_rest w); exact h
@[simp] theorem Group.write_clause (g : Group) (w) : (g.write w).clause = g.clause := by have h := congrArg Group.clause (g.write_rest w); exact h
@[simp] theorem Group.write_park (g : Group) (w) : (g.write w).park = g.park := by have h := congrArg Group.park (g.write_rest w); exact h
@[simp] theorem Group.write_hold (g : Group) (w) : (g.write w).hold = g.hold := by have h := congrArg Group.hold (g.write_rest w); exact h
@[simp] theorem Group.write_fpflags (g : Group) (w) : (g.write w).fpflags = g.fpflags := by have h := congrArg Group.fpflags (g.write_rest w); exact h
@[simp] theorem Group.write_rngseed (g : Group) (w) : (g.write w).rngseed = g.rngseed := by have h := congrArg Group.rngseed (g.write_rest w); exact h
@[simp] theorem Group.write_accbase (g : Group) (w) : (g.write w).accbase = g.accbase := by have h := congrArg Group.accbase (g.write_rest w); exact h
@[simp] theorem Group.write_acclim (g : Group) (w) : (g.write w).acclim = g.acclim := by have h := congrArg Group.acclim (g.write_rest w); exact h
@[simp] theorem Group.write_wflags (g : Group) (w) : (g.write w).wflags = g.wflags := by have h := congrArg Group.wflags (g.write_rest w); exact h
@[simp] theorem Group.write_chprog (g : Group) (w) : (g.write w).chprog = g.chprog := by have h := congrArg Group.chprog (g.write_rest w); exact h
@[simp] theorem Group.write_trapRegs (g : Group) (w) : (g.write w).trapRegs = g.trapRegs := by have h := congrArg Group.trapRegs (g.write_rest w); exact h
@[simp] theorem Group.write_entry (g : Group) (w) : (g.write w).entry = g.entry := by have h := congrArg Group.entry (g.write_rest w); exact h
@[simp] theorem Group.write_frames (g : Group) (w) : (g.write w).frames = g.frames := by have h := congrArg Group.frames (g.write_rest w); exact h
@[simp] theorem Group.write_spill (g : Group) (w) : (g.write w).spill = g.spill := by have h := congrArg Group.spill (g.write_rest w); exact h
@[simp] theorem Group.write_frame (g : Group) (w) : (g.write w).frame = g.frame := by have h := congrArg Group.frame (g.write_rest w); exact h
@[simp] theorem Group.write_watches (g : Group) (w) : (g.write w).watches = g.watches := by have h := congrArg Group.watches (g.write_rest w); exact h
@[simp] theorem Group.write_lastPages (g : Group) (w) : (g.write w).lastPages = g.lastPages := by have h := congrArg Group.lastPages (g.write_rest w); exact h
@[simp] theorem Group.write_halted (g : Group) (w) : (g.write w).halted = g.halted := by have h := congrArg Group.halted (g.write_rest w); exact h
@[simp] theorem Group.write_stopped (g : Group) (w) : (g.write w).stopped = g.stopped := by have h := congrArg Group.stopped (g.write_rest w); exact h
@[simp] theorem Group.write_barStop (g : Group) (w) : (g.write w).barStop = g.barStop := by have h := congrArg Group.barStop (g.write_rest w); exact h
@[simp] theorem Group.write_watchdog (g : Group) (w) : (g.write w).watchdog = g.watchdog := by have h := congrArg Group.watchdog (g.write_rest w); exact h
@[simp] theorem Group.write_sample (g : Group) (w) : (g.write w).sample = g.sample := by have h := congrArg Group.sample (g.write_rest w); exact h
@[simp] theorem Group.write_perf (g : Group) (w) : (g.write w).perf = g.perf := by have h := congrArg Group.perf (g.write_rest w); exact h
@[simp] theorem Group.write_capsel (g : Group) (w) : (g.write w).capsel = g.capsel := by have h := congrArg Group.capsel (g.write_rest w); exact h
@[simp] theorem Group.write_stamp (g : Group) (w) : (g.write w).stamp = g.stamp := by have h := congrArg Group.stamp (g.write_rest w); exact h
@[simp] theorem Group.write_saved (g : Group) (w) : (g.write w).saved = g.saved := by have h := congrArg Group.saved (g.write_rest w); exact h
@[simp] theorem Group.write_loaded (g : Group) (w) : (g.write w).loaded = g.loaded := by have h := congrArg Group.loaded (g.write_rest w); exact h
@[simp] theorem Group.write_older (g : Group) (w) : (g.write w).older = g.older := by have h := congrArg Group.older (g.write_rest w); exact h
@[simp] theorem Group.write_entering (g : Group) (w) : (g.write w).entering = g.entering := by have h := congrArg Group.entering (g.write_rest w); exact h
@[simp] theorem Group.writes_index (g : Group) (ws) : (g.writes ws).index = g.index := by have h := congrArg Group.index (g.writes_rest ws); exact h
@[simp] theorem Group.writes_role (g : Group) (ws) : (g.writes ws).role = g.role := by have h := congrArg Group.role (g.writes_rest ws); exact h
@[simp] theorem Group.writes_slot (g : Group) (ws) : (g.writes ws).slot = g.slot := by have h := congrArg Group.slot (g.writes_rest ws); exact h
@[simp] theorem Group.writes_gen (g : Group) (ws) : (g.writes ws).gen = g.gen := by have h := congrArg Group.gen (g.writes_rest ws); exact h
@[simp] theorem Group.writes_port (g : Group) (ws) : (g.writes ws).port = g.port := by have h := congrArg Group.port (g.writes_rest ws); exact h
@[simp] theorem Group.writes_budget (g : Group) (ws) : (g.writes ws).budget = g.budget := by have h := congrArg Group.budget (g.writes_rest ws); exact h
@[simp] theorem Group.writes_ended (g : Group) (ws) : (g.writes ws).ended = g.ended := by have h := congrArg Group.ended (g.writes_rest ws); exact h
@[simp] theorem Group.writes_lanes (g : Group) (ws) : (g.writes ws).lanes = g.lanes := by have h := congrArg Group.lanes (g.writes_rest ws); exact h
@[simp] theorem Group.writes_rejoins (g : Group) (ws) : (g.writes ws).rejoins = g.rejoins := by have h := congrArg Group.rejoins (g.writes_rest ws); exact h
@[simp] theorem Group.writes_exmask (g : Group) (ws) : (g.writes ws).exmask = g.exmask := by have h := congrArg Group.exmask (g.writes_rest ws); exact h
@[simp] theorem Group.writes_limit (g : Group) (ws) : (g.writes ws).limit = g.limit := by have h := congrArg Group.limit (g.writes_rest ws); exact h
@[simp] theorem Group.writes_timer (g : Group) (ws) : (g.writes ws).timer = g.timer := by have h := congrArg Group.timer (g.writes_rest ws); exact h
@[simp] theorem Group.writes_queue (g : Group) (ws) : (g.writes ws).queue = g.queue := by have h := congrArg Group.queue (g.writes_rest ws); exact h
@[simp] theorem Group.writes_qovf (g : Group) (ws) : (g.writes ws).qovf = g.qovf := by have h := congrArg Group.qovf (g.writes_rest ws); exact h
@[simp] theorem Group.writes_accepted (g : Group) (ws) : (g.writes ws).accepted = g.accepted := by have h := congrArg Group.accepted (g.writes_rest ws); exact h
@[simp] theorem Group.writes_heldOp (g : Group) (ws) : (g.writes ws).heldOp = g.heldOp := by have h := congrArg Group.heldOp (g.writes_rest ws); exact h
@[simp] theorem Group.writes_since (g : Group) (ws) : (g.writes ws).since = g.since := by have h := congrArg Group.since (g.writes_rest ws); exact h
@[simp] theorem Group.writes_seq (g : Group) (ws) : (g.writes ws).seq = g.seq := by have h := congrArg Group.seq (g.writes_rest ws); exact h
@[simp] theorem Group.writes_clause (g : Group) (ws) : (g.writes ws).clause = g.clause := by have h := congrArg Group.clause (g.writes_rest ws); exact h
@[simp] theorem Group.writes_park (g : Group) (ws) : (g.writes ws).park = g.park := by have h := congrArg Group.park (g.writes_rest ws); exact h
@[simp] theorem Group.writes_hold (g : Group) (ws) : (g.writes ws).hold = g.hold := by have h := congrArg Group.hold (g.writes_rest ws); exact h
@[simp] theorem Group.writes_fpflags (g : Group) (ws) : (g.writes ws).fpflags = g.fpflags := by have h := congrArg Group.fpflags (g.writes_rest ws); exact h
@[simp] theorem Group.writes_rngseed (g : Group) (ws) : (g.writes ws).rngseed = g.rngseed := by have h := congrArg Group.rngseed (g.writes_rest ws); exact h
@[simp] theorem Group.writes_accbase (g : Group) (ws) : (g.writes ws).accbase = g.accbase := by have h := congrArg Group.accbase (g.writes_rest ws); exact h
@[simp] theorem Group.writes_acclim (g : Group) (ws) : (g.writes ws).acclim = g.acclim := by have h := congrArg Group.acclim (g.writes_rest ws); exact h
@[simp] theorem Group.writes_wflags (g : Group) (ws) : (g.writes ws).wflags = g.wflags := by have h := congrArg Group.wflags (g.writes_rest ws); exact h
@[simp] theorem Group.writes_chprog (g : Group) (ws) : (g.writes ws).chprog = g.chprog := by have h := congrArg Group.chprog (g.writes_rest ws); exact h
@[simp] theorem Group.writes_trapRegs (g : Group) (ws) : (g.writes ws).trapRegs = g.trapRegs := by have h := congrArg Group.trapRegs (g.writes_rest ws); exact h
@[simp] theorem Group.writes_entry (g : Group) (ws) : (g.writes ws).entry = g.entry := by have h := congrArg Group.entry (g.writes_rest ws); exact h
@[simp] theorem Group.writes_frames (g : Group) (ws) : (g.writes ws).frames = g.frames := by have h := congrArg Group.frames (g.writes_rest ws); exact h
@[simp] theorem Group.writes_spill (g : Group) (ws) : (g.writes ws).spill = g.spill := by have h := congrArg Group.spill (g.writes_rest ws); exact h
@[simp] theorem Group.writes_frame (g : Group) (ws) : (g.writes ws).frame = g.frame := by have h := congrArg Group.frame (g.writes_rest ws); exact h
@[simp] theorem Group.writes_watches (g : Group) (ws) : (g.writes ws).watches = g.watches := by have h := congrArg Group.watches (g.writes_rest ws); exact h
@[simp] theorem Group.writes_lastPages (g : Group) (ws) : (g.writes ws).lastPages = g.lastPages := by have h := congrArg Group.lastPages (g.writes_rest ws); exact h
@[simp] theorem Group.writes_halted (g : Group) (ws) : (g.writes ws).halted = g.halted := by have h := congrArg Group.halted (g.writes_rest ws); exact h
@[simp] theorem Group.writes_stopped (g : Group) (ws) : (g.writes ws).stopped = g.stopped := by have h := congrArg Group.stopped (g.writes_rest ws); exact h
@[simp] theorem Group.writes_barStop (g : Group) (ws) : (g.writes ws).barStop = g.barStop := by have h := congrArg Group.barStop (g.writes_rest ws); exact h
@[simp] theorem Group.writes_watchdog (g : Group) (ws) : (g.writes ws).watchdog = g.watchdog := by have h := congrArg Group.watchdog (g.writes_rest ws); exact h
@[simp] theorem Group.writes_sample (g : Group) (ws) : (g.writes ws).sample = g.sample := by have h := congrArg Group.sample (g.writes_rest ws); exact h
@[simp] theorem Group.writes_perf (g : Group) (ws) : (g.writes ws).perf = g.perf := by have h := congrArg Group.perf (g.writes_rest ws); exact h
@[simp] theorem Group.writes_capsel (g : Group) (ws) : (g.writes ws).capsel = g.capsel := by have h := congrArg Group.capsel (g.writes_rest ws); exact h
@[simp] theorem Group.writes_stamp (g : Group) (ws) : (g.writes ws).stamp = g.stamp := by have h := congrArg Group.stamp (g.writes_rest ws); exact h
@[simp] theorem Group.writes_saved (g : Group) (ws) : (g.writes ws).saved = g.saved := by have h := congrArg Group.saved (g.writes_rest ws); exact h
@[simp] theorem Group.writes_loaded (g : Group) (ws) : (g.writes ws).loaded = g.loaded := by have h := congrArg Group.loaded (g.writes_rest ws); exact h
@[simp] theorem Group.writes_older (g : Group) (ws) : (g.writes ws).older = g.older := by have h := congrArg Group.older (g.writes_rest ws); exact h
@[simp] theorem Group.writes_entering (g : Group) (ws) : (g.writes ws).entering = g.entering := by have h := congrArg Group.entering (g.writes_rest ws); exact h
@[simp] theorem Group.release_index (g : Group) (n) : (g.release n).index = g.index := by have h := congrArg Group.index (g.release_rest n); exact h
@[simp] theorem Group.release_role (g : Group) (n) : (g.release n).role = g.role := by have h := congrArg Group.role (g.release_rest n); exact h
@[simp] theorem Group.release_slot (g : Group) (n) : (g.release n).slot = g.slot := by have h := congrArg Group.slot (g.release_rest n); exact h
@[simp] theorem Group.release_gen (g : Group) (n) : (g.release n).gen = g.gen := by have h := congrArg Group.gen (g.release_rest n); exact h
@[simp] theorem Group.release_port (g : Group) (n) : (g.release n).port = g.port := by have h := congrArg Group.port (g.release_rest n); exact h
@[simp] theorem Group.release_budget (g : Group) (n) : (g.release n).budget = g.budget := by have h := congrArg Group.budget (g.release_rest n); exact h
@[simp] theorem Group.release_ended (g : Group) (n) : (g.release n).ended = g.ended := by have h := congrArg Group.ended (g.release_rest n); exact h
@[simp] theorem Group.release_lanes (g : Group) (n) : (g.release n).lanes = g.lanes := by have h := congrArg Group.lanes (g.release_rest n); exact h
@[simp] theorem Group.release_rejoins (g : Group) (n) : (g.release n).rejoins = g.rejoins := by have h := congrArg Group.rejoins (g.release_rest n); exact h
@[simp] theorem Group.release_exmask (g : Group) (n) : (g.release n).exmask = g.exmask := by have h := congrArg Group.exmask (g.release_rest n); exact h
@[simp] theorem Group.release_limit (g : Group) (n) : (g.release n).limit = g.limit := by have h := congrArg Group.limit (g.release_rest n); exact h
@[simp] theorem Group.release_timer (g : Group) (n) : (g.release n).timer = g.timer := by have h := congrArg Group.timer (g.release_rest n); exact h
@[simp] theorem Group.release_queue (g : Group) (n) : (g.release n).queue = g.queue := by have h := congrArg Group.queue (g.release_rest n); exact h
@[simp] theorem Group.release_qovf (g : Group) (n) : (g.release n).qovf = g.qovf := by have h := congrArg Group.qovf (g.release_rest n); exact h
@[simp] theorem Group.release_accepted (g : Group) (n) : (g.release n).accepted = g.accepted := by have h := congrArg Group.accepted (g.release_rest n); exact h
@[simp] theorem Group.release_heldOp (g : Group) (n) : (g.release n).heldOp = g.heldOp := by have h := congrArg Group.heldOp (g.release_rest n); exact h
@[simp] theorem Group.release_since (g : Group) (n) : (g.release n).since = g.since := by have h := congrArg Group.since (g.release_rest n); exact h
@[simp] theorem Group.release_seq (g : Group) (n) : (g.release n).seq = g.seq := by have h := congrArg Group.seq (g.release_rest n); exact h
@[simp] theorem Group.release_clause (g : Group) (n) : (g.release n).clause = g.clause := by have h := congrArg Group.clause (g.release_rest n); exact h
@[simp] theorem Group.release_park (g : Group) (n) : (g.release n).park = g.park := by have h := congrArg Group.park (g.release_rest n); exact h
@[simp] theorem Group.release_hold (g : Group) (n) : (g.release n).hold = g.hold := by have h := congrArg Group.hold (g.release_rest n); exact h
@[simp] theorem Group.release_fpflags (g : Group) (n) : (g.release n).fpflags = g.fpflags := by have h := congrArg Group.fpflags (g.release_rest n); exact h
@[simp] theorem Group.release_rngseed (g : Group) (n) : (g.release n).rngseed = g.rngseed := by have h := congrArg Group.rngseed (g.release_rest n); exact h
@[simp] theorem Group.release_accbase (g : Group) (n) : (g.release n).accbase = g.accbase := by have h := congrArg Group.accbase (g.release_rest n); exact h
@[simp] theorem Group.release_acclim (g : Group) (n) : (g.release n).acclim = g.acclim := by have h := congrArg Group.acclim (g.release_rest n); exact h
@[simp] theorem Group.release_wflags (g : Group) (n) : (g.release n).wflags = g.wflags := by have h := congrArg Group.wflags (g.release_rest n); exact h
@[simp] theorem Group.release_chprog (g : Group) (n) : (g.release n).chprog = g.chprog := by have h := congrArg Group.chprog (g.release_rest n); exact h
@[simp] theorem Group.release_trapRegs (g : Group) (n) : (g.release n).trapRegs = g.trapRegs := by have h := congrArg Group.trapRegs (g.release_rest n); exact h
@[simp] theorem Group.release_entry (g : Group) (n) : (g.release n).entry = g.entry := by have h := congrArg Group.entry (g.release_rest n); exact h
@[simp] theorem Group.release_frames (g : Group) (n) : (g.release n).frames = g.frames := by have h := congrArg Group.frames (g.release_rest n); exact h
@[simp] theorem Group.release_spill (g : Group) (n) : (g.release n).spill = g.spill := by have h := congrArg Group.spill (g.release_rest n); exact h
@[simp] theorem Group.release_frame (g : Group) (n) : (g.release n).frame = g.frame := by have h := congrArg Group.frame (g.release_rest n); exact h
@[simp] theorem Group.release_watches (g : Group) (n) : (g.release n).watches = g.watches := by have h := congrArg Group.watches (g.release_rest n); exact h
@[simp] theorem Group.release_lastPages (g : Group) (n) : (g.release n).lastPages = g.lastPages := by have h := congrArg Group.lastPages (g.release_rest n); exact h
@[simp] theorem Group.release_halted (g : Group) (n) : (g.release n).halted = g.halted := by have h := congrArg Group.halted (g.release_rest n); exact h
@[simp] theorem Group.release_stopped (g : Group) (n) : (g.release n).stopped = g.stopped := by have h := congrArg Group.stopped (g.release_rest n); exact h
@[simp] theorem Group.release_barStop (g : Group) (n) : (g.release n).barStop = g.barStop := by have h := congrArg Group.barStop (g.release_rest n); exact h
@[simp] theorem Group.release_watchdog (g : Group) (n) : (g.release n).watchdog = g.watchdog := by have h := congrArg Group.watchdog (g.release_rest n); exact h
@[simp] theorem Group.release_sample (g : Group) (n) : (g.release n).sample = g.sample := by have h := congrArg Group.sample (g.release_rest n); exact h
@[simp] theorem Group.release_perf (g : Group) (n) : (g.release n).perf = g.perf := by have h := congrArg Group.perf (g.release_rest n); exact h
@[simp] theorem Group.release_capsel (g : Group) (n) : (g.release n).capsel = g.capsel := by have h := congrArg Group.capsel (g.release_rest n); exact h
@[simp] theorem Group.release_stamp (g : Group) (n) : (g.release n).stamp = g.stamp := by have h := congrArg Group.stamp (g.release_rest n); exact h
@[simp] theorem Group.release_saved (g : Group) (n) : (g.release n).saved = g.saved := by have h := congrArg Group.saved (g.release_rest n); exact h
@[simp] theorem Group.release_loaded (g : Group) (n) : (g.release n).loaded = g.loaded := by have h := congrArg Group.loaded (g.release_rest n); exact h
@[simp] theorem Group.release_older (g : Group) (n) : (g.release n).older = g.older := by have h := congrArg Group.older (g.release_rest n); exact h
@[simp] theorem Group.release_entering (g : Group) (n) : (g.release n).entering = g.entering := by have h := congrArg Group.entering (g.release_rest n); exact h

/-! ### Reads of registers after writes -/

theorem PendRes.has_kill (r : PendRes) (n m : RegName) (l j : Nat) (hl : l < 32) :
    (r.kill n l).has m j = (r.has m j && !(decide (m = n) && decide (j = l))) := by
  obtain ⟨id, seq, live, need, vals, landed, loads, atomic, acquire⟩ := r
  simp only [PendRes.kill, PendRes.has, List.any_map]
  induction live with
  | nil => simp
  | cons x r ih =>
    simp only [List.any_cons, ih, Function.comp, Bool.and_or_distrib_right]
    congr 1
    by_cases hx : x.1 = n
    · simp only [if_pos hx]
      simp only [getLsbD_setBit _ _ _ _ hl]
      by_cases hm : x.1 = m
      · have hmn : m = n := hm.symm.trans hx
        by_cases hj : j = l <;> simp [hm, hj, hmn]
      · simp [hm]
    · simp only [if_neg hx]
      by_cases hm : x.1 = m
      · have : ¬ m = n := fun h => hx (hm.trans h)
        simp [hm, this]
      · simp [hm]

/-- Reads depend on the registers and the pending results of the running clause execution alone. -/
theorem Group.read_congr {g h : Group} {n : RegName} {l : Nat} (hp : g.peek n l = h.peek n l)
    (hr : g.pending = h.pending) (hs : g.seq = h.seq) : g.read n l = h.read n l := by
  simp only [Group.read, hp, hr, hs]

/-- The reading of a list of pending results. -/
def readOf (ps : List PendRes) (n : RegName) (l : Nat) (v : Word) : Word :=
  match ps.reverse with
  | _ :: r :: _ => (r.value? n l).getD v
  | _ => v

theorem Group.read_eq (g : Group) (n : RegName) (l : Nat) :
    g.read n l = if n = .p 0 then 1 else
      readOf (g.pending.filter fun r => r.seq == g.seq && r.has n l) n l (g.peek n l) := rfl

theorem readOf_map (ps : List PendRes) (f : PendRes → PendRes) (n : RegName) (l : Nat) (v : Word)
    (hf : ∀ r, (f r).vals = r.vals) : readOf (ps.map f) n l v = readOf ps n l v := by
  unfold readOf
  rw [← List.map_reverse]
  cases ps.reverse with
  | nil => rfl
  | cons a t =>
    cases t with
    | nil => rfl
    | cons b t => simp only [List.map_cons, PendRes.value?, hf]

/-- A short-latency write is read back at its element (R42). -/
theorem Group.read_write (g : Group) (w : RegWrite) (hw : w.lane < 32) :
    (g.write w).read w.name w.lane = held w.name w.val := by
  have hp : (g.write w).peek w.name w.lane = held w.name w.val := by
    unfold Group.write
    rw [Group.peek_poke _ _ _ _ hw hw]
    simp [RegWrite.hits]
  rw [Group.read_eq, hp]
  split
  · next h => rw [h]; rfl
  have : ((g.write w).pending.filter fun r => r.seq == (g.write w).seq && r.has w.name w.lane) = [] := by
    unfold Group.write
    rw [Group.poke_pending, Group.poke_seq, List.filter_eq_nil_iff]
    intro r hr
    obtain ⟨r, _, rfl⟩ := List.mem_map.mp hr
    simp [PendRes.has_kill _ _ _ _ _ hw]
  rw [this]; rfl

/-- A short-latency write leaves every other element as it reads. -/
theorem Group.read_write_of_not_hits (g : Group) (w : RegWrite) (n : RegName) (l : Nat)
    (hw : w.lane < 32) (hl : l < 32) (h : w.hits n l = false) : (g.write w).read n l = g.read n l := by
  have hp : (g.write w).peek n l = g.peek n l := by
    unfold Group.write
    rw [Group.peek_poke _ _ _ _ hw hl, h]
    cases n <;> rfl
  have hk : ∀ r : PendRes, (r.kill w.name w.lane).has n l = r.has n l := by
    intro r
    rw [PendRes.has_kill _ _ _ _ _ hw]
    by_cases h1 : n = w.name
    · by_cases h2 : l = w.lane
      · subst h1 h2; simp [RegWrite.hits] at h
      · simp [h2]
    · simp [h1]
  rw [Group.read_eq, Group.read_eq, hp]
  split
  · rfl
  unfold Group.write
  rw [Group.poke_pending, Group.poke_seq, List.filter_map]
  rw [readOf_map _ (fun r => r.kill w.name w.lane) _ _ _ (fun _ => rfl)]
  congr 1
  apply List.filter_congr
  intro r _
  simp only [Function.comp, hk]
  rfl

theorem Group.read_writes_of_not_hits (g : Group) (ws : List RegWrite) (n : RegName) (l : Nat)
    (hl : l < 32) (hw : ∀ w ∈ ws, w.lane < 32 ∧ w.hits n l = false) :
    (g.writes ws).read n l = g.read n l := by
  unfold Group.writes
  induction ws generalizing g with
  | nil => rfl
  | cons w r ih =>
    rw [List.foldl_cons, ih _ (fun x hx => hw x (List.mem_cons_of_mem _ hx))]
    have := hw w List.mem_cons_self
    exact Group.read_write_of_not_hits g w n l this.1 hl this.2

/-- Writes of which all that meet an element write one value there. -/
theorem Group.read_writes (g : Group) (ws : List RegWrite) (n : RegName) (l : Nat) (v : Word)
    (hl : l < 32) (hlt : ∀ w ∈ ws, w.lane < 32)
    (hall : ∀ w ∈ ws, w.hits n l = true → w = { name := n, lane := l, val := v })
    (hsome : { name := n, lane := l, val := v } ∈ ws) : (g.writes ws).read n l = held n v := by
  unfold Group.writes
  induction ws generalizing g with
  | nil => simp at hsome
  | cons w r ih =>
    rw [List.foldl_cons]
    by_cases hr : { name := n, lane := l, val := v } ∈ r
    · exact ih _ (fun x hx => hlt x (List.mem_cons_of_mem _ hx))
        (fun x hx => hall x (List.mem_cons_of_mem _ hx)) hr
    · have hw : w = { name := n, lane := l, val := v } := by
        rcases List.mem_cons.mp hsome with h | h
        · exact h.symm
        · exact absurd h hr
      have h2 : ∀ x ∈ r, x.lane < 32 ∧ x.hits n l = false := by
        intro x hx
        refine ⟨hlt x (List.mem_cons_of_mem _ hx), ?_⟩
        by_cases hh : x.hits n l = true
        · exact absurd (hall x (List.mem_cons_of_mem _ hx) hh ▸ hx) hr
        · simpa using hh
      have := Group.read_writes_of_not_hits (g.write w) r n l hl h2
      unfold Group.writes at this
      rw [this, hw]
      exact Group.read_write g { name := n, lane := l, val := v } hl

end Sys2Proof.Machine
end

