-- ==== Sys2Proof/Laws/Run.lean ====
section
/-! SUPPORT. Laws of issuing a word: `run` always answers a next state, and what a word that completes
in every lane changes beside its results. -/

namespace Sys2Proof.Machine

open Sys2Proof.Safety

/-! ### Reads after a release -/

theorem Group.peek_zeros_ne (n m : RegName) (l : Nat) (hl : l < 32) (hm : m ≠ n) (ls : List Nat)
    (g : Group) (h : ∀ x ∈ ls, x < 32) :
    (ls.foldl (fun g l => g.poke { name := n, lane := l, val := 0 }) g).peek m l = g.peek m l := by
  induction ls generalizing g with
  | nil => rfl
  | cons x r ih =>
    rw [List.foldl_cons, ih _ (fun y hy => h y (List.mem_cons_of_mem _ hy)),
      Group.peek_poke _ _ _ _ (h x List.mem_cons_self) hl]
    simp [RegWrite.hits, Ne.symm hm]

theorem Group.peek_zeros_keep (n : RegName) (l : Nat) (hl : l < 32) (ls : List Nat)
    (g : Group) (h : ∀ x ∈ ls, x < 32) (hg : g.peek n l = held n 0) :
    (ls.foldl (fun g l => g.poke { name := n, lane := l, val := 0 }) g).peek n l = held n 0 := by
  induction ls generalizing g with
  | nil => exact hg
  | cons x r ih =>
    rw [List.foldl_cons]
    refine ih _ (fun y hy => h y (List.mem_cons_of_mem _ hy)) ?_
    rw [Group.peek_poke _ _ _ _ (h x List.mem_cons_self) hl, hg]
    simp

theorem Group.peek_zeros (n : RegName) (l : Nat) (hl : l < 32) (ls : List Nat)
    (g : Group) (h : ∀ x ∈ ls, x < 32) (hmem : l ∈ ls) :
    (ls.foldl (fun g l => g.poke { name := n, lane := l, val := 0 }) g).peek n l = held n 0 := by
  induction ls generalizing g with
  | nil => simp at hmem
  | cons x r ih =>
    have hr := fun y hy => h y (List.mem_cons_of_mem _ hy)
    rw [List.foldl_cons]
    rcases List.mem_cons.mp hmem with rfl | hm
    · refine Group.peek_zeros_keep n l hl r _ hr ?_
      rw [Group.peek_poke _ _ _ _ hl hl]
      simp [RegWrite.hits]
    · exact ih _ hr hm

/-- The register file after a release: the name reads 0 (p0 stays true), the others as before. -/
theorem Group.peek_release (g : Group) (n m : RegName) (l : Nat) (hl : l < 32) :
    (g.release n).peek m l = if m = n then held n 0 else g.peek m l := by
  have h : ∀ x ∈ List.range 32, x < 32 := by simp
  have e : ∀ (x : Group) (ps : List PendRes), ({ x with pending := ps } : Group).peek m l = x.peek m l :=
    fun _ _ => rfl
  unfold Group.release
  rw [e]
  by_cases hm : m = n
  · subst hm
    rw [if_pos rfl]
    exact Group.peek_zeros m l hl _ g h (by simpa using hl)
  · rw [if_neg hm]
    exact Group.peek_zeros_ne n m l hl hm _ g h

theorem PendRes.has_drop (r : PendRes) (n m : RegName) (l : Nat) :
    ({ r with live := r.live.map fun x => if x.1 = n then (x.1, 0) else x } : PendRes).has m l =
      (r.has m l && !decide (m = n)) := by
  simp only [PendRes.has, List.any_map]
  generalize r.live = live
  induction live with
  | nil => simp
  | cons x r ih =>
    simp only [List.any_cons, ih, Function.comp, Bool.and_or_distrib_right]
    congr 1
    by_cases hx : x.1 = n
    · simp only [if_pos hx]
      by_cases hm : x.1 = m
      · have hmn : m = n := hm.symm.trans hx
        simp [hm, hmn]
      · simp [hm]
    · simp only [if_neg hx]
      by_cases hm : x.1 = m
      · have : ¬ m = n := fun h => hx (hm.trans h)
        simp [hm, this]
      · simp [hm]

/-- Reads after a release (R43). -/
theorem Group.read_release (g : Group) (n m : RegName) (l : Nat) (hl : l < 32) :
    (g.release n).read m l = if m = n then held n 0 else g.read m l := by
  have hs : (g.release n).seq = g.seq := by simp
  have hp : (g.release n).pending = g.pending.map fun (r : PendRes) =>
      { r with live := r.live.map fun x => if x.1 = n then (x.1, 0) else x } := by
    unfold Group.release; rfl
  rw [Group.read_eq, Group.read_eq, Group.peek_release _ _ _ _ hl, hp, hs]
  by_cases hm : m = n
  · subst hm
    rw [if_pos rfl]
    by_cases hz : m = .p 0
    · rw [if_pos hz, hz]; rfl
    rw [if_neg hz]
    have : ((g.pending.map fun (r : PendRes) =>
      ({ r with live := r.live.map fun x => if x.1 = m then (x.1, 0) else x } : PendRes)).filter
        fun r => r.seq == g.seq && r.has m l) = [] := by
      rw [List.filter_eq_nil_iff]
      intro r hr
      obtain ⟨r, _, rfl⟩ := List.mem_map.mp hr
      rw [PendRes.has_drop]
      simp
    rw [this, if_pos rfl]; rfl
  · rw [if_neg hm, if_neg hm, List.filter_map,
      readOf_map _ (fun (r : PendRes) =>
        { r with live := r.live.map fun x => if x.1 = n then (x.1, 0) else x }) _ _ _ (fun _ => rfl)]
    congr 2
    apply List.filter_congr
    intro r _
    simp only [Function.comp]
    rw [PendRes.has_drop]
    simp [hm]

theorem Group.read_releases (g : Group) (ns : List RegName) (m : RegName) (l : Nat) (hl : l < 32) :
    (ns.foldl Group.release g).read m l = if m ∈ ns then held m 0 else g.read m l := by
  induction ns generalizing g with
  | nil => simp
  | cons n r ih =>
    rw [List.foldl_cons, ih, Group.read_release _ _ _ _ hl]
    by_cases h1 : m ∈ r
    · simp [h1]
    · by_cases h2 : m = n
      · subst h2; simp [h1]
      · simp [h1, h2]

theorem Group.releases_rest (g : Group) (ns : List RegName) :
    { ns.foldl Group.release g with
      g := g.g, p := g.p, s := g.s, k := g.k, c := g.c, pending := g.pending, latch := g.latch } = g := by
  induction ns generalizing g with
  | nil => rfl
  | cons n r ih =>
    rw [List.foldl_cons]
    have h1 := ih (g.release n)
    have h2 := Group.release_rest g n
    exact (congrArg (fun x : Group => { x with
      g := g.g, p := g.p, s := g.s, k := g.k, c := g.c, pending := g.pending, latch := g.latch }) h1).trans h2

/-! ### Release of operands (R43) -/

theorem gBlock_ne_p {w : Nat} (r : BitVec w) (k n : Nat) : RegName.p n ∉ gBlock r k := by simp [gBlock]
theorem sBlock_ne_p {w : Nat} (r : BitVec w) (k n : Nat) : RegName.p n ∉ sBlock r k := by simp [sBlock]

/-- Operand fields A and B name no predicate. -/
theorem operandA_ne_p (i : Instr) (n : Nat) : RegName.p n ∉ operandA i := by
  cases i <;> simp only [operandA, Addr.idx, AddrX.idx, sideRegs, Row.regs] <;>
    (try split) <;> first
    | exact gBlock_ne_p _ _ _ | exact sBlock_ne_p _ _ _ | simp

theorem operandB_ne_p (i : Instr) (n : Nat) : RegName.p n ∉ operandB i := by
  cases i <;> simp only [operandB] <;> (try split) <;> first
    | exact gBlock_ne_p _ _ _ | exact sBlock_ne_p _ _ _ | simp

/-- What a release of operands leaves alone. -/
theorem Group.releaseOperands_rest (g : Group) (c : Clause) (i : Instr) :
    { g.releaseOperands c i with
      g := g.g, p := g.p, s := g.s, k := g.k, c := g.c, pending := g.pending, latch := g.latch } = g := by
  have key : ∀ (ns : List RegName) (b : Bool) (g : Group),
      { (if b = true then ns.foldl Group.release g else g) with
        g := g.g, p := g.p, s := g.s, k := g.k, c := g.c, pending := g.pending, latch := g.latch } = g := by
    intro ns b g
    cases b
    · rfl
    · exact Group.releases_rest g ns
  unfold Group.releaseOperands
  have h1 := key ((operandA i).filter fun n => !(writeNames i).contains n)
    (c.hasRel && c.rel.getLsbD (2 * c.slot)) g
  refine Eq.trans ?_ h1
  exact congrArg (fun x : Group => { x with
      g := g.g, p := g.p, s := g.s, k := g.k, c := g.c, pending := g.pending, latch := g.latch })
    (key ((operandB i).filter fun n => !(writeNames i).contains n)
      (c.hasRel && c.rel.getLsbD (2 * c.slot + 1)) _)

/-- Reads after the release of operands: `rel` says which names it covers. -/
theorem Group.read_releaseOperands (g : Group) (s : State) (i : Instr) (n : RegName) (l : Nat)
    (hl : l < 32) :
    (g.releaseOperands s.cl i).read n l = if released s i n then 0 else g.read n l := by
  have key : ∀ (ns : List RegName) (b : Bool) (g : Group), (∀ k, RegName.p k ∉ ns) →
      (if b = true then (ns.filter fun n => !(writeNames i).contains n).foldl Group.release g
        else g).read n l =
        if b && (!(writeNames i).contains n && ns.contains n) then 0 else g.read n l := by
    intro ns b g hp
    cases b
    · simp
    · rw [if_pos rfl, Group.read_releases _ _ _ _ hl]
      simp only [List.mem_filter, Bool.true_and]
      by_cases h1 : n ∈ ns
      · have : held n 0#32 = 0#32 := by
          cases n <;> simp only [held]
          exact absurd h1 (hp _)
        simp [h1, this]
      · simp [h1]
  unfold Group.releaseOperands
  have hA := key (operandA i) (s.cl.hasRel && s.cl.rel.getLsbD (2 * s.cl.slot)) g (operandA_ne_p i)
  have hB := fun g' => key (operandB i) (s.cl.hasRel && s.cl.rel.getLsbD (2 * s.cl.slot + 1)) g'
    (operandB_ne_p i)
  refine (hB _).trans ?_
  rw [hA]
  unfold released
  cases s.cl.hasRel <;> cases (writeNames i).contains n <;> cases (operandA i).contains n <;>
    cases (operandB i).contains n <;> cases s.cl.rel.getLsbD (2 * s.cl.slot) <;>
    cases s.cl.rel.getLsbD (2 * s.cl.slot + 1) <;> simp

/-! ### A word that completes in every lane -/

/-- The group after a word that stops no lane, as the steps of `retire`. -/
theorem Group.retire_nil (g0 g : Group) (i : Instr) (now : Nat) :
    Group.retire g0 g i [] now =
      (let h := (Group.account g0 { g with accepted := 0, heldOp := none, since := none } i now).releaseOperands g0.cl i
       let rest := g0.cl.issue &&& ~~~stopMask []
       if (g0.frames.length = h.frames.length ∨ h.clause.isSome) ∧ !h.ended then
         ((h.advance g0.cl rest).parkAfter (instrMods i) rest).haltHere
       else { h with clause := none, park := .none }) := by
  unfold Group.retire Group.stopLanes
  rfl

theorem stopMask_nil : stopMask [] = 0 := by decide

theorem and_not_stopMask_nil (m : Mask) : m &&& ~~~stopMask [] = m := by
  have : ~~~(0 : Mask) = BitVec.allOnes 32 := by decide
  rw [stopMask_nil, this, BitVec.and_allOnes]

@[simp] theorem Group.releaseOperands_frames (g : Group) (c : Clause) (i : Instr) :
    (g.releaseOperands c i).frames = g.frames := by
  have h := congrArg Group.frames (g.releaseOperands_rest c i); exact h
@[simp] theorem Group.releaseOperands_ended (g : Group) (c : Clause) (i : Instr) :
    (g.releaseOperands c i).ended = g.ended := by
  have h := congrArg Group.ended (g.releaseOperands_rest c i); exact h
@[simp] theorem Group.releaseOperands_lanes (g : Group) (c : Clause) (i : Instr) :
    (g.releaseOperands c i).lanes = g.lanes := by
  have h := congrArg Group.lanes (g.releaseOperands_rest c i); exact h
@[simp] theorem Group.releaseOperands_seq (g : Group) (c : Clause) (i : Instr) :
    (g.releaseOperands c i).seq = g.seq := by
  have h := congrArg Group.seq (g.releaseOperands_rest c i); exact h

theorem Group.releaseOperands_hull (g : Group) (c : Clause) (i : Instr) :
    hull (g.releaseOperands c i) = hull g := by
  have h := congrArg hull (g.releaseOperands_rest c i); exact h

theorem Group.advance_same (g : Group) (c : Clause) (rest : Mask) :
    hull (g.advance c rest) = hull g ∧ (g.advance c rest).seq = g.seq ∧
    (g.advance c rest).pending = g.pending ∧ (∀ n l, (g.advance c rest).peek n l = g.peek n l) := by
  unfold Group.advance
  dsimp only
  split
  · exact ⟨rfl, rfl, rfl, fun n l => by cases n <;> rfl⟩
  · split
    · exact ⟨rfl, rfl, rfl, fun n l => by cases n <;> rfl⟩
    · exact ⟨rfl, rfl, rfl, fun n l => by cases n <;> rfl⟩

theorem Group.parkAfter_same (g : Group) (m : Mods) (rest : Mask) :
    hull (g.parkAfter m rest) = hull g ∧ (g.parkAfter m rest).seq = g.seq ∧
    (g.parkAfter m rest).pending = g.pending ∧ (g.parkAfter m rest).lanes = g.lanes ∧
    (∀ n l, (g.parkAfter m rest).peek n l = g.peek n l) := by
  unfold Group.parkAfter
  dsimp only
  split
  · exact ⟨rfl, rfl, rfl, rfl, fun n l => by cases n <;> rfl⟩
  · split
    · exact ⟨rfl, rfl, rfl, rfl, fun n l => by cases n <;> rfl⟩
    · exact ⟨rfl, rfl, rfl, rfl, fun n l => by cases n <;> rfl⟩

/-- A group that halts after a word keeps all but where its lanes stand and the bookkeeping of the issue slot. -/
theorem Group.haltHere_same (g : Group) :
    hull g.haltHere = hull g ∧ g.haltHere.seq = g.seq ∧ g.haltHere.pending = g.pending ∧
    (∀ n l, g.haltHere.peek n l = g.peek n l) := by
  unfold Group.haltHere
  split
  · unfold Group.stopHere
    split <;> exact ⟨rfl, rfl, rfl, fun n l => by cases n <;> rfl⟩
  · exact ⟨rfl, rfl, rfl, fun _ _ => rfl⟩

theorem Group.haltHere_index (g : Group) : g.haltHere.index = g.index := by
  have h := congrArg Group.index g.haltHere_same.1; exact h

theorem Group.haltHere_lane (g : Group) (l : Nat) :
    (g.haltHere.lane l).st = (g.lane l).st ∧ (g.haltHere.lane l).lsp = (g.lane l).lsp ∧
    (g.haltHere.lane l).pc = (g.lane l).pc := by
  unfold Group.haltHere
  split
  · unfold Group.stopHere
    split
    · exact ⟨rfl, rfl, rfl⟩
    · exact ⟨rfl, rfl, rfl⟩
    · unfold Group.lane Group.modLanes
      simp only [List.getD_eq_getElem?_getD, List.getElem?_mapIdx]
      cases g.lanes[l]? with
      | none => exact ⟨rfl, rfl, rfl⟩
      | some x =>
        simp only [Option.map_some, Option.getD_some]
        split <;> exact ⟨rfl, rfl, rfl⟩
  · exact ⟨rfl, rfl, rfl⟩

theorem Group.account_same (g0 g : Group) (i : Instr) (now : Nat) :
    hull (Group.account g0 { g with accepted := 0, heldOp := none, since := none } i now) = hull g ∧
    (Group.account g0 { g with accepted := 0, heldOp := none, since := none } i now).seq = g.seq ∧
    (Group.account g0 { g with accepted := 0, heldOp := none, since := none } i now).pending = g.pending ∧
    (Group.account g0 { g with accepted := 0, heldOp := none, since := none } i now).frames = g.frames ∧
    (Group.account g0 { g with accepted := 0, heldOp := none, since := none } i now).ended = g.ended ∧
    (∀ n l, (Group.account g0 { g with accepted := 0, heldOp := none, since := none } i now).peek n l = g.peek n l) :=
  ⟨rfl, rfl, rfl, rfl, rfl, fun n l => by cases n <;> rfl⟩

/-- Issue accounting changes no lane's state, offset or stack pointer. -/
theorem Group.account_lane (g0 g : Group) (i : Instr) (now l : Nat) :
    ((Group.account g0 g i now).lane l).st = (g.lane l).st ∧
    ((Group.account g0 g i now).lane l).lsp = (g.lane l).lsp ∧
    ((Group.account g0 g i now).lane l).pc = (g.lane l).pc := by
  unfold Group.account Group.lane
  dsimp only
  split
  · simp only [List.getD_eq_getElem?_getD, List.getElem?_mapIdx]
    cases g.lanes[l]? with
    | none => exact ⟨rfl, rfl, rfl⟩
    | some x =>
      simp only [Option.map_some, Option.getD_some]
      split
      · exact ⟨rfl, rfl, rfl⟩
      · split <;> exact ⟨rfl, rfl, rfl⟩
  · exact ⟨rfl, rfl, rfl⟩

theorem Group.account_length (g0 g : Group) (i : Instr) (now : Nat) :
    (Group.account g0 g i now).lanes.length = g.lanes.length := by
  unfold Group.account
  dsimp only
  split <;> simp

/-- What a word that stops no lane leaves of the group it has written. -/
theorem Group.retire_same (s : State) (g : Group) (i : Instr) (now : Nat) :
    hull (Group.retire s.cg g i [] now) = hull g ∧
    (∀ n l, l < 32 → (Group.retire s.cg g i [] now).read n l = if released s i n then 0 else g.read n l) := by
  rw [Group.retire_nil]
  obtain ⟨a1, a2, a3, a4, a5, a6⟩ := Group.account_same s.cg g i now
  generalize hh : (Group.account s.cg { g with accepted := 0, heldOp := none, since := none } i now) = h at *
  have hr : ∀ n l, l < 32 →
      (h.releaseOperands s.cl i).read n l = if released s i n then 0 else g.read n l := by
    intro n l hl
    rw [Group.read_releaseOperands h s i n l hl, Group.read_congr (a6 n l) a3 a2]
  dsimp only
  split
  · obtain ⟨b1, b2, b3, b4⟩ := Group.advance_same (h.releaseOperands s.cl i) s.cl
      (s.cl.issue &&& ~~~stopMask [])
    obtain ⟨c1, c2, c3, _, c4⟩ := Group.parkAfter_same ((h.releaseOperands s.cl i).advance s.cl
      (s.cl.issue &&& ~~~stopMask [])) (instrMods i) (s.cl.issue &&& ~~~stopMask [])
    obtain ⟨d1, d2, d3, d4⟩ := Group.haltHere_same (((h.releaseOperands s.cl i).advance s.cl
      (s.cl.issue &&& ~~~stopMask [])).parkAfter (instrMods i) (s.cl.issue &&& ~~~stopMask []))
    refine ⟨d1.trans (c1.trans (b1.trans ((Group.releaseOperands_hull h s.cl i).trans a1))), fun n l hl => ?_⟩
    rw [← hr n l hl]
    exact Group.read_congr ((d4 n l).trans ((c4 n l).trans (b4 n l))) (d3.trans (c3.trans b3))
      (d2.trans (c2.trans b2))
  · refine ⟨(Group.releaseOperands_hull h s.cl i).trans a1, fun n l hl => ?_⟩
    rw [← hr n l hl]
    exact Group.read_congr (by cases n <;> rfl) rfl rfl

/-- The pending results after a word that stops no lane keep their names. -/
theorem Group.releaseOperands_ids (g : Group) (c : Clause) (i : Instr) :
    (g.releaseOperands c i).pending.map (·.id) = g.pending.map (·.id) := by
  have h1 : ∀ (n : RegName) (g : Group), (g.release n).pending.map (·.id) = g.pending.map (·.id) := by
    intro n g
    unfold Group.release
    rw [List.map_map]; rfl
  have h2 : ∀ (ns : List RegName) (g : Group),
      (ns.foldl Group.release g).pending.map (·.id) = g.pending.map (·.id) := by
    intro ns
    induction ns with
    | nil => intro g; rfl
    | cons n r ih => intro g; rw [List.foldl_cons, ih, h1]
  have h3 : ∀ (ns : List RegName) (b : Bool) (g : Group),
      (if b = true then ns.foldl Group.release g else g).pending.map (·.id) = g.pending.map (·.id) := by
    intro ns b g
    cases b
    · rfl
    · exact h2 ns g
  unfold Group.releaseOperands
  exact (h3 _ _ _).trans (h3 _ _ _)

theorem Group.retire_ids (g0 g : Group) (i : Instr) (now : Nat) :
    (Group.retire g0 g i [] now).pending.map (·.id) = g.pending.map (·.id) := by
  rw [Group.retire_nil]
  dsimp only
  split
  · rw [(Group.haltHere_same _).2.2.1, (Group.parkAfter_same _ _ _).2.2.1, (Group.advance_same _ _ _).2.2.1, Group.releaseOperands_ids]
    rfl
  · exact (Group.releaseOperands_ids _ _ _).trans rfl

/-- The lanes after a word that stops no lane of a group that has not ended and stays in its handler. -/
theorem Group.retire_lanes (g0 g : Group) (i : Instr) (now l : Nat) (hlen : g.lanes.length = 32)
    (hl : l < 32) :
    ((Group.retire g0 g i [] now).lane l).st = (g.lane l).st ∧
    ((Group.retire g0 g i [] now).lane l).lsp = (g.lane l).lsp ∧
    (g0.frames.length = g.frames.length → g.ended = false →
      ((Group.retire g0 g i [] now).lane l).pc =
        if g0.cl.issue.getLsbD l = true ∧ ¬ (isControlFlow g0.cl.op = true ∧ g0.cl.words.length ≤ g0.cl.nextSlot)
        then nextPc g0.cl else (g.lane l).pc) := by
  rw [Group.retire_nil]
  obtain ⟨a1, a2, a3⟩ := Group.account_lane g0 { g with accepted := 0, heldOp := none, since := none } i now l
  have alen := Group.account_length g0 { g with accepted := 0, heldOp := none, since := none } i now
  have afr : (Group.account g0 { g with accepted := 0, heldOp := none, since := none } i now).frames = g.frames := rfl
  have aen : (Group.account g0 { g with accepted := 0, heldOp := none, since := none } i now).ended = g.ended := rfl
  generalize (Group.account g0 { g with accepted := 0, heldOp := none, since := none } i now) = h at *
  have hlane : ∀ k, (h.releaseOperands g0.cl i).lane k = h.lane k := by
    intro k; unfold Group.lane; rw [Group.releaseOperands_lanes]
  have hlen' : (h.releaseOperands g0.cl i).lanes.length = 32 := by
    rw [Group.releaseOperands_lanes, alen]; exact hlen
  dsimp only
  rw [and_not_stopMask_nil]
  split
  · have hp := (Group.parkAfter_same ((h.releaseOperands g0.cl i).advance g0.cl g0.cl.issue)
      (instrMods i) g0.cl.issue).2.2.2.1
    have hh := Group.haltHere_lane (((h.releaseOperands g0.cl i).advance g0.cl g0.cl.issue).parkAfter
      (instrMods i) g0.cl.issue) l
    have hk : ∀ k, ((((h.releaseOperands g0.cl i).advance g0.cl g0.cl.issue).parkAfter
      (instrMods i) g0.cl.issue).lane k) = ((h.releaseOperands g0.cl i).advance g0.cl g0.cl.issue).lane k := by
      intro k; unfold Group.lane; rw [hp]
    rw [hh.1, hh.2.1, hh.2.2, hk]
    unfold Group.advance
    dsimp only
    have e : ∀ (x : Group) (c : Option Clause) (k : Nat), ({ x with clause := c } : Group).lane k = x.lane k :=
      fun _ _ _ => rfl
    split
    · rename_i hlt
      rw [e, Group.lane_modLanes (by omega), hlane]
      refine ⟨?_, ?_, fun _ _ => ?_⟩
      · split <;> exact a1
      · split <;> exact a2
      · have : ¬ (g0.cl.words.length ≤ g0.cl.nextSlot) := by omega
        simp only [this, and_false, not_false_eq_true, and_true, nextPc, if_pos hlt]
        split
        · rfl
        · exact a3
    · rename_i hge
      have hge' : g0.cl.words.length ≤ g0.cl.nextSlot := by omega
      by_cases hc : isControlFlow g0.cl.op = true
      · rw [if_pos hc, e, hlane]
        refine ⟨a1, a2, fun _ _ => ?_⟩
        simp only [hc, hge', and_self, not_true_eq_false, and_false, if_false]
        exact a3
      · rw [if_neg hc, e, Group.lane_modLanes (by omega), hlane]
        refine ⟨?_, ?_, fun _ _ => ?_⟩
        · split <;> exact a1
        · split <;> exact a2
        · simp only [hc, Bool.false_eq_true, false_and, not_false_eq_true, and_true, nextPc, if_neg hge]
          split
          · rfl
          · exact a3
  · rename_i hneg
    refine ⟨(congrArg Lane.st (hlane l)).trans a1, (congrArg Lane.lsp (hlane l)).trans a2, fun h1 h2 => ?_⟩
    exfalso
    apply hneg
    rw [Group.releaseOperands_frames, Group.releaseOperands_ended, afr, aen]
    simp [h1, h2]

/-! ### The device around the issuing group -/

theorem State.retire_nil (s0 s : State) (i : Instr) :
    s0.retire s i [] = s.modCg fun g => Group.retire s0.cg g i [] s0.tick := by
  unfold State.retire
  simp

theorem State.run_done {s : State} {i : Instr} {f : State → Eff} {s' : State} {stops : List LaneStop}
    (hb : withinBudget s.cg i = true) (he : s.eccLanes i = 0) (hf : f s = .done s' stops) :
    s.run i f = .next (s.retire s' i stops) := by
  unfold State.run; rw [if_pos hb, if_pos he, hf]

theorem State.run_wait {s : State} {i : Instr} {f : State → Eff} {s' : State} {p : Park}
    (hb : withinBudget s.cg i = true) (he : s.eccLanes i = 0) (hf : f s = .wait s' p) :
    s.run i f = .next (s'.modCg fun g => { g with park := p }) := by
  unfold State.run; rw [if_pos hb, if_pos he, hf]

/-- A word always answers a next state. -/
theorem State.run_next (s : State) (i : Instr) (f : State → Eff) : ∃ t, s.run i f = .next t := by
  unfold State.run State.runPast
  split
  · split
    · split <;> exact ⟨_, rfl⟩
    · split
      · exact ⟨_, rfl⟩
      · split <;> exact ⟨_, rfl⟩
  · exact ⟨_, rfl⟩

theorem Group.retire_index (g0 g : Group) (i : Instr) (now : Nat) :
    (Group.retire g0 g i [] now).index = g.index := by
  rw [Group.retire_nil]
  dsimp only
  have hr : ∀ (x : Group) (c : Clause), (x.releaseOperands c i).index = x.index := by
    intro x c
    have h := congrArg Group.index (x.releaseOperands_rest c i); exact h
  split
  · have h1 := fun x m r => congrArg Group.index (Group.parkAfter_same x m r).1
    have h2 := fun x c r => congrArg Group.index (Group.advance_same x c r).1
    exact (Group.haltHere_index _).trans ((h1 _ _ _).trans ((h2 _ _ _).trans (hr _ _)))
  · exact hr _ _

/-- A change of the issuing group alone keeps the rest of the device. -/
theorem restKept_modCg {s : State} {f : Group → Group} (hf : ∀ g, (f g).index = g.index)
    (ht : (s.team? s.curTeam).isSome = true) (n : Nat) :
    RestKept s { s.modCg f with fresh := n } := by
  have hteam : ∀ k, k ≠ s.curTeam → (s.modCg f).team? k = s.team? k := by
    intro k hk
    have := State.team?_modTeam s s.curTeam k (fun t => t.modGroup s.curGroup f) (fun _ => rfl)
    rw [if_neg hk] at this
    exact this
  have hct : State.ct { s.modCg f with fresh := n } = s.ct.modGroup s.curGroup f := State.ct_modCg ht
  refine ⟨rfl, hteam, ?_, ?_⟩
  · rw [hct]; rfl
  · intro g hg
    rw [hct, Team.group?_modGroup _ _ _ _ hf, if_neg hg]

theorem Group.writes_ids (g : Group) (ws : List RegWrite) :
    (g.writes ws).pending.map (·.id) = g.pending.map (·.id) := by
  unfold Group.writes
  induction ws generalizing g with
  | nil => rfl
  | cons w r ih =>
    rw [List.foldl_cons, ih]
    unfold Group.write
    rw [Group.poke_pending, List.map_map]
    rfl

/-- A word that completes in every lane and changes its own group alone, by `u`: its next state. -/
theorem frame_update {i : Instr} {s : State} {f : State → Eff} {u : Group → Group} {n : Nat}
    (hc : CanIssue i s) (hf : f s = .done { s.modCg u with fresh := n } [])
    (hi : ∀ g, (u g).index = g.index) (hl : (u s.cg).lanes = s.cg.lanes)
    (hfr : (u s.cg).frames = s.cg.frames) (he : (u s.cg).ended = s.cg.ended) :
    ∃ t, s.run i f = .next t ∧ RestKept s t ∧ t.fresh = n ∧
      t.cg = Group.retire s.cg (u s.cg) i [] s.tick ∧
      (∀ l, l < 32 → (t.cg.lane l).st = (s.cg.lane l).st ∧ (t.cg.lane l).lsp = (s.cg.lane l).lsp) ∧
      (isControlFlow s.cl.op = false → ∀ l, l < 32 → (t.cg.lane l).pc =
        if s.cl.issue.getLsbD l then nextPc s.cl else (s.cg.lane l).pc) := by
  have hri : ∀ g : Group, (Group.retire s.cg (u g) i [] s.tick).index = g.index := by
    intro g; rw [Group.retire_index]; exact hi g
  have hst : s.retire { s.modCg u with fresh := n } i [] =
      { s.modCg (fun g => Group.retire s.cg (u g) i [] s.tick) with fresh := n } := by
    rw [State.retire_nil]
    exact congrArg (fun x : State => { x with fresh := n })
      (State.modCg_modCg s u (fun g => Group.retire s.cg g i [] s.tick) hi)
  have hcg : (s.retire { s.modCg u with fresh := n } i []).cg =
      Group.retire s.cg (u s.cg) i [] s.tick := by
    rw [hst]; exact State.cg_modCg hri hc.team hc.group
  have hlane : ∀ l, (u s.cg).lane l = s.cg.lane l := by intro l; unfold Group.lane; rw [hl]
  have hlen : (u s.cg).lanes.length = 32 := by rw [hl]; exact hc.lanes
  refine ⟨_, State.run_done hc.budget hc.intact hf, ?_, ?_, hcg, ?_, ?_⟩
  · rw [hst]; exact restKept_modCg hri hc.team n
  · rw [hst]
  · intro l hl
    have := Group.retire_lanes s.cg (u s.cg) i s.tick l hlen hl
    rw [hcg, ← hlane]
    exact ⟨this.1, this.2.1⟩
  · intro h l hl
    have := (Group.retire_lanes s.cg (u s.cg) i s.tick l hlen hl).2.2 (by rw [hfr]) (by rw [he]; exact hc.live)
    have h' : isControlFlow s.cg.cl.op = false := h
    rw [hcg, this, hlane, h']
    simp only [Bool.false_eq_true, false_and, not_false_eq_true, and_true]
    rfl

theorem released_of_mem {s : State} {i : Instr} {n : RegName} (hn : n ∈ writeNames i) :
    released s i n = false := by
  have h : (writeNames i).contains n = true := by simpa using hn
  simp only [released, h, Bool.not_true, Bool.and_false, Bool.false_and]

/-- Groups with the same registers and pending results. -/
def sameRegs (g h : Group) : Prop :=
  g.g = h.g ∧ g.p = h.p ∧ g.s = h.s ∧ g.k = h.k ∧ g.c = h.c ∧ g.pending = h.pending ∧ g.seq = h.seq

theorem sameRegs_write {g h : Group} (w : RegWrite) (e : sameRegs g h) :
    sameRegs (g.write w) (h.write w) := by
  obtain ⟨e1, e2, e3, e4, e5, e6, e7⟩ := e
  obtain ⟨name, lane, val⟩ := w
  unfold Group.write Group.poke
  cases name with
  | p n =>
    dsimp only
    split
    · exact ⟨e1, e2, e3, e4, e5, by rw [e6], e7⟩
    · exact ⟨e1, by rw [e2], e3, e4, e5, by rw [e6], e7⟩
  | g n => exact ⟨by rw [e1], e2, e3, e4, e5, by rw [e6], e7⟩
  | s n => exact ⟨e1, e2, by rw [e3], e4, e5, by rw [e6], e7⟩
  | k n => exact ⟨e1, e2, e3, by rw [e4], e5, by rw [e6], e7⟩
  | c n => exact ⟨e1, e2, e3, e4, by rw [e5], by rw [e6], e7⟩

theorem sameRegs_writes {g h : Group} (ws : List RegWrite) (e : sameRegs g h) :
    sameRegs (g.writes ws) (h.writes ws) := by
  unfold Group.writes
  induction ws generalizing g h with
  | nil => exact e
  | cons w r ih => exact ih (sameRegs_write w e)

theorem sameRegs_read {g h : Group} (e : sameRegs g h) (n : RegName) (l : Nat) :
    g.read n l = h.read n l := by
  obtain ⟨e1, e2, e3, e4, e5, e6, e7⟩ := e
  refine Group.read_congr ?_ e6 e7
  cases n <;> simp only [Group.peek, e1, e2, e3, e4, e5]

/-- A word whose only effects are short-latency writes of the names it declares, and a change `o` of its
group that touches no register, lane or pending result. -/
theorem frame_writes_own {i : Instr} {s : State} {f : State → Eff} {ws : List RegWrite}
    {o : Group → Group} (hc : CanIssue i s)
    (ho : ∀ g : Group, { o g with fpflags := g.fpflags, rngseed := g.rngseed } = g)
    (hf : f s = .done ((s.modCg o).writeNow ws) [])
    (hw : ∀ w ∈ ws, w.lane < 32 ∧ w.name ∈ writeNames i) :
    ∃ t, s.run i f = .next t ∧ WordFrame i o s t ∧ pendingIds t = pendingIds s ∧
      ∀ n l, l < 32 → n ∈ writeNames i → t.cg.read n l = (s.cg.writes ws).read n l := by
  have oi : ∀ g, (o g).index = g.index := fun g => by have h := congrArg Group.index (ho g); exact h
  have ol : ∀ g, (o g).lanes = g.lanes := fun g => by have h := congrArg Group.lanes (ho g); exact h
  have ofr : ∀ g, (o g).frames = g.frames := fun g => by have h := congrArg Group.frames (ho g); exact h
  have oe : ∀ g, (o g).ended = g.ended := fun g => by have h := congrArg Group.ended (ho g); exact h
  have op : ∀ g, (o g).pending = g.pending := fun g => by have h := congrArg Group.pending (ho g); exact h
  have oseq : ∀ g, (o g).seq = g.seq := fun g => by have h := congrArg Group.seq (ho g); exact h
  have ok : ∀ g n l, (o g).peek n l = g.peek n l := by
    intro g n l
    cases n with
    | g n => have h := congrArg (fun x : Group => x.peek (.g n) l) (ho g); exact h
    | s n => have h := congrArg (fun x : Group => x.peek (.s n) l) (ho g); exact h
    | k n => have h := congrArg (fun x : Group => x.peek (.k n) l) (ho g); exact h
    | p n => have h := congrArg (fun x : Group => x.peek (.p n) l) (ho g); exact h
    | c n => have h := congrArg (fun x : Group => x.peek (.c n) l) (ho g); exact h
  have ord : ∀ n l, (o s.cg).read n l = s.cg.read n l := fun n l =>
    Group.read_congr (ok _ n l) (op _) (oseq _)
  have hs : (s.modCg o).writeNow ws = { s.modCg (fun g => (o g).writes ws) with fresh := s.fresh } :=
    State.modCg_modCg s o (fun g => g.writes ws) oi
  obtain ⟨t, h1, h2, _, h4, h5, h6⟩ := frame_update (u := fun g => (o g).writes ws) hc (hs ▸ hf)
    (fun g => by rw [Group.writes_index, oi]) (by rw [Group.writes_lanes, ol])
    (by rw [Group.writes_frames, ofr]) (by rw [Group.writes_ended, oe])
  obtain ⟨r1, r2⟩ := Group.retire_same s ((o s.cg).writes ws) i s.tick
  have hread : ∀ n l, l < 32 → ((o s.cg).writes ws).read n l = (s.cg.writes ws).read n l := by
    intro n l _
    refine sameRegs_read (sameRegs_writes ws ?_) n l
    have h := ho s.cg
    exact ⟨by have h := congrArg Group.g h; exact h, by have h := congrArg Group.p h; exact h,
      by have h := congrArg Group.s h; exact h, by have h := congrArg Group.k h; exact h,
      by have h := congrArg Group.c h; exact h, op _, oseq _⟩
  refine ⟨t, h1, ⟨⟨h2, ?_, ⟨?_, ?_⟩⟩, h5, h6⟩, ?_, ?_⟩
  · rw [h4, r1]
    have h := congrArg hull (Group.writes_rest (o s.cg) ws); exact h
  · intro n l hl hn hr
    rw [h4, r2 n l hl, hr]
    rw [← ord]
    refine Group.read_writes_of_not_hits _ _ _ _ hl fun w hwm => ⟨(hw w hwm).1, ?_⟩
    have : w.name ≠ n := fun h => hn (h ▸ (hw w hwm).2)
    simp [RegWrite.hits, this]
  · intro n l hl hr
    rw [h4, r2 n l hl, hr]; rfl
  · unfold pendingIds
    rw [h4, Group.retire_ids, Group.writes_ids, op]
  · intro n l hl hn
    rw [h4, r2 n l hl, released_of_mem hn]
    exact hread n l hl

/-- A word that completes in every lane and whose only effect is short-latency writes of the names it
declares: its next state, the frame, and what its results read. -/
theorem frame_writes {i : Instr} {s : State} {f : State → Eff} {ws : List RegWrite}
    (hc : CanIssue i s) (hf : f s = .done (s.writeNow ws) [])
    (hw : ∀ w ∈ ws, w.lane < 32 ∧ w.name ∈ writeNames i) :
    ∃ t, s.run i f = .next t ∧ WordFrame i id s t ∧ pendingIds t = pendingIds s ∧
      ∀ n l, l < 32 → n ∈ writeNames i → t.cg.read n l = (s.cg.writes ws).read n l := by
  have e : s.modCg id = s := by
    unfold State.modCg State.modGroup State.modTeam Team.modGroup
    simp
  exact frame_writes_own (o := id) hc (fun _ => rfl) (by rw [e]; exact hf) hw

/-! ### Results lane by lane -/

theorem mem_regWrites {ns : List RegName} {l : Nat} {vs : List Word} {w : RegWrite}
    (h : w ∈ regWrites ns l vs) : w.lane = l ∧ w.name ∈ ns := by
  unfold regWrites at h
  obtain ⟨x, hx, rfl⟩ := List.mem_map.mp h
  exact ⟨rfl, (List.of_mem_zip hx).1⟩

theorem mem_lanewise {s : State} {i : Instr} {f : Group → Nat → List Word} {w : RegWrite}
    (h : w ∈ s.lanewise i f) : ∃ l, (s.active i).getLsbD l = true ∧ w ∈ regWrites (writeNames i) l (f s.cg l) := by
  unfold State.lanewise at h
  obtain ⟨l, hl, hw⟩ := List.mem_flatMap.mp h
  exact ⟨l, by simpa using hl, hw⟩

theorem lane_lt_of_active {m : Mask} {l : Nat} (h : m.getLsbD l = true) : l < 32 := by
  refine Decidable.byContradiction fun hl => ?_
  rw [BitVec.getLsbD_of_ge m l (by omega)] at h
  exact absurd h (by decide)

theorem lanewise_wf {s : State} {i : Instr} {f : Group → Nat → List Word} {w : RegWrite}
    (h : w ∈ s.lanewise i f) : w.lane < 32 ∧ w.name ∈ writeNames i := by
  obtain ⟨l, hl, hw⟩ := mem_lanewise h
  obtain ⟨h1, h2⟩ := mem_regWrites hw
  exact ⟨h1 ▸ lane_lt_of_active hl, h2⟩

/-- Per-lane registers: a write to them hits one element. -/
def perLane (n : RegName) : Bool :=
  match n with | .s _ => false | .k _ => false | _ => true

theorem hits_perLane {w : RegWrite} {n : RegName} {l : Nat} (hn : perLane n = true)
    (h : w.hits n l = true) : w.name = n ∧ w.lane = l := by
  cases n <;> simp [perLane] at hn <;> simpa [RegWrite.hits] using h

/-- One result register, one value per lane. -/
theorem read_lanewise_one {s : State} {i : Instr} {f : Group → Nat → List Word} {n : RegName}
    {v : Nat → Word} {l : Nat} (hn : writeNames i = [n]) (hp : perLane n = true)
    (hv : ∀ k, (s.active i).getLsbD k = true → f s.cg k = [v k]) (hl : l < 32) :
    (s.cg.writes (s.lanewise i f)).read n l =
      if (s.active i).getLsbD l then held n (v l) else s.cg.read n l := by
  have hm : ∀ w ∈ s.lanewise i f, w.hits n l = true →
      w = { name := n, lane := l, val := v l } ∧ (s.active i).getLsbD l = true := by
    intro w hw hh
    obtain ⟨k, hk, hw⟩ := mem_lanewise hw
    rw [hn, hv k hk] at hw
    simp [regWrites] at hw
    obtain ⟨h1, h2⟩ := hits_perLane hp hh
    subst hw
    dsimp only at h2
    subst h2
    exact ⟨rfl, hk⟩
  split
  · rename_i ha
    refine Group.read_writes _ _ _ _ _ hl (fun w hw => (lanewise_wf hw).1) (fun w hw hh => (hm w hw hh).1) ?_
    unfold State.lanewise
    refine List.mem_flatMap.mpr ⟨l, by simpa using ha, ?_⟩
    rw [hn, hv l ha]
    simp [regWrites]
  · rename_i ha
    refine Group.read_writes_of_not_hits _ _ _ _ hl fun w hw => ⟨(lanewise_wf hw).1, ?_⟩
    cases hh : w.hits n l
    · rfl
    · exact absurd (hm w hw hh).2 ha

/-- Two result registers. -/
theorem read_lanewise_two {s : State} {i : Instr} {f : Group → Nat → List Word} {n m : RegName}
    {v u : Nat → Word} {l : Nat} (hn : writeNames i = [n, m]) (hne : n ≠ m) (hp : perLane n = true)
    (hq : perLane m = true)
    (hv : ∀ k, (s.active i).getLsbD k = true → f s.cg k = [v k, u k]) (hl : l < 32) :
    (s.cg.writes (s.lanewise i f)).read n l =
      (if (s.active i).getLsbD l then held n (v l) else s.cg.read n l) ∧
    (s.cg.writes (s.lanewise i f)).read m l =
      (if (s.active i).getLsbD l then held m (u l) else s.cg.read m l) := by
  have hm : ∀ w ∈ s.lanewise i f, ∀ k, k < 32 → (w.hits n k = true →
      w = { name := n, lane := k, val := v k } ∧ (s.active i).getLsbD k = true) ∧
      (w.hits m k = true → w = { name := m, lane := k, val := u k } ∧ (s.active i).getLsbD k = true) := by
    intro w hw j _
    obtain ⟨k, hk, hw⟩ := mem_lanewise hw
    rw [hn, hv k hk] at hw
    simp [regWrites] at hw
    constructor
    · intro hh
      obtain ⟨h1, h2⟩ := hits_perLane hp hh
      rcases hw with rfl | rfl
      · dsimp only at h2; subst h2; exact ⟨rfl, hk⟩
      · exact absurd h1.symm hne
    · intro hh
      obtain ⟨h1, h2⟩ := hits_perLane hq hh
      rcases hw with rfl | rfl
      · exact absurd h1 hne
      · dsimp only at h2; subst h2; exact ⟨rfl, hk⟩
  constructor
  · split
    · rename_i ha
      refine Group.read_writes _ _ _ _ _ hl (fun w hw => (lanewise_wf hw).1)
        (fun w hw hh => ((hm w hw l hl).1 hh).1) ?_
      unfold State.lanewise
      refine List.mem_flatMap.mpr ⟨l, by simpa using ha, ?_⟩
      rw [hn, hv l ha]
      simp [regWrites]
    · rename_i ha
      refine Group.read_writes_of_not_hits _ _ _ _ hl fun w hw => ⟨(lanewise_wf hw).1, ?_⟩
      cases hh : w.hits n l
      · rfl
      · exact absurd ((hm w hw l hl).1 hh).2 ha
  · split
    · rename_i ha
      refine Group.read_writes _ _ _ _ _ hl (fun w hw => (lanewise_wf hw).1)
        (fun w hw hh => ((hm w hw l hl).2 hh).1) ?_
      unfold State.lanewise
      refine List.mem_flatMap.mpr ⟨l, by simpa using ha, ?_⟩
      rw [hn, hv l ha]
      simp [regWrites]
    · rename_i ha
      refine Group.read_writes_of_not_hits _ _ _ _ hl fun w hw => ⟨(lanewise_wf hw).1, ?_⟩
      cases hh : w.hits m l
      · rfl
      · exact absurd ((hm w hw l hl).2 hh).2 ha

/-- A short-latency instruction with one result register (R90, R91, R98). -/
theorem alu_one {i : Instr} {s : State} {f : Group → Nat → List Word} {n : RegName} {v : Nat → Word}
    (hc : CanIssue i s) (hn : writeNames i = [n]) (hp : perLane n = true)
    (hv : ∀ k, (s.active i).getLsbD k = true → f s.cg k = [v k]) :
    ∃ t, s.alu i f = .next t ∧ WordFrame i id s t ∧ pendingIds t = pendingIds s ∧
      ∀ l, l < 32 → t.cg.read n l =
        if (s.active i).getLsbD l then held n (v l) else s.cg.read n l := by
  obtain ⟨t, h1, h2, h3, h4⟩ := frame_writes (ws := s.lanewise i f)
    (f := fun s : State => .done (s.writeNow (s.lanewise i f)) []) hc rfl (fun w hw => lanewise_wf hw)
  refine ⟨t, h1, h2, h3, fun l hl => ?_⟩
  rw [h4 n l hl (by simp [hn])]
  exact read_lanewise_one hn hp hv hl

/-- One with a pair of result registers (R108). -/
theorem alu_two {i : Instr} {s : State} {f : Group → Nat → List Word} {n m : RegName} {v u : Nat → Word}
    (hc : CanIssue i s) (hn : writeNames i = [n, m]) (hne : n ≠ m) (hp : perLane n = true)
    (hq : perLane m = true)
    (hv : ∀ k, (s.active i).getLsbD k = true → f s.cg k = [v k, u k]) :
    ∃ t, s.alu i f = .next t ∧ WordFrame i id s t ∧ pendingIds t = pendingIds s ∧
      ∀ l, l < 32 →
        t.cg.read n l = (if (s.active i).getLsbD l then held n (v l) else s.cg.read n l) ∧
        t.cg.read m l = (if (s.active i).getLsbD l then held m (u l) else s.cg.read m l) := by
  obtain ⟨t, h1, h2, h3, h4⟩ := frame_writes (ws := s.lanewise i f)
    (f := fun s : State => .done (s.writeNow (s.lanewise i f)) []) hc rfl (fun w hw => lanewise_wf hw)
  refine ⟨t, h1, h2, h3, fun l hl => ?_⟩
  rw [h4 n l hl (by simp [hn]), h4 m l hl (by simp [hn])]
  exact read_lanewise_two hn hne hp hq hv hl

/-- A uniform result: written once when some lane is active (R119, R124). -/
theorem uniform_one {i : Instr} {s : State} {f : Group → Mask → List Word} {n : Nat} {v : Word}
    (hc : CanIssue i s) (hn : writeNames i = [.s n]) (hv : f s.cg (s.active i) = [v]) :
    ∃ t, s.uniform i f = .next t ∧ WordFrame i id s t ∧ pendingIds t = pendingIds s ∧
      t.cg.read (.s n) 0 = if s.active i = 0 then s.cg.read (.s n) 0 else v := by
  by_cases ha : s.active i = 0
  · obtain ⟨t, h1, h2, h3, h4⟩ := frame_writes (ws := [])
      (f := fun s : State =>
        let act := s.active i
        .done (if act = 0 then s else s.writeNow (regWrites (writeNames i) 0 (f s.cg act))) [])
      hc (by
        have e : s.writeNow [] = s := by
          unfold State.writeNow State.modCg State.modGroup State.modTeam Group.writes Team.modGroup
          simp
        simp only [ha, if_true, e]) (fun w hw => by simp at hw)
    refine ⟨t, h1, h2, h3, ?_⟩
    rw [h4 _ _ (by decide) (by simp [hn]), if_pos ha]; rfl
  · obtain ⟨t, h1, h2, h3, h4⟩ := frame_writes (ws := [{ name := .s n, lane := 0, val := v }])
      (f := fun s : State =>
        let act := s.active i
        .done (if act = 0 then s else s.writeNow (regWrites (writeNames i) 0 (f s.cg act))) [])
      hc (by
        simp only [ha, if_false, hn, hv]; rfl) (fun w hw => by simp at hw; subst hw; simp [hn])
    refine ⟨t, h1, h2, h3, ?_⟩
    rw [h4 _ _ (by decide) (by simp [hn]), if_neg ha]
    exact Group.read_write s.cg { name := .s n, lane := 0, val := v } (by show 0 < 32; decide)

end Sys2Proof.Machine
end

