-- ==== Sys2Proof/Laws/Memory.lean ====
section
/-! SUPPORT. What the operations that store keep: memory of every kind stays in canonical form. A
definition that touches memory only through these operations keeps the invariant by composing their
lemmas; one that touches none of the memories keeps it by `Inv.congr`. -/

namespace Sys2Proof.Safety

open Sys2Proof.Machine

/-! ### The invariant, part by part -/

theorem inv_iff {s : State} :
    Inv s ↔ s.hbm.wf = true ∧ s.hostMem.wf = true ∧ (∀ t ∈ s.teams, teamOk t = true) ∧
      (∀ x ∈ s.capacity, x.2.mem.wf = true) ∧ ∀ x ∈ s.funcs, x.2.staged.wf = true := by
  unfold Inv memoryOk
  simp only [Bool.and_eq_true, List.all_eq_true, and_assoc]

theorem Inv.hbm {s : State} (h : Inv s) : s.hbm.wf = true := (inv_iff.mp h).1
theorem Inv.hostMem {s : State} (h : Inv s) : s.hostMem.wf = true := (inv_iff.mp h).2.1
theorem Inv.teams {s : State} (h : Inv s) : ∀ t ∈ s.teams, teamOk t = true := (inv_iff.mp h).2.2.1
theorem Inv.capacity {s : State} (h : Inv s) : ∀ x ∈ s.capacity, x.2.mem.wf = true := (inv_iff.mp h).2.2.2.1
theorem Inv.funcs {s : State} (h : Inv s) : ∀ x ∈ s.funcs, x.2.staged.wf = true := (inv_iff.mp h).2.2.2.2

/-- The canonical form of a team's memories looks at team memory and at its groups' slices and frames. -/
theorem teamOk_iff {t : Team} :
    teamOk t = true ↔ t.tm.wf = true ∧ ∀ g ∈ t.groups, g.spill.wf = true ∧ g.frame.wf = true := by
  unfold teamOk
  simp only [Bool.and_eq_true, List.all_eq_true]

/-- The invariant looks at the memories and at nothing else. -/
theorem Inv.congr {s t : State} (h : Inv s) (hb : t.hbm = s.hbm) (hh : t.hostMem = s.hostMem)
    (ht : t.teams = s.teams) (hc : t.capacity = s.capacity := by rfl) (hf : t.funcs = s.funcs := by rfl) :
    Inv t := by
  rw [inv_iff] at h ⊢
  rw [hb, hh, ht, hc, hf]
  exact h

/-- The same where some teams left and others changed something beside their memory. -/
theorem Inv.congr_teams {s t : State} (h : Inv s) (hb : t.hbm = s.hbm) (hh : t.hostMem = s.hostMem)
    (ht : ∀ u ∈ t.teams, ∃ v ∈ s.teams, u.tm = v.tm ∧ u.groups = v.groups)
    (hc : t.capacity = s.capacity := by rfl) (hf : t.funcs = s.funcs := by rfl) : Inv t := by
  refine inv_iff.mpr ⟨hb ▸ h.hbm, hh ▸ h.hostMem, fun u hu => ?_, hc ▸ h.capacity, hf ▸ h.funcs⟩
  obtain ⟨v, hv, e1, e2⟩ := ht u hu
  have hv := teamOk_iff.mp (h.teams v hv)
  exact teamOk_iff.mpr ⟨e1 ▸ hv.1, e2 ▸ hv.2⟩

/-- The same where main or host memory is replaced by one in canonical form. -/
theorem Inv.of_parts {s t : State} (h : Inv s) (hb : t.hbm.wf = true) (hh : t.hostMem.wf = true)
    (ht : t.teams = s.teams) (hc : t.capacity = s.capacity := by rfl) (hf : t.funcs = s.funcs := by rfl) :
    Inv t :=
  inv_iff.mpr ⟨hb, hh, ht ▸ h.teams, hc ▸ h.capacity, hf ▸ h.funcs⟩

/-! ### Changes of one component -/

/-- A change of one team that keeps its memory's form. -/
theorem Inv.modTeam {s : State} (h : Inv s) (k : Nat) (f : Team → Team)
    (hf : ∀ t, teamOk t = true → teamOk (f t) = true) : Inv (s.modTeam k f) := by
  refine inv_iff.mpr ⟨h.hbm, h.hostMem, fun t ht => ?_, h.capacity, h.funcs⟩
  unfold State.modTeam at ht
  simp only [List.mem_map] at ht
  obtain ⟨u, hu, rfl⟩ := ht
  split
  · exact hf u (h.teams u hu)
  · exact h.teams u hu

/-- A change of one team beside its memory and groups. -/
theorem Inv.modTeam_keep {s : State} (h : Inv s) (k : Nat) {f : Team → Team}
    (hf : ∀ t, (f t).tm = t.tm) (hg : ∀ t, (f t).groups = t.groups := by exact fun _ => rfl) :
    Inv (s.modTeam k f) :=
  h.modTeam k f fun t ht => by
    rw [teamOk_iff] at ht ⊢
    rw [hf t, hg t]; exact ht

/-- A change of team memory that keeps its form. -/
theorem Inv.modTeam_tm {s : State} (h : Inv s) (k : Nat) {f : Team → Team}
    (hf : ∀ t, t.tm.wf = true → (f t).tm.wf = true) (hg : ∀ t, (f t).groups = t.groups := by exact fun _ => rfl) :
    Inv (s.modTeam k f) :=
  h.modTeam k f fun t ht => by
    rw [teamOk_iff] at ht ⊢
    exact ⟨hf t ht.1, (hg t).symm ▸ ht.2⟩

/-- A change of a group that keeps the form of its slices and frames. -/
theorem Inv.modGroup {s : State} (h : Inv s) (k g : Nat) (f : Group → Group)
    (hf : ∀ x, x.spill.wf = true → x.frame.wf = true → (f x).spill.wf = true ∧ (f x).frame.wf = true := by
      exact fun _ h1 h2 => ⟨h1, h2⟩) : Inv (s.modGroup k g f) :=
  h.modTeam k _ fun t ht => by
    rw [teamOk_iff] at ht ⊢
    refine ⟨ht.1, fun x hx => ?_⟩
    unfold Team.modGroup at hx
    simp only [List.mem_map] at hx
    obtain ⟨y, hy, rfl⟩ := hx
    split
    · exact hf y (ht.2 y hy).1 (ht.2 y hy).2
    · exact ht.2 y hy

/-- A change of a group that leaves all that `hull` keeps leaves its slices and frames. -/
theorem keeps_of_hull {f : Group → Group} (hf : ∀ x, hull (f x) = hull x) (x : Group)
    (h1 : x.spill.wf = true) (h2 : x.frame.wf = true) : (f x).spill.wf = true ∧ (f x).frame.wf = true := by
  have e1 : (f x).spill = x.spill := by have h := congrArg Group.spill (hf x); exact h
  have e2 : (f x).frame = x.frame := by have h := congrArg Group.frame (hf x); exact h
  rw [e1, e2]; exact ⟨h1, h2⟩

theorem Inv.modCg {s : State} (h : Inv s) (f : Group → Group)
    (hf : ∀ x, x.spill.wf = true → x.frame.wf = true → (f x).spill.wf = true ∧ (f x).frame.wf = true := by
      exact fun _ h1 h2 => ⟨h1, h2⟩) : Inv (s.modCg f) := h.modGroup _ _ f hf

theorem Inv.modCt_keep {s : State} (h : Inv s) {f : Team → Team} (hf : ∀ t, (f t).tm = t.tm)
    (hg : ∀ t, (f t).groups = t.groups := by exact fun _ => rfl) :
    Inv (s.modCt f) := h.modTeam_keep _ hf hg

theorem Inv.modCore {s : State} (h : Inv s) (c : Nat) (f : Core → Core) : Inv (s.modCore c f) :=
  h.congr rfl rfl rfl

/-- The staged bytes of a function the device does not list yet are none. -/
theorem Inv.func {s : State} (h : Inv s) (n : Nat) : (s.func n).staged.wf = true := by
  unfold State.func
  cases e : tfind s.funcs n with
  | none => decide
  | some f =>
    exact h.funcs _ (tfind_mem e)

/-- A change of a function that keeps the form of its staged bytes. -/
theorem Inv.modFunc {s : State} (h : Inv s) (n : Nat) (f : Func → Func)
    (hf : ∀ x, x.staged.wf = true → (f x).staged.wf = true := by exact fun _ h => h) : Inv (s.modFunc n f) := by
  refine inv_iff.mpr ⟨h.hbm, h.hostMem, h.teams, h.capacity, fun x hx => ?_⟩
  rcases mem_tins hx with rfl | hm
  · exact hf _ (h.func n)
  · exact h.funcs _ hm

theorem Inv.modCtx {s : State} (h : Inv s) (n : Nat) (f : Func → Func)
    (hf : ∀ x, x.staged.wf = true → (f x).staged.wf = true := by exact fun _ h => h) : Inv (s.modCtx n f) :=
  h.modFunc _ f hf

theorem Inv.modGrid {s : State} (h : Inv s) (n : Nat) (f : Grid → Grid) : Inv (s.modGrid n f) :=
  h.congr rfl rfl rfl

/-- A fold whose every step keeps the invariant keeps it. -/
theorem Inv.foldS {α : Type} {f : State → α → State} (hf : ∀ s x, Inv s → Inv (f s x)) {s : State}
    (h : Inv s) (l : List α) : Inv (foldS f s l) := by
  unfold Machine.foldS
  induction l generalizing s with
  | nil => exact h
  | cons x r ih => exact ih (hf s x h)

/-- The same of a library fold. -/
theorem Inv.foldl {α : Type} {f : State → α → State} (hf : ∀ s x, Inv s → Inv (f s x)) {s : State}
    (h : Inv s) (l : List α) : Inv (l.foldl f s) := by
  induction l generalizing s with
  | nil => exact h
  | cons x r ih => exact ih (hf s x h)

/-! ### Team memory -/

theorem Inv.tmPut {s : State} (h : Inv s) (l : TmLoc) (i : Nat) (v : Byte) : Inv (s.tmPut l i v) :=
  h.modTeam_tm _ fun _ ht => Memory.wf_write _ _ ht

theorem Inv.tmPuts {s : State} (h : Inv s) (l : TmLoc) (i : Nat) (bs : List Byte) :
    Inv (s.tmPuts l i bs) := by
  induction bs generalizing s i with
  | nil => exact h
  | cons b r ih => exact ih (h.tmPut l i b) (i + 1)

theorem Inv.tmPutTag {s : State} (h : Inv s) (x : TmLoc) (tag : BitVec 4) : Inv (s.tmPutTag x tag) :=
  h.modTeam_keep _ fun _ => rfl

theorem Inv.holdLines {s : State} (h : Inv s) (op : Nat × Nat × Nat) (l : TmLoc) (n : Nat) :
    Inv (s.holdLines op l n) := by
  refine h.foldS (fun _ _ h => ?_) _
  unfold State.holdLine
  exact h.modTeam_keep _ fun _ => rfl

theorem Inv.freeLines {s : State} (h : Inv s) (op : Nat × Nat × Nat) (l : TmLoc) (n : Nat) :
    Inv (s.freeLines op l n) := by
  refine h.foldS (fun _ _ h => ?_) _
  unfold State.freeLine
  exact h.modTeam_keep _ fun _ => rfl

/-! ### Main memory -/

theorem Inv.scrubUnit {s : State} (h : Inv s) (u : Nat) : Inv (s.scrubUnit u) := by
  unfold State.scrubUnit
  split
  · exact h.of_parts (Memory.wf_clear _ _ h.hbm) h.hostMem rfl
  · exact h

theorem Inv.hbmPut {s : State} (h : Inv s) (pa : Nat) (v : Byte) : Inv (s.hbmPut pa v) :=
  let h' := h.scrubUnit (pa / pageSize)
  h'.of_parts (Memory.wf_write _ _ h'.hbm) h'.hostMem rfl

theorem Inv.hbmPuts {s : State} (h : Inv s) (pa : Nat) (bs : List Byte) : Inv (s.hbmPuts pa bs) := by
  induction bs generalizing s pa with
  | nil => exact h
  | cons b r ih => exact ih (h.hbmPut pa b) (pa + 1)

theorem Inv.hbmPutTag {s : State} (h : Inv s) (gr : Nat) (t : BitVec 4) : Inv (s.hbmPutTag gr t) :=
  (h.scrubUnit (gr / 2048)).congr rfl rfl rfl

theorem Inv.fillPage {s : State} (h : Inv s) (pa : Nat) (p : CapPage) : Inv (s.fillPage pa p) := by
  refine .foldl (fun _ _ h => h.hbmPutTag _ _) (.foldl (fun _ _ h => h.hbmPut _ _) ?_ _) _
  refine h.of_parts ?_ ?_ ?_
  · exact Memory.wf_clear _ _ h.hbm
  · exact h.hostMem
  · rfl

theorem Inv.vWrite {s t : State} {ctx va : Nat} {bs : List Byte} (h : Inv s)
    (e : s.vWrite ctx va bs = some t) : Inv t := by
  induction bs generalizing s va with
  | nil => cases e; exact h
  | cons b r ih =>
    unfold State.vWrite at e
    split at e
    · exact ih (h.hbmPut _ _) e
    · cases e

theorem Inv.vFill {s : State} (h : Inv s) (ctx va room : Nat) (bs : List Byte) :
    Inv (s.vFill ctx va room bs).1 := by
  induction bs generalizing s va room with
  | nil => simpa only [State.vFill] using h
  | cons b r ih =>
    cases room with
    | zero => simpa only [State.vFill] using h
    | succ room =>
      simp only [State.vFill]
      split
      · exact ih (h.hbmPut _ _) _ _
      · exact h
      · exact h

/-! ### Host memory, trace and fault records -/

theorem Inv.faultQueue {s : State} (h : Inv s) (fn : Nat) (r : FaultRec) : Inv (s.faultQueue fn r).1 := by
  unfold State.faultQueue
  simp only
  split
  · exact h
  · split
    · exact h.modFunc _ _
    · refine Inv.modFunc (h.of_parts ?_ ?_ ?_) _ _
      · exact h.hbm
      · exact Memory.wf_writeN _ _ h.hostMem
      · rfl

theorem Inv.trace {s : State} (h : Inv s) (t : Team) (r : TraceRec) : Inv (s.trace t r) := by
  unfold State.trace
  simp only
  split
  · refine Inv.modCtx ?_ _ _
    cases e : s.vWrite t.ctx _ _ with
    | none => exact h
    | some u => exact h.vWrite e
  · exact h

/-! ### The issue of a word and what follows it -/

theorem Inv.next {s : State} (h : Inv s) : Inv s.next := h.congr rfl rfl rfl

theorem Inv.send {s : State} (h : Inv s) (before : Nat) (t : Team) (g : Nat) (loc : TmLoc) (op : PacketOp)
    (rel : Option Scope) (phase : Option Nat) (x : Option SampleInfo) :
    Inv (s.send before t g loc op rel phase x) := h.congr rfl rfl rfl

theorem Inv.drain {s : State} (h : Inv s) (k g : Nat) : Inv (s.drain k g) := by
  unfold State.drain State.sendWrites
  refine Inv.modGroup (h.foldS (fun _ _ h => ?_) _) _ _ _
  exact h.send _ _ _ _ _ _ _ _

theorem Inv.haltGroups {s : State} (h : Inv s) (k : Nat) (except : Option Nat) :
    Inv (s.haltGroups k except) := by
  unfold State.haltGroups
  refine h.foldS (fun _ _ h => ?_) _
  refine ((h.drain _ _).modGroup _ _ _ fun x h1 h2 => ?_).trace _ _
  exact keeps_of_hull (fun x => x.haltHere_same.1) { x with halted := true } h1 h2

theorem Inv.haltTeam {s : State} (h : Inv s) (k : Nat) : Inv (s.haltTeam k) := by
  unfold State.haltTeam
  refine (h.haltGroups _ _).modTeam _ _ fun t ht => ?_
  rw [teamOk_iff] at ht ⊢
  refine ⟨ht.1, fun x hx => ?_⟩
  unfold Team.holdChains at hx
  simp only [List.mem_map] at hx
  obtain ⟨y, hy, rfl⟩ := hx
  split <;> exact ht.2 y hy

theorem Inv.haltNested {s : State} (h : Inv s) (k g code lane : Nat) (pc : Word) (addr : DWord) :
    Inv (s.haltNested k g code lane pc addr) := by
  unfold State.haltNested State.faultNotify
  exact ((h.faultQueue _ _).modFunc _ _).haltTeam _

/-- Changes of lanes alone. -/
theorem modLanes_hull {α : Type} (l : List α) (n : α → Nat) (f : α → Lane → Lane) (g : Group) :
    hull (l.foldl (fun g x => g.modLane (n x) (f x)) g) = hull g := by
  induction l generalizing g with
  | nil => rfl
  | cons x r ih => rw [List.foldl_cons, ih]; rfl

theorem Inv.nestedFault {s : State} (h : Inv s) (k g : Nat) (c : Clause) (stops : List LaneStop) :
    Inv (s.nestedFault k g c stops) := by
  have h' : Inv (s.modGroup k g fun x => stops.foldl (fun x st => x.modLane st.lane fun l =>
      { l with st := .ready, pc := c.here, mid := some (c.hdr, c.here) }) { x with entry := none }) :=
    h.modGroup _ _ _ fun x h1 h2 => keeps_of_hull (f := fun y => stops.foldl (fun x st => x.modLane st.lane fun l =>
      { l with st := .ready, pc := c.here, mid := some (c.hdr, c.here) }) y)
      (fun y => modLanes_hull stops (·.lane) _ y) { x with entry := none } h1 h2
  unfold State.nestedFault
  simp only
  split
  · exact h'.haltNested _ _ _ _ _ _
  · exact h'.haltTeam _

/-- What a word leaves of its group's slices and frames, whatever lanes it stops. -/
theorem retire_hull (g0 g : Group) (i : Instr) (stops : List LaneStop) (now : Nat) :
    hull (Group.retire g0 g i stops now) = hull g := by
  have hs : ∀ (x : Group) (c : Clause), hull (x.stopLanes c stops) = hull x := by
    intro x c
    have h := modLanes_hull stops (·.lane) (fun (y : LaneStop) (z : Lane) => z.stop c y.why) x
    exact h
  have hr : ∀ (x : Group) (c : Clause),
      hull (if stops.isEmpty then x.releaseOperands c i else x) = hull x := by
    intro x c
    split
    · exact Group.releaseOperands_hull x c i
    · rfl
  have key : ∀ (p : Prop) [Decidable p] (x y : Group), hull x = hull g → hull y = hull g →
      hull (if p then x else y) = hull g := by
    intro p _ x y hx hy
    split
    · exact hx
    · exact hy
  unfold Group.retire
  dsimp only
  refine key _ _ _ ?_ ?_
  · rw [(Group.haltHere_same _).1, (Group.parkAfter_same _ _ _).1, (Group.advance_same _ _ _).1, hr, hs]
    exact (Group.account_same g0 g i now).1
  · have hc : ∀ x : Group, hull { x with clause := none, park := .none } = hull x := fun _ => rfl
    exact (hc _).trans ((hr _ _).trans ((hs _ _).trans (Group.account_same g0 _ i now).1))

theorem Inv.retire {s : State} (h : Inv s) (s0 : State) (i : Instr) (stops : List LaneStop) :
    Inv (s0.retire s i stops) := by
  have h' : Inv (s.modCg fun g => Group.retire s0.cg g i stops s0.tick) :=
    h.modCg _ fun x => keeps_of_hull (fun y => retire_hull s0.cg y i stops s0.tick) x
  unfold State.retire
  simp only
  split
  · exact h'.nestedFault _ _ _ _
  · exact h'

/-- The state of an effect keeps the invariant. -/
def EffKeeps : Eff → Prop
  | .done s _ => Inv s
  | .wait s _ => Inv s

/-- A word keeps the invariant when its effects do. -/
theorem Inv.run {s t : State} {i : Instr} {f : State → Eff} (h : Inv s)
    (hf : ∀ u, Inv u → EffKeeps (f u)) (e : s.run i f = .next t) : Inv t := by
  unfold State.run State.runPast at e
  split at e
  · split at e
    · have hs := hf s h
      split at e <;> rename_i x <;> rw [x] at hs <;> cases e
      · exact Inv.retire hs _ _ _
      · exact Inv.modCg hs _
    · split at e
      · cases e
        exact h.retire _ _ _
      · have hs := hf (s.withIssue (s.cl.issue &&& ~~~s.eccLanes i)) (h.modCg _)
        split at e <;> rename_i x <;> rw [x] at hs <;> cases e
        · exact Inv.retire hs _ _ _
        · exact Inv.modCg (Inv.modCg hs _) _
  · cases e
    exact h.retire _ _ _

theorem writes_hull (g : Group) (ws : List RegWrite) : hull (g.writes ws) = hull g := by
  have h := congrArg hull (Group.writes_rest g ws); exact h

theorem Inv.writeNow {s : State} (h : Inv s) (ws : List RegWrite) : Inv (s.writeNow ws) :=
  h.modCg _ (keeps_of_hull fun x => writes_hull x ws)

theorem Inv.writeLater {s : State} (h : Inv s) (names : List RegName) (lanes : Mask)
    (ws : List RegWrite) : Inv (s.writeLater names lanes ws) := h.next.modCg _

theorem Inv.alu {s t : State} {i : Instr} {f : Group → Nat → List Word} (h : Inv s)
    (e : s.alu i f = .next t) : Inv t := by
  refine h.run (fun u h => ?_) e
  exact h.writeNow _

theorem Inv.aluLong {s t : State} {i : Instr} {f : Group → Nat → List Word} (h : Inv s)
    (e : s.aluLong i f = .next t) : Inv t := by
  refine h.run (fun u h => ?_) e
  exact h.writeLater _ _ _

theorem Inv.uniform {s t : State} {i : Instr} {f : Group → Mask → List Word} (h : Inv s)
    (e : s.uniform i f = .next t) : Inv t := by
  refine h.run (fun u h => ?_) e
  show Inv (if u.active i = 0 then u else _)
  split
  · exact h
  · exact h.writeNow _

/-- An access keeps the invariant when what it does once it is not held does. -/
theorem Inv.access {s t : State} {i : Instr} {f : State → Eff} (h : Inv s)
    (hf : ∀ u, Inv u → EffKeeps (f u)) (e : s.access i f = .next t) : Inv t := by
  refine h.run (fun u h => ?_) e
  by_cases c : u.accessHeld u.curTeam u.curGroup (u.active i) = true
  · rw [if_pos c]; exact h
  · rw [if_neg c]; exact hf u h

theorem Inv.drainFirst {s : State} (h : Inv s) : Inv s.drainFirst := by
  unfold State.drainFirst
  split
  · exact h.drain _ _
  · exact h.drain _ _
  · exact h

theorem Inv.drainAt {s : State} (h : Inv s) (i : Instr) : Inv (s.drainAt i) := by
  unfold State.drainAt
  split
  · exact h
  · exact h.drainFirst

theorem Inv.draining {s t : State} {i : Instr} {f : State → Eff} (h : Inv s)
    (hf : ∀ u, Inv u → EffKeeps (f u)) (e : s.draining i f = .next t) : Inv t :=
  (h.drainAt i).access hf e

/-! ### Taking an exception -/

/-- Stopping where a group stands keeps all but its lanes and the bookkeeping of the issue slot. -/
theorem stopHere_hull (g : Group) : hull g.stopHere = hull g := by
  unfold Group.stopHere
  split <;> rfl

/-- A group that enters a handler keeps the form of its slices and frames. -/
theorem enter_keeps (sup nested : Bool) (r : TrapRegs) (v : Word) (x : Group) (h1 : x.spill.wf = true)
    (h2 : x.frame.wf = true) :
    (x.enter sup nested r v).spill.wf = true ∧ (x.enter sup nested r v).frame.wf = true := by
  obtain ⟨h1, h2⟩ := keeps_of_hull (f := Group.stopHere) stopHere_hull x h1 h2
  have hf : ∀ (l : List Nat) (m : Memory), m.wf = true →
      (l.foldl (fun m k => m.writeN (frameKey k 224) (x.stopHere.trapRegs.frameBytes k)) m).wf = true := by
    intro l
    induction l with
    | nil => intro m h; exact h
    | cons a r ih => intro m h; exact ih _ (Memory.wf_writeN _ _ h)
  unfold Group.enter
  dsimp only
  cases nested
  · exact ⟨h1, h2⟩
  · exact ⟨h1, hf _ _ h2⟩

theorem Inv.drainEntry {s : State} (h : Inv s) (k g : Nat) : Inv (s.drainEntry k g) := by
  unfold State.drainEntry
  split
  · exact h
  · exact h.drain k g

theorem handChain_keeps (r : FaultRec) (dest : Nat) (x : Group) (h1 : x.spill.wf = true)
    (h2 : x.frame.wf = true) :
    (x.handChain r dest).spill.wf = true ∧ (x.handChain r dest).frame.wf = true := by
  unfold Group.handChain
  split <;> exact ⟨h1, h2⟩

theorem Inv.takeException {s : State} (h : Inv s) (k g : Nat) (sup : Bool) (regs : Group → TrapRegs) :
    Inv (s.takeException k g sup regs) := by
  unfold State.takeException
  simp only
  split
  · exact (h.drainEntry _ _).haltNested _ _ _ _ _ _
  · exact ((h.drainEntry _ _).modGroup _ _ _ (enter_keeps _ _ _ _)).trace _ _

theorem Inv.enterPending {s : State} (h : Inv s) (k g : Nat) : Inv (s.enterPending k g) := by
  unfold State.enterPending
  simp only
  split
  · exact h.modGroup _ _ _
  · split
    · exact h.takeException _ _ _ _
    · exact ((h.takeException _ _ _ _).modGroup _ _ _
        (handChain_keeps _ _)).modTeam_keep _ fun _ => rfl

theorem Inv.nextEntry {s : State} (h : Inv s) (k g : Nat) : Inv (s.nextEntry k g) := by
  unfold State.nextEntry
  simp only
  split
  · exact h.modGroup _ _ _
  · exact h.modGroup _ _ _

/-- A team that leaves takes its memory with it. -/
theorem Inv.dropTeam {s : State} (h : Inv s) (k : Nat) : Inv (s.dropTeam k) := by
  have h1 : Inv ((s.traceEnd (s.team k)).dropSlips k (s.team k).core) := (h.trace _ _).congr rfl rfl rfl
  exact h1.congr_teams rfl rfl fun u hu => ⟨u, (List.mem_filter.mp hu).1, rfl, rfl⟩

/-! ### Reset -/

theorem inv_reset : Inv State.reset := by unfold Inv; decide

end Sys2Proof.Safety
end

