-- ==== Sys2Proof/Tests/Slice0.lean ====
section
/-! SUPPORT. Tests: fields that the encoding refuses, words written out from the encoding tables, single
steps of examples of the specification, and for each statement a state and operands that meet its
hypotheses. -/

namespace Sys2Proof.Tests

open Machine Safety

set_option Elab.async false

/-! ### Ill-formed fields -/

/-- No modifier; the R bit; a base and no index; an index; no completion word. -/
def md : Mods := { g := false, r := false, s := false }
def mdR : Mods := { md with r := true }
def mg : Mods := { md with g := true }
def mr : Mods := { md with r := true }
def ms : Mods := { md with s := true }
def atBase (sp : Space) (base : BitVec 6) : Addr := { a := 0, base := base, sp := sp, bx := true, ix := false, off := 0 }
def atIndex (sp : Space) (a : BitVec 7) : Addr := { a := a, base := 0, sp := sp, bx := false, ix := true, off := 0 }
def exBase (base : BitVec 6) : AddrX := { a := 0, base := base, cl := false, bx := true, ix := false, off := 0 }
def noCw : CopyX := { cwb := 0, cnt := 0, cl := false, cws := .none, ord := false, cwoff := 0 }
def clCw : CopyX := { noCw with cws := .cl, cwb := 1 }
def clSide : CopyX := { noCw with cl := true }
def ordX : CopyX := { noCw with ord := true }
def row0 : Row := { a := 0, ax := false, roff := 0 }
def rowBad : Row := { row0 with a := 1 }

/-- The R bit where operand a is no G register (R79), by family. -/
theorem test_r_bit_control :
    [Instr.nop mdR, .bra 0 mdR, .call 0 mdR, .ret mdR, .exit mdR, .enrol 0 0 mdR, .rejoin 0 mdR, .yield mdR,
     .trap 0 mdR, .eret mdR, .dbrk 0 mdR, .haltt mdR, .resumet mdR, .fence .grp mdR].all
      (fun i => !wellFormed i) = true := by decide

theorem test_r_bit_predicates_and_scalars :
    [Instr.movi 0 0 mdR, .pand ⟨1, 0, 0, false, false, mdR⟩, .por ⟨1, 0, 0, false, false, mdR⟩,
     .pxor ⟨1, 0, 0, false, false, mdR⟩, .pmov ⟨1, 0, false, mdR⟩, .vote ⟨1, 0, false, mdR⟩ .some,
     .elect ⟨1, 0, false, mdR⟩, .smov 0 0 mdR, .smovi 0 0 mdR, .sadd ⟨0, 0, 0, mdR⟩, .ssub ⟨0, 0, 0, mdR⟩,
     .smul ⟨0, 0, 0, mdR⟩, .sand ⟨0, 0, 0, mdR⟩, .sor ⟨0, 0, 0, mdR⟩, .sxor ⟨0, 0, 0, mdR⟩,
     .sshl ⟨0, 0, 0, mdR⟩, .sshr ⟨0, 0, 0, mdR⟩, .ssetp 1 0 0 .eq .i32 mdR, .s2g 0 0 mdR,
     .slea ⟨0, 0, 0, mdR⟩ 0 0].all (fun i => !wellFormed i) = true := by decide

theorem test_r_bit_memory_and_copies :
    [Instr.ld 0 (atBase .tm 0) .w32 .v1 none false mdR, .st 0 (atBase .tm 0) .w32 .v1 none mdR,
     .ldu 0 (atBase .tm 0) .w32 .v1 mdR, .pwait 0 (atBase .tm 0) mdR, .ptest 1 (atBase .tm 0) mdR,
     .tagset 0 (atBase .tm 0) mdR, .atom ⟨0, 0, exBase 0, .w32, .add, .relaxed, .grp, false, mdR⟩,
     .red ⟨0, exBase 0, .w32, .add, false, .grp, mdR⟩,
     .atomcas ⟨0, 0, exBase 0, .w32, .relaxed, .grp, false, mdR⟩, .copyOut ⟨0, 0, noCw, mdR⟩,
     .copySs 0 0 noCw false mdR, .copyt ⟨0, 0, noCw, mdR⟩ true false, .scatter ⟨0, 0, 0, noCw, 0, 0, mdR⟩,
     .cwinit ⟨0, 0, false, false, 0, mdR⟩, .cwadd ⟨0, 0, false, false, 0, mdR⟩,
     .cwwait ⟨0, 0, false, false, 0, mdR⟩, .cwtest 1 ⟨0, 0, false, false, 0, mdR⟩].all
      (fun i => !wellFormed i) = true := by decide

theorem test_r_bit_engines :
    [Instr.berth 0 0 mdR, .unberth ⟨0, mdR⟩, .mmax ⟨0, mdR⟩, .accw 0 0 0 mdR, .accz row0 1 mdR,
     .accld 0 row0 mdR, .accst row0 0 mdR, .accout 0 row0 0 .f16 (.det .rne) false 0 mdR,
     .cvtb 0 0 0 0 false mdR, .accflg 0 mdR, .chain 0 row0 0 0 mdR, .chapply 0 row0 0 mdR, .chld 0 0 0 mdR,
     .chldId 0 mdR, .chst 0 0 0 mdR, .slip 0 0 0 0 mdR, .slipcl ⟨0, mdR⟩, .ferry ⟨0, mdR⟩, .take 0 0 mdR,
     .land 0 0 mdR, .ltstat ⟨0, 0, 0, mdR⟩, .ltfree ⟨0, mdR⟩, .launch ⟨0, 0, 0, mdR⟩].all
      (fun i => !wellFormed i) = true := by decide

theorem test_r_bit_groups_and_system :
    [Instr.barArrive ⟨false, false, 0, 0, 0, mdR⟩, .barSync ⟨false, false, 0, 0, 0, mdR⟩,
     .barWait false 0 0 mdR, .barq 0 false 0 0 mdR, .reggive 0 1 mdR, .regtake 0 mdR,
     .sread (.g 0) .lanenum mdR, .swrite (.s 0) .cadence mdR, .watch .lane .r .tm 0 0 0 mdR,
     .unwatch .lane 0 mdR, .ctxsaveAcc ⟨1, mdR⟩, .ctxsavePre ⟨1, mdR⟩, .ctxsaveSlice ⟨1, mdR⟩,
     .ctxsaveMig ⟨1, mdR⟩, .ctxsaveDump ⟨1, mdR⟩, .ctxloadAcc ⟨1, mdR⟩, .ctxloadImg ⟨1, mdR⟩,
     .pilotset 0 false 0 0 mdR, .pilotget 0 0 false 0 mdR, .perfrd (.s 0) false .slots mdR,
     .sample 0 0 mdR, .tlbinvAll mdR, .tlbinvPage 0 mdR].all (fun i => !wellFormed i) = true := by decide

/-- Predicate selectors from 48 on (R79). -/
theorem test_predicate_selectors :
    [Instr.sel ⟨0, 0, 0, md⟩ 48, .isetp 48 0 0 .eq .i32 md, .fsetp 63 0 0 .num md,
     .pand ⟨48, 0, 0, false, false, md⟩, .pand ⟨1, 48, 0, false, false, md⟩, .pand ⟨1, 0, 48, false, false, md⟩,
     .por ⟨48, 0, 0, false, false, md⟩, .por ⟨1, 48, 0, false, false, md⟩, .por ⟨1, 0, 48, false, false, md⟩,
     .pxor ⟨48, 0, 0, false, false, md⟩, .pxor ⟨1, 48, 0, false, false, md⟩,
     .pxor ⟨1, 0, 48, false, false, md⟩, .pmov ⟨48, 0, false, md⟩, .pmov ⟨1, 48, false, md⟩,
     .vote ⟨48, 0, false, md⟩ .each, .vote ⟨1, 48, false, md⟩ .each, .elect ⟨48, 0, false, md⟩,
     .elect ⟨1, 48, false, md⟩, .ssetp 48 0 0 .eq .i32 md, .shfl ⟨0, 0, 0, md⟩ 48 .src false 0,
     .ptest 48 (atBase .tm 0) md, .cwtest 48 ⟨0, 0, false, false, 0, md⟩, .ctxsaveAcc ⟨48, md⟩,
     .ctxsavePre ⟨48, md⟩, .ctxsaveSlice ⟨48, md⟩, .ctxsaveMig ⟨48, md⟩, .ctxsaveDump ⟨48, md⟩,
     .ctxloadAcc ⟨48, md⟩, .ctxloadImg ⟨48, md⟩].all (fun i => !wellFormed i) = true := by decide

/-- Pairs that begin at an odd register (R108, R206, R213, R346). -/
theorem test_odd_pairs :
    [Instr.add64 ⟨1, 0, 0, md⟩, .add64 ⟨0, 1, 0, md⟩, .add64 ⟨0, 0, 1, md⟩, .sub64 ⟨1, 0, 0, md⟩,
     .sub64 ⟨0, 1, 0, md⟩, .sub64 ⟨0, 0, 1, md⟩, .isetp 1 1 0 .eq .i64 md, .isetp 1 0 1 .eq .w64 md,
     .atom ⟨1, 0, exBase 0, .w64, .add, .relaxed, .grp, false, md⟩,
     .atom ⟨0, 1, exBase 0, .i64, .add, .relaxed, .grp, false, md⟩,
     .red ⟨1, exBase 0, .w64, .add, false, .grp, md⟩,
     .atomcas ⟨1, 0, exBase 0, .w64, .relaxed, .grp, false, md⟩,
     .atomcas ⟨0, 2, exBase 0, .w64, .relaxed, .grp, false, md⟩,
     .atomcas ⟨0, 1, exBase 0, .w32, .relaxed, .grp, false, md⟩, .tagget ⟨0, 1, md⟩ true,
     .copyIn ⟨0, 1, noCw, md⟩, .copyOut ⟨0, 1, noCw, md⟩, .copyt ⟨0, 1, noCw, md⟩ false false,
     .copyIn ⟨1, 0, clSide, md⟩, .copyOut ⟨1, 0, clSide, md⟩, .copySs 1 0 clSide false md,
     .copySs 0 1 noCw true md, .copyMm 1 0 noCw md, .copyMm 0 1 noCw md, .copyt ⟨1, 0, clSide, md⟩ true true,
     .gather ⟨0, 1, 0, noCw, 0, 0, md⟩, .gather ⟨0, 0, 1, noCw, 0, 0, md⟩, .gather ⟨1, 0, 0, clSide, 0, 0, md⟩,
     .scatter ⟨0, 1, 0, noCw, 0, 0, md⟩, .scatter ⟨0, 0, 1, noCw, 0, 0, md⟩,
     .scatter ⟨1, 0, 0, clSide, 0, 0, md⟩, .cwinit ⟨1, 0, true, false, 0, md⟩, .cwadd ⟨1, 0, true, false, 0, md⟩,
     .cwwait ⟨0, 1, false, true, 0, md⟩, .cwtest 1 ⟨0, 1, false, true, 0, md⟩, .copytag 1 0 true noCw md,
     .copytag 1 0 false clSide md, .accout 0 row0 1 .f16 .rs false 0 md, .watch .lane .r .tm 0 1 0 md,
     .tlbinvPage 1 md].all (fun i => !wellFormed i) = true := by decide

/-- A completion word in the peloton window with an odd base (R206); `.ord` where it is reserved (R211,
R215). -/
theorem test_copy_fields :
    [Instr.copyIn ⟨0, 0, clCw, md⟩, .copyOut ⟨0, 0, clCw, md⟩, .copySs 0 0 clCw false md, .copyMm 0 0 clCw md,
     .copyMm 0 0 clSide md, .copyt ⟨0, 0, clCw, md⟩ false false, .gather ⟨0, 0, 0, clCw, 0, 0, md⟩,
     .scatter ⟨0, 0, 0, clCw, 0, 0, md⟩, .copytag 0 0 false clCw md, .gather ⟨0, 0, 0, ordX, 0, 0, md⟩,
     .scatter ⟨0, 0, 0, ordX, 0, 0, md⟩, .copytag 0 0 false ordX md, .copytag 64 0 false noCw md,
     .gather ⟨0, 0, 0, noCw, 5, 0, md⟩, .gather ⟨0, 0, 0, noCw, 0, 13, md⟩, .scatter ⟨0, 0, 0, noCw, 5, 0, md⟩,
     .scatter ⟨0, 0, 0, noCw, 0, 13, md⟩].all (fun i => !wellFormed i) = true := by decide

/-- Address operands, element blocks and orderings of loads and stores (R194, R195, R197, R200). -/
theorem test_memory_fields :
    [Instr.ld 0 (atIndex .cl 0) .w32 .v1 none false md, .ld 0 (atBase .cl 1) .w32 .v1 none false md,
     .ld 0 { atBase .tm 0 with a := 1 } .w32 .v1 none false md, .ld 1 (atBase .tm 0) .w64 .v1 none false md,
     .ld 2 (atBase .tm 0) .w32 .v4 none false md, .ld 0 (atBase .tm 0) .w64 .v4 none false md,
     .ld 0 (atBase .sk 0) .w32 .v1 (some .grp) false md, .ld 0 (atBase .tm 0) .w32 .v1 none true md,
     .st 1 (atBase .tm 0) .w32 .v2 none md, .st 0 (atBase .sk 0) .w32 .v1 (some .team) md,
     .st 0 (atIndex .cl 0) .w32 .v1 none md, .ldu 0 (atIndex .tm 0) .w32 .v1 md,
     .ldu 0 (atBase .sk 0) .w32 .v1 md, .ldu 1 (atBase .tm 0) .i64 .v1 md, .pwait 0 (atBase .sk 0) md,
     .ptest 1 (atBase .sk 0) md, .tagset 0 (atBase .sk 0) md,
     .atom ⟨0, 0, exBase 0, .i32, .and, .relaxed, .grp, false, md⟩,
     .atom ⟨0, 0, exBase 0, .w64, .incw, .relaxed, .grp, false, md⟩,
     .atom ⟨0, 0, exBase 0, .w32, .add, .rel, .grp, true, md⟩,
     .atom ⟨0, 0, { exBase 1 with cl := true }, .w32, .add, .relaxed, .grp, false, md⟩,
     .red ⟨0, exBase 0, .f32, .xor, false, .grp, md⟩,
     .red ⟨0, { exBase 0 with a := 1 }, .w32, .add, false, .grp, md⟩,
     .atomcas ⟨0, 0, exBase 0, .w32, .relaxed, .grp, true, md⟩,
     .atomcas ⟨0, 0, { exBase 0 with cl := true, bx := false }, .w32, .relaxed, .grp, false, md⟩].all
      (fun i => !wellFormed i) = true := by decide

/-- Roundings, types and identifiers of the other families. -/
theorem test_other_fields :
    [Instr.cvt ⟨0, 0, md⟩ (.fp .f16) .i32 .rs false 0 0, .cvt ⟨0, 0, md⟩ .i32 (.fp .f32) .rs false 0 0,
     .cvt ⟨0, 0, md⟩ .i32 (.fp .f32) (.det .rz) false 1 0, .cvt ⟨0, 0, md⟩ .i32 (.fp .f32) (.det .rz) false 0 1,
     .shfl ⟨0, 0, 1, md⟩ 0 .src true 0, .redux ⟨0, 0, md⟩ .and .i32 .rne, .redux ⟨0, 0, md⟩ .min .f32 .rz,
     .redux ⟨0, 0, md⟩ .add .w32 .ru, .prfx ⟨0, 0, md⟩ .xor .f32 .rne false, .mmas ⟨4, 0, 0, 0, md⟩ .f16 .f16,
     .mmas ⟨0, 2, 0, 0, md⟩ .f16 .f16, .mmas ⟨0, 0, 2, 0, md⟩ .f16 .f16, .mmas ⟨0, 0, 0, 4, md⟩ .f16 .f16,
     .mmas ⟨0, 0, 0, 0, md⟩ .f16 .e4m3, .accz row0 0 md, .accz row0 24577 md, .accz rowBad 1 md,
     .accld 0 rowBad md, .accst rowBad 0 md, .accout 0 rowBad 0 .f16 (.det .rne) false 0 md,
     .accout 0 row0 2 .f16 (.det .rne) false 0 md, .accout 0 row0 0 .f32 .rs false 0 md,
     .chain 0 rowBad 0 0 md, .chapply 0 rowBad 0 md, .barArrive ⟨false, false, 1, 0, 0, md⟩,
     .barArrive ⟨false, false, 0, 16, 0, md⟩, .barArrive ⟨false, false, 0, 0, 1, md⟩,
     .barSync ⟨false, false, 1, 0, 0, md⟩, .barSync ⟨false, false, 0, 16, 0, md⟩,
     .barSync ⟨false, false, 0, 0, 1, md⟩, .barWait false 0 16 md, .barq 0 false 0 16 md, .reggive 0 0 md,
     .sread (.s 0) .lanenum md, .sread (.g 0) .cadence md, .sread (.k 0) .lsp md, .swrite (.g 0) .cadence md,
     .swrite (.s 0) .grpid md, .watch .lane .r .tm 2 0 0 md, .watch .team .r .tm 8 0 0 md,
     .watch .team .r .tm 0 64 0 md, .watch .ctx .r .tm 0 0 64 md, .unwatch .lane 2 md, .unwatch .team 8 md,
     .pilotset 1 false 0 0 md, .pilotget 0 1 false 0 md].all (fun i => !wellFormed i) = true := by decide

/-! ### Words written from the encoding tables -/

/-- Word formats of R78, field by field from bit 31 down; the last three bits are G, R and S. -/
def f3 (op : BitVec 8) (d a b : BitVec 7) (grs : BitVec 3 := 0) : Nat := (op ++ d ++ a ++ b ++ grs).toNat
def fb (op : BitVec 8) (off : BitVec 21) : Nat := (op ++ off ++ 0#3).toNat
def fj (op : BitVec 8) (j : BitVec 3) (off : BitVec 18) : Nat := (op ++ j ++ off ++ 0#3).toNat
def fs (op : BitVec 8) (sel : BitVec 21) : Nat := (op ++ sel ++ 0#3).toNat

/-- Extension layouts EA and EL (R99), EM (R195), EX (R200), EC (R206), of completion words (R213), and
ER (R269). -/
def ea (c : BitVec 7) (p : BitVec 6) (t : BitVec 4) (rm : BitVec 3) (t2 : BitVec 4) (aux : BitVec 8) : Nat :=
  (c ++ p ++ t ++ rm ++ t2 ++ aux).toNat
def el (imm : BitVec 24) (sh : BitVec 5) : Nat := (imm ++ 0#3 ++ sh).toNat
def em (base : BitVec 6) (sp : BitVec 2) (t : BitVec 4) (vec : BitVec 2) (bx ix ord : BitVec 1)
    (scope : BitVec 3) (pro : BitVec 1) (off : BitVec 11) : Nat :=
  (base ++ sp ++ t ++ vec ++ bx ++ ix ++ ord ++ scope ++ pro ++ off).toNat
def ex (base : BitVec 6) (sp : BitVec 2) (t opc : BitVec 4) (bx ix : BitVec 1) (ord : BitVec 2)
    (scope : BitVec 3) (pro : BitVec 1) (off : BitVec 8) : Nat :=
  (base ++ sp ++ t ++ opc ++ bx ++ ix ++ ord ++ scope ++ pro ++ off).toNat
def ec (cwb cnt : BitVec 6) (mode : BitVec 2) (spc : BitVec 1) (cws : BitVec 2) (ord : BitVec 1)
    (cwoff : BitVec 6) (aux : BitVec 8) : Nat :=
  (cwb ++ cnt ++ mode ++ spc ++ cws ++ ord ++ cwoff ++ aux).toNat
def ecw (cl w64 : BitVec 1) (off : BitVec 21) : Nat := (cl ++ w64 ++ 0#9 ++ off).toNat
def er (roff : BitVec 15) (ax : BitVec 1) (low : BitVec 16) : Nat := (roff ++ ax ++ low).toNat

/-- Every word of a list decodes to the instruction beside it. -/
def decodesAll (l : List (Nat × Nat × Instr)) : Bool :=
  l.all fun x => (decodeWords x.1 x.2.1).toOption == some x.2.2

/-- Control flow (R104). -/
theorem test_words_control :
    decodesAll [(f3 0x00 0 0 0 5, 0, .nop { mg with s := true }), (fb 0x01 (-4), 0, .bra (-4) md),
      (f3 0x02 0 5 0 2, 0, .brx ⟨5, mr⟩), (fb 0x03 9, 0, .call 9 md), (f3 0x04 0 6 0, 0, .callx ⟨6, md⟩),
      (f3 0x05 0 0 0 4, 0, .ret mg), (f3 0x06 0 0 0 1, 0, .exit ms), (fj 0x07 1 3, 0, .enrol 1 3 md),
      (fj 0x08 7 0, 0, .rejoin 7 md), (f3 0x09 0 0 0, 0, .yield md)] = true := by decide +kernel

/-- Integers in one word (R107, R108). -/
theorem test_words_integer :
    decodesAll [(f3 0x10 3 2 1, 0, .add ⟨3, 2, 1, md⟩), (f3 0x11 4 5 6 4, 0, .sub ⟨4, 5, 6, mg⟩),
      (f3 0x12 127 64 1 2, 0, .mul ⟨127, 64, 1, mr⟩), (f3 0x17 3 2 0, 0, .abs ⟨3, 2, md⟩),
      (f3 0x18 3 2 0, 0, .neg ⟨3, 2, md⟩), (f3 0x19 3 2 1, 0, .and ⟨3, 2, 1, md⟩),
      (f3 0x1A 3 2 1, 0, .or ⟨3, 2, 1, md⟩), (f3 0x1B 3 2 1, 0, .xor ⟨3, 2, 1, md⟩),
      (f3 0x1C 3 2 0, 0, .not ⟨3, 2, md⟩), (f3 0x1D 3 2 1, 0, .shl ⟨3, 2, 1, md⟩),
      (f3 0x1E 3 2 1, 0, .shr ⟨3, 2, 1, md⟩), (f3 0x1F 3 2 1, 0, .sar ⟨3, 2, 1, md⟩),
      (f3 0x20 3 2 0, 0, .clz ⟨3, 2, md⟩), (f3 0x21 3 2 0, 0, .popc ⟨3, 2, md⟩),
      (f3 0x22 3 2 0, 0, .brev ⟨3, 2, md⟩), (f3 0x26 3 2 0 1, 0, .mov ⟨3, 2, ms⟩),
      (f3 0x28 1 0 7, 0, .addi ⟨1, 0, md⟩ 7), (f3 0x28 1 0 0x40, 0, .addi ⟨1, 0, md⟩ (-64)),
      (f3 0x2A 4 6 8, 0, .add64 ⟨4, 6, 8, md⟩), (f3 0x2B 4 6 8, 0, .sub64 ⟨4, 6, 8, md⟩),
      (f3 0x2D 3 2 31, 0, .shli ⟨3, 2, 31, md⟩), (f3 0x2E 3 2 1, 0, .shri ⟨3, 2, 1, md⟩),
      (f3 0x2F 3 2 1, 0, .sari ⟨3, 2, 1, md⟩)] = true := by decide +kernel

/-- Integers with an extension word (R99, R100, R109). -/
theorem test_words_integer_extended :
    decodesAll [(f3 0x13 3 2 1, ea 0 0 1 0 0 0, .mulhi ⟨3, 2, 1, .w32, md⟩),
      (f3 0x14 3 2 1, ea 9 0 0 0 0 1, .mad ⟨3, 2, 1, 9, md⟩ .i32 true),
      (f3 0x15 3 2 1, ea 0 0 0 0 0 0, .min ⟨3, 2, 1, .i32, md⟩),
      (f3 0x16 3 2 1, ea 0 0 1 0 0 0, .max ⟨3, 2, 1, .w32, md⟩),
      (f3 0x23 3 2 1, ea 0 0 0 0 0 0, .bfe ⟨3, 2, 1, .i32, md⟩),
      (f3 0x24 3 2 1, ea 9 0 0 0 0 0, .bfi ⟨3, 2, 1, 9, md⟩),
      (f3 0x25 3 2 1, ea 0 47 0 0 0 0, .sel ⟨3, 2, 1, md⟩ 47), (f3 0x27 3 0 0, 0xDEADBEEF, .movi 3 0xDEADBEEF md),
      (f3 0x29 3 2 1, el (-2) 31, .lea ⟨3, 2, 1, md⟩ (-2) 31),
      (f3 0x2C 0 2 4, ea 0 5 7 0 4 0, .isetp 5 2 4 .gt .w64 md),
      (f3 0x2C 0 2 1, ea 0 5 1 0 5 0, .isetp 5 2 1 .ge .w32 md)] = true := by decide +kernel

/-- Floating point (R100, R110 to R116). -/
theorem test_words_float :
    decodesAll [(f3 0x30 3 2 1, ea 0 0 8 1 0 0, .fadd ⟨3, 2, 1, .rz, md⟩),
      (f3 0x31 3 2 1, ea 0 0 8 2 0 0, .fsub ⟨3, 2, 1, .rd, md⟩),
      (f3 0x32 3 2 1, ea 0 0 8 3 0 0, .fmul ⟨3, 2, 1, .ru, md⟩),
      (f3 0x33 3 2 1, ea 9 0 8 0 0 0, .ffma ⟨3, 2, 1, 9, md⟩ .rne),
      (f3 0x34 3 2 1, ea 0 0 8 0 0 0, .fmin ⟨3, 2, 1, md⟩), (f3 0x35 3 2 1, ea 0 0 8 0 0 0, .fmax ⟨3, 2, 1, md⟩),
      (f3 0x36 3 2 0, 0, .fabs ⟨3, 2, md⟩), (f3 0x37 3 2 0, 0, .fneg ⟨3, 2, md⟩),
      (f3 0x38 0 2 1, ea 0 5 8 0 7 0, .fsetp 5 2 1 .nan md),
      (f3 0x38 0 2 1, ea 0 5 8 0 13 0, .fsetp 5 2 1 (.unord .ge) md),
      (f3 0x39 3 2 1, ea 0 0 9 1 0 0, .pfadd ⟨3, 2, 1, .f16, .rz, md⟩),
      (f3 0x3A 3 2 1, ea 0 0 10 0 0 0, .pfmul ⟨3, 2, 1, .bf16, .rne, md⟩),
      (f3 0x3B 3 2 1, ea 9 0 9 3 0 0, .pffma ⟨3, 2, 1, 9, md⟩ .f16 .ru),
      (f3 0x3C 3 2 0, ea 0 0 12 0 0 0, .fclass ⟨3, 2, md⟩ .e5m2),
      (f3 0x3D 3 2 0, ea 0 0 8 0 0 0, .rcp ⟨3, 2, .rne, md⟩), (f3 0x3E 3 2 0, ea 0 0 8 1 0 0, .rsq ⟨3, 2, .rz, md⟩),
      (f3 0x3F 3 2 0, ea 0 0 8 2 0 0, .sqrt ⟨3, 2, .rd, md⟩), (f3 0x40 3 2 0, ea 0 0 8 3 0 0, .exp2 ⟨3, 2, .ru, md⟩),
      (f3 0x41 3 2 0, ea 0 0 8 0 0 0, .log2 ⟨3, 2, .rne, md⟩),
      (f3 0x42 3 2 0, ea 0 0 5 1 8 1, .cvt ⟨3, 2, md⟩ .w8 (.fp .f32) (.det .rz) true 0 0),
      (f3 0x42 3 2 4, ea 6 0 11 4 8 0, .cvt ⟨3, 2, md⟩ (.fp .e4m3) (.fp .f32) .rs false 4 6),
      (f3 0x43 3 2 0, ea 0 0 8 1 0 0, .frnd ⟨3, 2, .rz, md⟩)] = true := by decide +kernel

/-- Predicates (R117): PD, PA, PB, NA, NB, 0. -/
theorem test_words_predicates :
    decodesAll [(fs 0x48 (4#6 ++ 1#6 ++ 2#6 ++ 0#1 ++ 1#1 ++ 0#1), 0, .pand ⟨4, 1, 2, false, true, md⟩),
      (fs 0x49 (4#6 ++ 1#6 ++ 2#6 ++ 1#1 ++ 0#1 ++ 0#1), 0, .por ⟨4, 1, 2, true, false, md⟩),
      (fs 0x4A (4#6 ++ 1#6 ++ 47#6 ++ 0#1 ++ 0#1 ++ 0#1), 0, .pxor ⟨4, 1, 47, false, false, md⟩),
      (fs 0x4B (4#6 ++ 1#6 ++ 0#6 ++ 1#1 ++ 0#1 ++ 0#1), 0, .pmov ⟨4, 1, true, md⟩),
      (fs 0x4C (5#6 ++ 2#6 ++ 0#4 ++ 3#2 ++ 0#1 ++ 0#1 ++ 0#1), 0, .vote ⟨5, 2, false, md⟩ .odd),
      (fs 0x4D (5#6 ++ 2#6 ++ 0#6 ++ 1#1 ++ 0#1 ++ 0#1), 0, .elect ⟨5, 2, true, md⟩)] = true := by decide +kernel

/-- Scalars (R119). -/
theorem test_words_scalars :
    decodesAll [(f3 0x50 3 2 0, 0, .smov 3 2 md), (f3 0x51 3 0 0, 0xFFFFFFFF, .smovi 3 0xFFFFFFFF md),
      (f3 0x52 3 2 1, 0, .sadd ⟨3, 2, 1, md⟩), (f3 0x53 3 2 1, 0, .ssub ⟨3, 2, 1, md⟩),
      (f3 0x54 3 2 1, 0, .smul ⟨3, 2, 1, md⟩), (f3 0x55 3 2 1, 0, .sand ⟨3, 2, 1, md⟩),
      (f3 0x56 3 2 1, 0, .sor ⟨3, 2, 1, md⟩), (f3 0x57 63 2 1, 0, .sxor ⟨63, 2, 1, md⟩),
      (f3 0x58 3 2 1, 0, .sshl ⟨3, 2, 1, md⟩), (f3 0x59 3 2 1, 0, .sshr ⟨3, 2, 1, md⟩),
      (f3 0x5A 0 2 1, ea 0 5 1 0 3 0, .ssetp 5 2 1 .le .w32 md), (f3 0x5B 100 2 0, 0, .s2g 100 2 md),
      (f3 0x5C 3 100 31, 0, .g2s 3 100 31 md), (f3 0x5D 3 2 1, el 8 2, .slea ⟨3, 2, 1, md⟩ 8 2)] = true := by
  decide +kernel

/-- Lane exchange and random numbers (R100, R120 to R123). -/
theorem test_words_lanes :
    decodesAll [(f3 0x60 3 2 1, ea 0 5 0 0 4 0, .shfl ⟨3, 2, 1, md⟩ 5 .rot false 0),
      (f3 0x60 3 2 0, ea 0 0 0 0 1 0x2A, .shfl ⟨3, 2, 0, md⟩ 0 .back true 10),
      (f3 0x61 3 2 0, ea 0 0 8 2 0 0, .redux ⟨3, 2, md⟩ .add .f32 .rd),
      (f3 0x62 3 2 0, ea 0 0 1 0 5 1, .prfx ⟨3, 2, md⟩ .xor .w32 .rne true),
      (f3 0x63 3 2 1, ea 0 0 3 0 0 0, .rng ⟨3, 2, 1, md⟩ .w16), (f3 0x64 3 2 1, ea 0 0 8 0 0 0, .rngn ⟨3, 2, 1, md⟩),
      (f3 0x65 3 2 1, ea 0 0 8 0 0 0, .rngf ⟨3, 2, 1, md⟩)] = true := by decide +kernel

/-- Memory (R195, R196, R200 to R205). -/
theorem test_words_memory :
    decodesAll [
      (f3 0x80 4 9 0, em 6 2 1 2 1 1 1 1 1 0x7FC,
        .ld 4 ⟨9, 6, .cl, true, true, -4⟩ .w32 .v4 (some .team) true md),
      (f3 0x81 0 9 4 2, em 7 0 5 0 1 1 0 0 0 3, .st 4 ⟨9, 7, .sk, true, true, 3⟩ .w8 .v1 none mr),
      (f3 0x81 0 0 4, em 7 1 7 1 1 0 1 4 0 3, .st 4 ⟨0, 7, .tm, true, false, 3⟩ .w64 .v2 (some .sys) md),
      (f3 0x82 12 0 0, em 6 1 2 0 1 0 0 0 0 8, .ldu 12 ⟨0, 6, .tm, true, false, 8⟩ .i16 .v1 md),
      (f3 0x83 0 9 4, em 6 1 0 0 0 1 0 0 0 0, .pwait 4 ⟨9, 0 + 6, .tm, false, true, 0⟩ md),
      (f3 0x84 5 9 0, em 6 2 0 0 1 1 0 0 0 0, .ptest 5 ⟨9, 6, .cl, true, true, 0⟩ md),
      (f3 0x85 4 9 8, ex 6 1 6 0 1 1 3 2 1 0x80,
        .atom ⟨4, 8, ⟨9, 6, false, true, true, -128⟩, .i64, .add, .acqrel, .clus, true, md⟩),
      (f3 0x86 0 9 8, ex 6 2 8 2 1 1 2 4 0 4, .red ⟨8, ⟨9, 6, true, true, true, 4⟩, .f32, .max, true, .sys, md⟩),
      (f3 0x87 4 9 8, ex 6 1 1 0 1 1 1 0 0 4,
        .atomcas ⟨4, 8, ⟨9, 6, false, true, true, 4⟩, .w32, .acq, .grp, false, md⟩),
      (fs 0x88 (4#3 ++ 0#18), 0, .fence .sys md), (f3 0x89 3 2 1, 0, .tagget ⟨3, 2, md⟩ true),
      (f3 0x8A 0 9 4, em 6 1 0 0 1 1 0 0 0 32, .tagset 4 ⟨9, 6, .tm, true, true, 32⟩ md),
      (f3 0x8B 5 4 9, 0, .tagptr ⟨5, 4, 9, md⟩)] = true := by decide +kernel

/-- The copy family and completion words (R206, R207, R213). -/
theorem test_words_copies :
    let x : CopyX := { cwb := 10, cnt := 11, cl := false, cws := .tm, ord := false, cwoff := 5 }
    decodesAll [(f3 0x90 3 4 0, ec 10 11 0 0 1 1 5 0, .copyIn ⟨3, 4, { x with ord := true }, md⟩),
      (f3 0x90 4 3 0, ec 10 11 1 0 1 0 5 0, .copyOut ⟨3, 4, x, md⟩),
      (f3 0x90 6 4 0, ec 10 11 2 1 1 0 5 1, .copySs 6 4 { x with cl := true } true md),
      (f3 0x90 6 4 0, ec 10 11 3 0 2 0 5 0, .copyMm 6 4 { x with cws := .cl } md),
      (f3 0x91 3 4 0, ec 10 11 0 0 1 0 5 1, .copyt ⟨3, 4, x, md⟩ false true),
      (f3 0x91 4 3 0, ec 10 11 1 0 1 0 5 0, .copyt ⟨3, 4, x, md⟩ true false),
      (f3 0x92 3 4 6, ec 10 11 0 0 1 0 5 0x8C, .gather ⟨3, 4, 6, x, 4, 12, md⟩),
      (f3 0x93 4 3 6, ec 10 11 0 0 1 0 5 0x21, .scatter ⟨3, 4, 6, x, 1, 1, md⟩),
      (f3 0x94 0 6 8, ecw 1 1 0x100, .cwinit ⟨6, 8, true, true, 0x100, md⟩),
      (f3 0x95 0 5 8, ecw 0 0 8, .cwadd ⟨5, 8, false, false, 8, md⟩),
      (f3 0x96 0 5 8, ecw 0 1 0x1FFFF8, .cwwait ⟨5, 8, false, true, 0x1FFFF8, md⟩),
      (f3 0x97 9 5 8, ecw 0 0 8, .cwtest 9 ⟨5, 8, false, false, 8, md⟩),
      (f3 0x98 3 5 0, ec 10 11 0 0 1 0 5 0, .copytag 3 5 false x md),
      (f3 0x98 4 5 0, ec 10 11 0 0 1 0 5 1, .copytag 4 5 true x md)] = true := by decide +kernel

/-- The matrix engine and the accumulator (R269 to R282). -/
theorem test_words_matrix :
    decodesAll [(f3 0xA0 0 3 0, (31#5 ++ 0#27).toNat, .berth 3 31 md), (f3 0xA1 0 3 0, 0, .unberth ⟨3, md⟩),
      (f3 0xA2 8 0 4 2, ea 16 0 10 0 10 0, .mmas ⟨8, 0, 4, 16, mr⟩ .bf16 .bf16),
      (f3 0xA2 8 0 4, ea 16 0 11 0 12 0, .mmas ⟨8, 0, 4, 16, md⟩ .e4m3 .e5m2), (f3 0xA3 0 4 0 4, 0, .mmax ⟨4, mg⟩),
      (f3 0xA4 0 5 6 4, (7#7 ++ 0#25).toNat, .accw 5 6 7 mg), (f3 0xA5 0 6 0, er 0 1 32, .accz ⟨6, true, 0⟩ 32 md),
      (f3 0xA6 7 6 0, er 4 1 0, .accld 7 ⟨6, true, 4⟩ md), (f3 0xA7 0 6 7, er 4 1 0, .accst ⟨6, true, 4⟩ 7 md),
      (f3 0xA8 10 6 12, er 0 1 (10#4 ++ 4#3 ++ 0#1 ++ 0#8), .accout 10 ⟨6, true, 0⟩ 12 .bf16 .rs false 0 md),
      (f3 0xA8 10 0 0, er 32767 0 (8#4 ++ 0#3 ++ 1#1 ++ 255#8),
        .accout 10 ⟨0, false, 32767⟩ 0 .f32 (.det .rne) true 255 md),
      (f3 0xA9 10 5 11, (1#2 ++ 0#1 ++ 0#29).toNat, .cvtb 10 5 11 1 false md),
      (f3 0xAA 9 0 0, 0, .accflg 9 md)] = true := by decide +kernel

/-- Chain (R293 to R296) and Ferry (R219, R224, R226). -/
theorem test_words_chain_and_ferry :
    decodesAll [(f3 0xB0 66 6 11, er 32 1 (12#6 ++ 0#10), .chain 2 ⟨6, true, 32⟩ 11 12 md),
      (f3 0xB1 65 0 11, er 0 0 0, .chapply 1 ⟨0, false, 0⟩ 11 md),
      (f3 0xB2 65 20 0, (0#1 ++ 0#20 ++ 0x7F0#11).toNat, .chld 1 20 (-16) md),
      (f3 0xB2 64 0 0, (1#1 ++ 0#20 ++ 0#11).toNat, .chldId 0 md),
      (f3 0xB3 71 14 0, (0#21 ++ 16#11).toNat, .chst 7 14 16 md),
      (f3 0xB8 0 3 0, (0#4 ++ 2#6 ++ 3#6 ++ 0#16).toNat, .slip 0 2 3 3 md), (f3 0xB9 0 2 0 4, 0, .slipcl ⟨2, mg⟩),
      (f3 0xBA 0 22 0 4, 0, .ferry ⟨22, mg⟩), (f3 0xBB 10 0 0, (15#4 ++ 0#28).toNat, .take 10 15 md),
      (f3 0xBC 0 10 0, (1#4 ++ 0#28).toNat, .land 1 10 md), (f3 0xBD 12 10 1 4, 0, .ltstat ⟨12, 10, 1, mg⟩),
      (f3 0xBE 0 10 0, 0, .ltfree ⟨10, md⟩)] = true := by decide +kernel

/-- Barriers, register rendezvous and launches (R128, R131, R132, R134). -/
theorem test_words_groups :
    decodesAll [(fs 0xC0 (0#2 ++ 1#1 ++ 1#1 ++ 7#6 ++ 33#6 ++ 4#5), 0, .barArrive ⟨true, true, 7, 33, 4, md⟩),
      (fs 0xC0 (1#2 ++ 0#1 ++ 0#1 ++ 7#6 ++ 15#6 ++ 0#5), 0, .barWait false 7 15 md),
      (fs 0xC0 (2#2 ++ 0#1 ++ 0#1 ++ 0#6 ++ 15#6 ++ 31#5), 0, .barSync ⟨false, false, 0, 15, 31, md⟩),
      (fs 0xC1 (3#2 ++ 0#1 ++ 0#1 ++ 7#6 ++ 15#6 ++ 0#5), 0, .barq 3 false 7 15 md),
      (fs 0xC2 (31#5 ++ 15#4 ++ 0#12), 0, .reggive 31 15 md), (fs 0xC3 (2#5 ++ 0#4 ++ 0#12), 0, .regtake 2 md),
      (f3 0xC4 4 2 3, 0, .launch ⟨4, 2, 3, md⟩)] = true := by decide +kernel

/-- System (R340, R342, R344 to R354). -/
theorem test_words_system :
    decodesAll [(fs 0xD0 (7#16 ++ 0#5), 0, .trap 7 md), (f3 0xD1 0 0 0, 0, .eret md),
      (fs 0xD2 (1#2 ++ 1#7 ++ 0x00D#12), 0, .sread (.s 1) .capsel md),
      (fs 0xD3 (0#2 ++ 5#7 ++ 0x010#12), 0, .swrite (.g 5) .lanepc md),
      (f3 0xD4 0 4 6, (2#2 ++ 3#2 ++ 3#2 ++ 15#4 ++ 0#22).toNat, .watch .ctx .rw .hbm 15 4 6 md),
      (fs 0xD5 (0#2 ++ 1#4 ++ 0#15), 0, .unwatch .lane 1 md), (fs 0xD6 (0xFFFF#16 ++ 0#5), 0, .dbrk 0xFFFF md),
      (f3 0xD7 0 0 0, (0#3 ++ 0#29).toNat, .ctxsaveAcc ⟨0, md⟩), (f3 0xD7 3 0 0, (1#3 ++ 0#29).toNat, .ctxsavePre ⟨3, md⟩),
      (f3 0xD7 3 0 0, (2#3 ++ 0#29).toNat, .ctxsaveSlice ⟨3, md⟩),
      (f3 0xD7 3 0 0, (3#3 ++ 0#29).toNat, .ctxsaveMig ⟨3, md⟩),
      (f3 0xD7 47 0 0, (4#3 ++ 0#29).toNat, .ctxsaveDump ⟨47, md⟩),
      (f3 0xD8 3 0 0, (0#3 ++ 0#29).toNat, .ctxloadAcc ⟨3, md⟩), (f3 0xD8 3 0 0, (1#3 ++ 0#29).toNat, .ctxloadImg ⟨3, md⟩),
      (f3 0xD9 0 2 3, (1#1 ++ 0#17 ++ 0x3FFF#14).toNat, .pilotset 2 true 3 0x3FFF md),
      (f3 0xDA 5 0 0, (0#1 ++ 0#17 ++ 0x100#14).toNat, .pilotget 5 0 false 0x100 md),
      (fs 0xDB (2#2 ++ 4#7 ++ 0#3 ++ 1#1 ++ 7#8), 0, .perfrd (.k 4) true .chainWork md),
      (f3 0xDC 0 20 0, 0x40, .sample 20 0x40 md), (f3 0xDD 0 0 0, 0, .haltt md), (f3 0xDE 0 0 0, 0, .resumet md),
      (f3 0xDF 0 0 0, (0#2 ++ 0#30).toNat, .tlbinvAll md), (f3 0xDF 0 6 0, (1#2 ++ 0#30).toNat, .tlbinvPage 6 md)] =
      true := by decide +kernel

/-- A reserved opcode is ILLEGAL_OPCODE and 0xFF is `udf` with any field values (R82, R84); predicate
selectors, scalar fields and codes out of range are ILLEGAL_OPERAND (R79, R81). -/
theorem test_words_refused :
    decodesAll [(f3 0xFF 1 2 3, 0, .udf (1#7 ++ 2#7 ++ 3#7 ++ 0#3))] = true ∧
      [(f3 0x0A 0 0 0, 0), (f3 0x70 0 0 0, 0)].all
        (fun x => match decodeWords x.1 x.2 with | .error .illegalOpcode => true | _ => false) = true ∧
      [(f3 0x52 64 0 0, 0), (f3 0x00 1 0 0, 0), (fs 0x48 (48#6 ++ 0#15), 0), (f3 0x60 0 0 0, ea 0 0 0 0 5 0),
       (f3 0x30 3 2 1, ea 0 0 8 4 0 0), (f3 0x80 0 0 0, em 0 3 0 0 1 0 0 0 0 0), (fs 0x88 (5#3 ++ 0#18), 0),
       (fs 0xC0 (3#2 ++ 0#19), 0), (fs 0xD2 (1#2 ++ 1#7 ++ 0x00F#12), 0), (f3 0xD7 0 0 0, 5 * 2 ^ 29)].all
        (fun x => match decodeWords x.1 x.2 with | .error .illegalOperand => true | _ => false) = true := by
  decide +kernel

/-! ### States for the tests -/

/-- A group of team 1 stands at the instruction's word (the helper of the model, after reset). -/
def at_ (i : Instr) : State :=
  State.reset.placeWords [BitVec.ofNat 32 (encode i).1, BitVec.ofNat 32 (encode i).2]

/-- Sets a g register in all lanes, an s register, a predicate in all lanes. -/
def putG (n : Nat) (v : Word) (s : State) : State :=
  s.modCg fun g => g.writes ((List.range 32).map fun l => { name := .g n, lane := l, val := v })
def putS (n : Nat) (v : Word) (s : State) : State :=
  s.modCg fun g => g.write { name := .s n, lane := 0, val := v }
def putP (n : Nat) (v : Word) (s : State) : State :=
  s.modCg fun g => g.writes ((List.range 32).map fun l => { name := .p n, lane := l, val := v })

/-- The conditions of `CanIssue`, evaluated. -/
def canIssueB (i : Instr) (s : State) : Bool :=
  (s.team? s.curTeam).isSome && (s.ct.group? s.curGroup).isSome && !s.cg.ended &&
    s.cg.lanes.length == 32 && withinBudget s.cg i && s.eccLanes i == 0

theorem canIssue_of {i : Instr} {s : State} (h : canIssueB i s = true) : CanIssue i s := by
  constructor <;> simp_all [canIssueB]

/-- What holds of 32 lanes holds of the lanes of a mask. -/
theorem lanes_of_all {m : Mask} {P : Nat → Prop} (h : ∀ l, l < 32 → m.getLsbD l = true → P l) :
    ∀ l, m.getLsbD l = true → P l := fun l hl => h l (lane_lt_of_active hl) hl

/-- The clause's word is a control-flow word in last place. -/
theorem atEnd_of {s : State} (h : (isControlFlow s.cl.op && decide (s.cl.words.length ≤ s.cl.nextSlot)) = true) :
    AtEnd s := by simpa [AtEnd] using h

/-- Changes the lanes of the group. -/
def mapLanes (f : Nat → Lane → Lane) (s : State) : State :=
  s.modCg fun g => { g with lanes := g.lanes.mapIdx f }

/-- The group stands at the clause's header, at offset 0. -/
def atHdr (i : Instr) : State :=
  mapLanes (fun _ x => { x with pc := 0 }) ((at_ i).modCg fun g => { g with clause := none })

/-- Every lane is PARKED with a trap of this code. -/
def parkedAll (code : Nat) (s : State) : State :=
  mapLanes (fun _ x => { x with st := .parked (.trapped
    { code := code, addr := 7, word := 9, pc := 4, decode := false }) })
    (s.modCg fun g => { g with clause := none, entry := some 0 })

/-- The conditions of `NothingEnds`, evaluated. -/
theorem nothingEnds_of {s : State} {t : Nat}
    (h : ((s.team t).groups.any fun g => !g.ended) && ((s.team t).groups.all fun g => !g.canEnd) = true) :
    NothingEnds s t := by
  simp only [Bool.and_eq_true, List.any_eq_true, List.all_eq_true, Bool.not_eq_true'] at h
  exact ⟨h.1, by simpa using h.2⟩

theorem ok_of_option {ε α : Type} {e : Except ε α} {a : α} (h : e.toOption = some a) : e = .ok a := by
  cases e <;> simp_all [Except.toOption]

/-- What a check answers, evaluated: the trap's code and address. -/
def errIs {α : Type} (c : Chk α) (e : Nat × Nat) : Bool := match c with | .error x => x == e | .ok _ => false

theorem error_of {α : Type} {c : Chk α} {e : Nat × Nat} (h : errIs c e = true) : c = .error e := by
  cases c with
  | error x => simpa [errIs] using h
  | ok a => simp [errIs] at h

theorem lanes_ok {m : Mask} {c : Nat → Chk Place} {pl : Nat → Place}
    (h : ∀ l, l < 32 → m.getLsbD l = true → (c l).toOption = some (pl l)) :
    ∀ l, m.getLsbD l = true → c l = .ok (pl l) := fun l hl => ok_of_option (h l (lane_lt_of_active hl) hl)

theorem alive_of {s : State} {k : Nat}
    (h : ((s.team k).groups.any (fun g => !g.ended) &&
      (s.team k).groups.all fun g => !(g.lane 0).st.isExited) = true) : Alive s k := by
  simp only [Bool.and_eq_true, List.any_eq_true, List.all_eq_true, Bool.not_eq_true'] at h
  exact ⟨h.1, fun g hg => .inr ⟨0, by decide, h.2 g hg⟩⟩

/-- Lane 0 alone issues. -/
def oneLane (s : State) : State :=
  s.modCg fun g => { g with clause := g.clause.map fun c => { c with issue := 1, guard := 1 } }

/-- The team has two groups, the second with a budget of 64. -/
def twoGroups (s : State) : State :=
  s.modCt fun t => { t with groups := t.groups ++ [Group.placed 1 0 1 0 1 64 0 256] }

/-- What a word needs that is held back by nothing. -/
def freeAt (i : Instr) (s : State) : Prop := CanIssue i s ∧ s.accessHeld s.curTeam s.curGroup (s.active i) = false

theorem freeAt_of {i : Instr} {s : State}
    (h : (canIssueB i s && !s.accessHeld s.curTeam s.curGroup (s.active i)) = true) : freeAt i s := by
  simp only [Bool.and_eq_true, Bool.not_eq_true'] at h
  exact ⟨canIssue_of h.1, h.2⟩

/-- In the supervisor's handler of a trap in lanes 0 to 15. -/
def handling (i : Instr) : State :=
  (at_ i).modCg fun g =>
    { g with frames := [{ sup := true, nested := false, entry := none, regs := none, enrolled := [],
                          lanes := g.lanes.mapIdx fun l x => if l < 16 then { x with st := .parked (.trapped
                            { code := 3, addr := 0, word := 0, pc := 4, decode := false }) } else x }]
             trapRegs := { TrapRegs.zero with code := 3, flt := 0xFFFF } }

/-! ### Hypotheses met: integers, predicates, scalars, floating point, lanes -/

theorem untrapped {g : Group} {fl : Nat} (h : g.fpflags = 0) : ¬ meetsEnable g fl := by
  simp [meetsEnable, h]

theorem test_met_IntegerResults :
    (∃ i d f s, integerResult i = some (d, f) ∧ CanIssue i s) ∧
      ∀ minus : Bool, ∃ (o : OpDAB) (s : State),
        CanIssue (if minus then .sub64 o else .add64 o) s := by
  refine ⟨⟨.add ⟨127, 2, 1, md⟩, _, _, at_ (.add ⟨127, 2, 1, md⟩), rfl, canIssue_of (by decide +kernel)⟩, ?_⟩
  intro minus
  cases minus
  · exact ⟨⟨126, 2, 4, md⟩, at_ (.add64 ⟨126, 2, 4, md⟩), canIssue_of (by decide +kernel)⟩
  · exact ⟨⟨126, 2, 4, md⟩, at_ (.sub64 ⟨126, 2, 4, md⟩), canIssue_of (by decide +kernel)⟩

theorem test_met_UniformAndPredicateResults :
    (∃ i p f s, predicateResult s i = some (p, f) ∧ CanIssue i s ∧ p = 0) ∧
    (∃ i p f s, predicateResult s i = some (p, f) ∧ CanIssue i s ∧ p ≠ 0) ∧
    (∃ i d f s, scalarResult i = some (d, f) ∧ CanIssue i s ∧ s.active i = 0) ∧
    (∃ i d f s, scalarResult i = some (d, f) ∧ CanIssue i s ∧ s.active i ≠ 0) ∧
    (∃ d a m s, CanIssue (.s2g d a m) s) := by
  let i : Instr := .pand ⟨0, 1, 2, false, true, md⟩
  let j : Instr := .pand ⟨47, 1, 2, false, true, md⟩
  let k : Instr := .sadd ⟨63, 2, 1, mg⟩
  let s := (at_ k).modCg fun g => { g with clause := g.clause.map fun c => { c with guard := 0 } }
  refine ⟨⟨i, _, _, at_ i, rfl, canIssue_of (by decide +kernel), rfl⟩,
    ⟨j, _, _, at_ j, rfl, canIssue_of (by decide +kernel), by decide⟩,
    ⟨k, _, _, s, rfl, canIssue_of (by decide +kernel), by decide +kernel⟩,
    ⟨k, _, _, at_ k, rfl, canIssue_of (by decide +kernel), by decide +kernel⟩,
    ⟨127, 63, md, at_ (.s2g 127 63 md), canIssue_of (by decide +kernel)⟩⟩

theorem test_met_FloatResults :
    (∃ i d f s, floatResult i = some (d, f) ∧ CanIssue i s ∧
      ∀ l, (s.active i).getLsbD l = true → ¬ meetsEnable s.cg (f s.cg l).2) ∧
    (∃ (p : BitVec 6) (s : State), CanIssue (.fsetp p 2 1 .num md) s ∧ p ≠ 0 ∧
      ∀ fl, ¬ meetsEnable s.cg fl) := by
  let i : Instr := .fadd ⟨127, 2, 1, .rne, md⟩
  refine ⟨⟨i, _, _, at_ i, rfl, canIssue_of (by decide +kernel), fun l _ => untrapped (by decide +kernel)⟩,
    ⟨47, at_ (.fsetp 47 2 1 .num md), canIssue_of (by decide +kernel), by decide,
      fun fl => untrapped (by decide +kernel)⟩⟩

/-- Infinities of opposite signs, with the invalid trap enabled. -/
def trapping : State :=
  ((putG 1 0xFF800000 (putG 2 0x7F800000 (at_ (.fadd ⟨3, 2, 1, .rne, md⟩)))).modCg fun g =>
    { g with fpflags := 0x100 })

theorem test_met_FloatTraps :
    ∃ i d f s, floatResult i = some (d, f) ∧ CanIssue i s ∧ s.cg.inSup = false ∧
      ∃ l, (s.active i).getLsbD l = true ∧ meetsEnable s.cg (f s.cg l).2 := by
  refine ⟨.fadd ⟨3, 2, 1, .rne, md⟩, _, _, trapping, rfl, canIssue_of (by decide +kernel), by decide +kernel,
    31, by decide +kernel, ?_⟩
  unfold meetsEnable
  decide +kernel

theorem test_met_SignInstructions :
    (∀ neg : Bool, ∃ (o : OpDA) (s : State), CanIssue (if neg then .fneg o else .fabs o) s) ∧
      ∃ w : Nat, w < 2 ^ 32 ∧ (w / 2 ^ 24 = 0x36 ∨ w / 2 ^ 24 = 0x37) ∧ w / 2 ^ 3 % 2 ^ 7 ≠ 0 := by
  refine ⟨fun neg => ?_, 0x37FFFFFF, by decide, by decide, by decide⟩
  cases neg
  · exact ⟨⟨127, 2, md⟩, at_ (.fabs ⟨127, 2, md⟩), canIssue_of (by decide +kernel)⟩
  · exact ⟨⟨127, 2, md⟩, at_ (.fneg ⟨127, 2, md⟩), canIssue_of (by decide +kernel)⟩

theorem test_met_ClassMask : ∃ (o : OpDA) (t : FTy) (s : State), CanIssue (.fclass o t) s :=
  ⟨⟨127, 2, md⟩, .e4m3, at_ (.fclass ⟨127, 2, md⟩ .e4m3), canIssue_of (by decide +kernel)⟩

theorem test_met_LongFloatResults :
    (∃ i o f s, unaryResult i = some (o, f) ∧ CanIssue i s ∧
      ∀ l, (s.active i).getLsbD l = true → ¬ meetsEnable s.cg (f o.rm (s.cg.rg o.a l).toNat).2) ∧
    (∃ i x v, specialResult i x = some (v, true)) ∧ (∃ i x v, specialResult i x = some (v, false)) ∧
    (isNaN32 0x7FC00000 ∧ ¬ signals32 0x7FC00000 ∧ signals32 0xFF800001 ∧ below0 0x80000001 ∧ below0 0xFF7FFFFF) := by
  let i : Instr := .rcp ⟨127, 2, .ru, md⟩
  refine ⟨⟨i, _, _, at_ i, rfl, canIssue_of (by decide +kernel), fun l _ => untrapped (by decide +kernel)⟩,
    ⟨.sqrt ⟨0, 0, .rne, md⟩, 0xFF800000, _, rfl⟩, ⟨.log2 ⟨0, 0, .rne, md⟩, 0x3F800000, _, rfl⟩, ?_⟩
  unfold signals32 isNaN32 below0; decide

/-- R114 where the exact value is one of FP32: 1/4, 1/√4 and √4; 2^-149, the least subnormal; log₂ 8. -/
theorem test_met_ExactValues :
    (finite32 0x40800000 ∧ finite32 0x3E800000 ∧ units 0x40800000 * units 0x3E800000 = 2 ^ 298) ∧
    (units 0x3F000000 * units 0x3F000000 * units 0x40800000 = 2 ^ 447) ∧
    (units 0x40000000 * units 0x40000000 = units 0x40800000 * 2 ^ 149 ∧ units 0x40000000 ≠ 0) ∧
    (finite32 0xC3150000 ∧ finite32 1 ∧ units 0xC3150000 = -149 * 2 ^ 149 ∧ units 1 = 2 ^ 0) ∧
    (finite32 0x41000000 ∧ finite32 0x40400000 ∧ units 0x41000000 = 2 ^ 152 ∧
      units 0x40400000 = ((152 : Nat) - 149) * 2 ^ 149) := by
  unfold finite32; decide +kernel

/-- 1 + 2 = 3, 3 - 2 = 1, 2 * 3 = 6 and 2 * 3 + 1 = 7; the integers that 2.5 and -2.5 round to. -/
theorem test_met_ExactSums :
    (∀ z ∈ [0x3F800000, 0x40000000, 0x40400000, 0x40C00000, 0x40E00000], patternOf .f32 z ∧ unitsIn .f32 z ≠ 0) ∧
    (unitsIn .f32 0x3F800000 + unitsIn .f32 0x40000000 = unitsIn .f32 0x40400000 ∧
      unitsIn .f32 0x40400000 - unitsIn .f32 0x40000000 = unitsIn .f32 0x3F800000 ∧
      unitsIn .f32 0x40000000 * unitsIn .f32 0x40400000 = unitsIn .f32 0x40C00000 * 2 ^ 149 ∧
      unitsIn .f32 0x40000000 * unitsIn .f32 0x40400000 + unitsIn .f32 0x3F800000 * 2 ^ 149 =
        unitsIn .f32 0x40E00000 * 2 ^ 149) ∧
    (patternOf .e4m3 0x7E ∧ patternOf .e5m2 0xFB ∧ unitsIn .e4m3 0x7E = 448 * 2 ^ 149 ∧
      unitsIn .e5m2 0xFB = -57344 * 2 ^ 149 ∧ unitsIn .f32 0x43E00000 = unitsIn .e4m3 0x7E) ∧
    (finite32 0xFF7FFFFF ∧ finite32 0x7F7FFFFF ∧ units 0xFF7FFFFF < units 0x7F7FFFFF) ∧
    (∀ x ∈ [(Rm.rne, 2), (.rz, 2), (.rd, 2), (.ru, 3)], roundsTo x.1 (units 0x40200000) x.2) ∧
    (∀ x ∈ [(Rm.rne, -2), (.rz, -2), (.rd, -3), (.ru, -2)], roundsTo x.1 (units 0xC0200000) x.2) ∧
    (∀ t ∈ [CvtTy.i32, .w32, .i16, .w16, .i8, .w8], (intRange t).isSome = true) := by
  simp only [List.forall_mem_cons, List.not_mem_nil, false_implies, implies_true, and_true]
  unfold patternOf finiteIn finite32 roundsTo; dsimp only
  refine ⟨?_, ?_, ?_, ?_, ?_, ?_, ?_⟩ <;> decide +kernel

theorem test_met_LanesAndDraws :
    (∃ (o : OpDAB) (p : BitVec 6) (s : State) (l k : Nat),
      CanIssue (.shfl o p .rot true 31) s ∧ (s.active (.shfl o p .rot true 31)).getLsbD l = true ∧ p ≠ 0 ∧
      sourceLane .rot l 31 = some k ∧ (s.active (.shfl o p .rot true 31)).getLsbD k = true) ∧
    (∃ (o : OpDAB) (s : State) (l : Nat),
      CanIssue (.shfl o 0 .back true 31) s ∧ (s.active (.shfl o 0 .back true 31)).getLsbD l = true ∧
      sourceLane .back l 31 = none) ∧
    (∃ (o : OpDA) (s : State), CanIssue (.redux o .add .f32 .rz) s ∧ ∀ fl, ¬ meetsEnable s.cg fl) ∧
    (∃ (o : OpDA) (s : State), CanIssue (.prfx o .min .i32 .rne true) s ∧ ∀ fl, ¬ meetsEnable s.cg fl) ∧
    (∃ i o f s, randomResult i = some (o, f) ∧ CanIssue i s) := by
  let o : OpDAB := ⟨127, 2, 0, md⟩
  refine ⟨⟨o, 47, at_ (.shfl o 47 .rot true 31), 31, 30, canIssue_of (by decide +kernel), by decide +kernel,
      by decide, by decide, by decide +kernel⟩,
    ⟨o, at_ (.shfl o 0 .back true 31), 30, canIssue_of (by decide +kernel), by decide +kernel, by decide⟩,
    ⟨⟨127, 2, md⟩, at_ (.redux ⟨127, 2, md⟩ .add .f32 .rz), canIssue_of (by decide +kernel),
      fun _ => untrapped (by decide +kernel)⟩,
    ⟨⟨127, 2, md⟩, at_ (.prfx ⟨127, 2, md⟩ .min .i32 .rne true), canIssue_of (by decide +kernel),
      fun _ => untrapped (by decide +kernel)⟩,
    ⟨.rng ⟨127, 2, 1, md⟩ .w16, _, _, at_ (.rng ⟨127, 2, 1, md⟩ .w16), rfl, canIssue_of (by decide +kernel)⟩⟩

/-! ### Hypotheses met: control flow, clauses, waits -/

theorem test_met_Branches :
    (∃ i target push s, branchTarget s i = some (target, push) ∧ CanIssue i s ∧ AtEnd s ∧ push = true ∧
      ∀ l, (s.active i).getLsbD l = true → (target l).toNat % 4 = 0 ∧ 1 ≤ (s.cg.lane l).lsp.toNat) ∧
    (∃ i target s, branchTarget s i = some (target, false) ∧ CanIssue i s ∧ AtEnd s ∧
      ∀ l, (s.active i).getLsbD l = true → (target l).toNat % 4 = 0) ∧
    (∃ m s, CanIssue (.ret m) s ∧ AtEnd s ∧ s.active (.ret m) ≠ 0 ∧
      ∀ l, (s.active (.ret m)).getLsbD l = true → 4 * (s.cg.lane l).lsp.toNat + 4 ≤ s.ct.spill ∧
        s.skEcc s.ct s.cg l (4 * (s.cg.lane l).lsp.toNat) 4 = false ∧ s.cg.spill.readLe (spillKey l (4 * (s.cg.lane l).lsp.toNat)) 4 % 4 = 0) ∧
    (∃ m s, CanIssue (.ret m) s ∧ AtEnd s ∧ s.cg.inSup = false ∧ s.active (.ret m) ≠ 0 ∧
      ∀ l, (s.active (.ret m)).getLsbD l = true → s.ct.spill < 4 * (s.cg.lane l).lsp.toNat + 4) ∧
    (∃ m s, CanIssue (.ret m) s ∧ AtEnd s ∧ s.cg.inSup = false ∧ s.active (.ret m) ≠ 0 ∧
      ∀ l, (s.active (.ret m)).getLsbD l = true → 4 * (s.cg.lane l).lsp.toNat + 4 ≤ s.ct.spill ∧
        s.skEcc s.ct s.cg l (4 * (s.cg.lane l).lsp.toNat) 4 = true) := by
  let last := mapLanes (fun _ x => { x with lsp := 1 }) (at_ (.call (-1) md))
  let popped := mapLanes (fun _ x => { x with lsp := 63 }) (at_ (.ret md))
  refine ⟨⟨.call (-1) md, _, _, last, rfl, canIssue_of (by decide +kernel), atEnd_of (by decide +kernel), rfl, ?_⟩,
    ⟨.brx ⟨5, md⟩, _, at_ (.brx ⟨5, md⟩), rfl, canIssue_of (by decide +kernel), atEnd_of (by decide +kernel), ?_⟩,
    ⟨md, popped, canIssue_of (by decide +kernel), atEnd_of (by decide +kernel), by decide +kernel, ?_⟩,
    ⟨md, at_ (.ret md), canIssue_of (by decide +kernel), atEnd_of (by decide +kernel), by decide +kernel,
      by decide +kernel, ?_⟩,
    ⟨md, { popped with eccSk := (List.range 32).map fun l => (1, 0, 16384 * l + 63) }, canIssue_of (by decide +kernel),
      atEnd_of (by decide +kernel), by decide +kernel, by decide +kernel, ?_⟩⟩ <;> exact lanes_of_all (by decide +kernel)

theorem test_met_RaisedTraps :
    (∃ (o : OpA) (s : State), CanIssue (.brx o) s ∧ AtEnd s ∧ s.cg.inSup = false ∧
      (∃ l, (s.active (.brx o)).getLsbD l = true ∧ (s.cg.rg o.a l).toNat % 4 = 3) ∧
      ∃ l, (s.active (.brx o)).getLsbD l = true ∧ (s.cg.rg o.a l).toNat % 4 = 0) ∧
    (∃ (m : Mods) (s : State), CanIssue (.call 1 m) s ∧ AtEnd s ∧ s.cg.inSup = false ∧
      (∃ l, (s.active (.call 1 m)).getLsbD l = true ∧ (s.cg.lane l).lsp.toNat = 0) ∧
      (∃ l, (s.active (.call 1 m)).getLsbD l = true ∧ s.ct.spill < 4 * (s.cg.lane l).lsp.toNat) ∧
      ∃ l, (s.active (.call 1 m)).getLsbD l = true ∧ 4 * (s.cg.lane l).lsp.toNat = s.ct.spill) ∧
    (∃ (m : Mods) (s : State), CanIssue (.ret m) s ∧ AtEnd s ∧ s.cg.inSup = false ∧ s.active (.ret m) ≠ 0 ∧
      ∀ l, (s.active (.ret m)).getLsbD l = true → 4 * (s.cg.lane l).lsp.toNat + 4 ≤ s.ct.spill ∧
        s.skEcc s.ct s.cg l (4 * (s.cg.lane l).lsp.toNat) 4 = false ∧
        s.cg.spill.readLe (spillKey l (4 * (s.cg.lane l).lsp.toNat)) 4 % 4 ≠ 0) ∧
    (∃ (u : BitVec 24) (s : State), CanIssue (.udf u) s ∧ s.cg.inSup = false) ∧
    (∃ (i : Instr) (d : BitVec 7) (f : Group → Nat → Word) (s : State), integerResult i = some (d, f) ∧
      canIssueB i { s with eccRegs := [] } = true ∧ s.cg.inSup = false ∧ s.eccLanes i = 0x80000000 ∧
      s.active i = fullMask) ∧
    ∀ brk : Bool, ∃ (imm : BitVec 16) (s : State),
      let i : Instr := if brk then .dbrk imm md else .trap imm md
      CanIssue i s ∧ s.cg.inSup = false ∧ isControlFlow s.cl.op = false ∧ s.active i ≠ 0 := by
  let s := (at_ (.brx ⟨5, md⟩)).modCg fun g => g.write { name := .g 5, lane := 31, val := 3 }
  let pushing := mapLanes (fun l x => { x with lsp := if l = 0 then 0 else if l = 1 then 65 else 64 }) (at_ (.call 1 md))
  let odd := oneLane ((mapLanes (fun _ x => { x with lsp := 63 }) (at_ (.ret md))).modCg fun g => g.skPuts 0 252 [2])
  refine ⟨⟨⟨5, md⟩, s, canIssue_of (by decide +kernel), atEnd_of (by decide +kernel), by decide +kernel,
      ⟨31, by decide +kernel, by decide +kernel⟩, 0, by decide +kernel, by decide +kernel⟩,
    ⟨md, pushing, canIssue_of (by decide +kernel), atEnd_of (by decide +kernel), by decide +kernel,
      ⟨0, by decide +kernel, by decide +kernel⟩, ⟨1, by decide +kernel, by decide +kernel⟩, 2, by decide +kernel,
      by decide +kernel⟩,
    ⟨md, odd, canIssue_of (by decide +kernel), atEnd_of (by decide +kernel), by decide +kernel, by decide +kernel,
      lanes_of_all (by decide +kernel)⟩,
    ⟨0xFFFFFF, at_ (.udf 0xFFFFFF), canIssue_of (by decide +kernel), by decide +kernel⟩,
    ⟨.mov ⟨4, 5, md⟩, 4, _, { at_ (.mov ⟨4, 5, md⟩) with eccRegs := [(1, 0, 5, 31)] }, rfl, by decide +kernel,
      by decide +kernel, by decide +kernel, by decide +kernel⟩, fun brk => ?_⟩
  cases brk
  · exact ⟨0xFFFF, at_ (.trap 0xFFFF md), canIssue_of (by decide +kernel), by decide +kernel, by decide +kernel,
      by decide +kernel⟩
  · exact ⟨0xFFFF, at_ (.dbrk 0xFFFF md), canIssue_of (by decide +kernel), by decide +kernel, by decide +kernel,
      by decide +kernel⟩

theorem test_met_Enrol :
    (∃ j off m s, CanIssue (.enrol j off m) s ∧ (s.cg.slotJ j.toNat).members = 0) ∧
    (∃ j off m s, CanIssue (.enrol j off m) s ∧ (s.cg.slotJ j.toNat).members ≠ 0 ∧
      (s.cg.slotJ j.toNat).target = labelOf s off) ∧
    (∃ j off m s, CanIssue (.enrol j off m) s ∧ s.cg.inSup = false ∧ (s.cg.slotJ j.toNat).members ≠ 0 ∧
      (s.cg.slotJ j.toNat).target ≠ labelOf s off) := by
  let i : Instr := .enrol 7 (-1) md
  let s := (at_ i).modCg fun g => g.setSlotJ 7 { members := 2, arrived := 0, target := 0 }
  let u := (at_ i).modCg fun g => g.setSlotJ 7 { members := 2, arrived := 0, target := 4 }
  exact ⟨⟨7, -1, md, at_ i, canIssue_of (by decide +kernel), by decide +kernel⟩,
    ⟨7, -1, md, s, canIssue_of (by decide +kernel), by decide +kernel, by decide +kernel⟩,
    ⟨7, -1, md, u, canIssue_of (by decide +kernel), by decide +kernel, by decide +kernel, by decide +kernel⟩⟩

/-- `rejoin j7` at a slot with these members and target; half of the lanes issue, the others are REJOIN. -/
def joining (members : Mask) (target : Word) : State :=
  (mapLanes (fun l x => if 16 ≤ l then { x with st := .rejoin 7 } else x) (at_ (.rejoin 7 md))).modCg fun g =>
    { g.setSlotJ 7 { members := members, arrived := 0xFFFF0000, target := target } with
      clause := g.clause.map fun c => { c with issue := 0xFFFF, guard := 0xFFFF } }

theorem test_met_Convergence :
    (∃ m s, CanIssue (.nop m) s) ∧
    (∃ m s, CanIssue (.yield m) s ∧ AtEnd s ∧ s.active (.yield m) ≠ 0 ∧
      ∃ l, (s.cg.lane l).st = .ready ∧ l < 32 ∧ s.cl.issue.getLsbD l = false) ∧
    (∀ members target, (members, target) ∈ [(0xFFFF0000#32, 0#32), (0xFFFF0001, 4), (0xFFFF8001, 0)] →
      CanIssue (.rejoin 7 md) (joining members target) ∧ AtEnd (joining members target) ∧
        (joining members target).cg.inSup = false) ∧
    ((joining 0xFFFF0000 0).active (.rejoin 7 md) &&& ((joining 0xFFFF0000 0).cg.slotJ 7).members = 0 ∧
      ((joining 0xFFFF0001 4).cg.slotJ 7).target ≠ (joining 0xFFFF0001 4).cl.hdr ∧
      missing 0xFFFF8001 (0xFFFF0000 ||| 1) ≠ 0 ∧ missing 0xFFFF8001 0xFFFF8001 = 0) ∧
    (∃ m s, CanIssue (.exit m) s ∧ AtEnd s ∧ s.cg.frames = [] ∧
      (∃ l, l < 32 ∧ (s.active (.exit m)).getLsbD l = false ∧ (s.cg.lane l).st.isExited = false) ∧
      ∀ g ∈ s.ct.groups, g.index ≠ s.curGroup → g.canEnd = false) := by
  let y := (at_ (.yield md)).modCg fun g => { g with clause := g.clause.map fun c => { c with issue := 1, guard := 1 } }
  let e := (at_ (.exit md)).modCg fun g => { g with clause := g.clause.map fun c => { c with issue := 1, guard := 1 } }
  refine ⟨⟨md, at_ (.nop md), canIssue_of (by decide +kernel)⟩,
    ⟨md, y, canIssue_of (by decide +kernel), atEnd_of (by decide +kernel), by decide +kernel, 31, by decide +kernel⟩,
    ?_, by decide +kernel,
    ⟨md, e, canIssue_of (by decide +kernel), atEnd_of (by decide +kernel), by decide +kernel, ⟨31, by decide +kernel⟩,
      by decide +kernel⟩⟩
  intro members target h
  simp only [List.mem_cons, Prod.mk.injEq, List.not_mem_nil, or_false] at h
  rcases h with ⟨rfl, rfl⟩ | ⟨rfl, rfl⟩ | ⟨rfl, rfl⟩ <;>
    exact ⟨canIssue_of (by decide +kernel), atEnd_of (by decide +kernel), by decide +kernel⟩

/-- The last lanes of the group exit, beside another group that goes on. -/
def lastExit (s : State) : Prop :=
  CanIssue (.exit md) s ∧ AtEnd s ∧ lastLanes s (s.active (.exit md)) ∧ resultsBack s.cg ∧ othersGoOn s

/-- The conditions of `lastExit`, evaluated. -/
theorem lastExit_of {s : State}
    (h : (canIssueB (.exit md) s && (isControlFlow s.cl.op && decide (s.cl.words.length ≤ s.cl.nextSlot)) &&
      (List.range 32).all (fun l => (s.active (.exit md)).getLsbD l || (s.cg.lane l).st.isExited) &&
      s.cg.pending.isEmpty &&
      s.ct.groups.all (fun g => g.index == s.curGroup || (!g.canEnd && g.park != .rendezvous))) = true) : lastExit s := by
  simp only [Bool.and_eq_true, List.all_eq_true, List.isEmpty_iff, and_assoc] at h
  obtain ⟨h1, h2, hs, h3, h4, h5⟩ := h
  refine ⟨canIssue_of h1, atEnd_of (by simp [h2, hs]), fun l hl => ?_, fun r hr => ?_, fun g hg hi => ?_⟩
  · simpa using h3 l (List.mem_range.mpr hl)
  · rw [h4] at hr; simp at hr
  · have h := h5 g hg
    simp only [Bool.or_eq_true, beq_iff_eq, hi, false_or, Bool.and_eq_true, Bool.not_eq_true', bne_iff_ne] at h
    exact h

/-- In a handler that has enrolled lanes 0 and 1 in slot 7, lane 1 waits there and lane 0 exits. -/
def leavingHandler : State :=
  let s := twoGroups (oneLane (handling (.exit md)))
  (mapLanes (fun l x => if l = 1 then { x with st := .rejoin 7 } else x) s).modCg fun g =>
    (g.setOwn 7 3).setSlotJ 7 { members := 3, arrived := 2, target := 0 }

/-- The handler's lanes exit, and a result is on its way. -/
def handlerEnds (r : List PendRes) : State :=
  (twoGroups (handling (.exit md))).modCg fun g => { g with pending := r }

theorem test_met_HandlerExit :
    (let s := leavingHandler
     ∃ f rest, CanIssue (.exit md) s ∧ AtEnd s ∧ s.cg.frames = f :: rest ∧ ¬ lastLanes s (s.active (.exit md)) ∧
       othersGoOn s ∧ tget 0 f.enrolled 7 = 3 ∧ (s.cg.slotJ 7).members &&& ~~~(1 &&& 3) ≠ 0 ∧
       missing ((s.cg.slotJ 7).members &&& ~~~(1 &&& 3)) (s.cg.slotJ 7).arrived = 0 ∧ (s.cg.lane 1).st = .rejoin 7 ∧
       (s.cg.slotJ 6).members = 0) ∧
    (let s := handlerEnds []
     lastExit s ∧ s.cg.frames ≠ [] ∧ (∃ g ∈ s.ct.groups, g.index ≠ s.curGroup ∧ g.ended = false) ∧ s.ct.stop = .none) ∧
    (let s := handlerEnds [{ id := 5, seq := 0, live := [(.g 3, 1)], need := 1, vals := [], landed := false, loads := true,
                             atomic := false, acquire := false }]
     CanIssue (.exit md) s ∧ AtEnd s ∧ s.cg.frames ≠ [] ∧ lastLanes s (s.active (.exit md)) ∧ ¬ resultsBack s.cg) := by
  refine ⟨⟨_, _, canIssue_of (by decide +kernel), atEnd_of (by decide +kernel), rfl, fun h => ?_, ?_, by decide +kernel,
      by decide +kernel, by decide +kernel, by decide +kernel, by decide +kernel⟩,
    ⟨lastExit_of (by decide +kernel), by decide +kernel, by decide +kernel, by decide +kernel⟩,
    ⟨canIssue_of (by decide +kernel), atEnd_of (by decide +kernel), by decide +kernel,
      fun l hl => .inl ?_, fun h => ?_⟩⟩
  · exact absurd (h 31 (by decide)) (by decide +kernel)
  · unfold othersGoOn; decide +kernel
  · revert l; decide +kernel
  · exact absurd (h _ (List.mem_singleton.mpr rfl)) (by decide)

/-- The last lanes of the first of two groups exit with this queue, the second stands at barrier 0 or not, and
one of its results is on its way. -/
def leavingTeam (q : List QItem) (booked : Nat) : State :=
  ((twoGroups (at_ (.exit md))).modCg fun g => { g with queue := q }).modCt fun t =>
    { t with
      groups := t.groups.map fun g => if g.index = 1 ∧ booked = 1 then
        { g with lanes := g.lanes.map fun x => { x with st := .barrier 0 0 } } else g
      barriers := [(0, { Barrier.reset with cur := { arrived := 2, booked := booked, expected := 0 } })] }
def oneEntry : List QItem := [.entry [{ lane := 0, loc := { team := 1, addr := 64 }, bytes := [1, 2, 3, 4] }]]

theorem test_met_GroupEnds :
    (∀ q ∈ [oneEntry, oneEntry ++ [.arrival 3 0]],
      let s := leavingTeam q 0
      lastExit s ∧ s.cg.frames = [] ∧ 2 ≤ s.ct.live ∧ (s.ct.groups.map (·.index)).Nodup ∧ s.ct.records = [] ∧
        (s.ct.barrier 0).cur.booked = 0 ∧ ((∃ ws, s.cg.queue.getLast? = some (.entry ws)) ↔ q = oneEntry)) ∧
    (let s := leavingTeam [] 1
     lastExit s ∧ s.cg.frames = [] ∧ 2 ≤ s.ct.live ∧ (s.ct.groups.map (·.index)).Nodup ∧ s.ct.records = [] ∧
       (s.ct.barrier 0).closing = false ∧ (s.ct.barrier 0).cur.booked = 1 ∧ s.ct.live ≤ 2 ∧
       (s.ct.barrier 0).nxt.booked = 0 ∧ (∀ g ∈ s.ct.groups, g.queue = []) ∧ s.net = [] ∧
       (s.ctxFunc s.ct.ctx).tracectl.getLsbD 1 = false ∧ ((s.ct.group 1).lane 31).st = .barrier 0 0) := by
  refine ⟨fun q hq => ?_, lastExit_of (by decide +kernel), by decide +kernel⟩
  simp only [List.mem_cons, List.not_mem_nil, or_false] at hq
  rcases hq with rfl | rfl
  · exact ⟨lastExit_of (by decide +kernel), by decide +kernel, by decide +kernel, by decide +kernel, by decide +kernel,
      by decide +kernel, fun _ => rfl,
      fun _ => ⟨[{ lane := 0, loc := { team := 1, addr := 64 }, bytes := [1, 2, 3, 4] }], by decide +kernel⟩⟩
  · refine ⟨lastExit_of (by decide +kernel), by decide +kernel, by decide +kernel, by decide +kernel, by decide +kernel,
      by decide +kernel, fun ⟨ws, h⟩ => ?_, fun h => absurd h (by decide)⟩
    have : (some (QItem.arrival 3 0) : Option QItem) = some (.entry ws) := Eq.trans (by decide +kernel) h
    cases this

/-- The last group of a team ends; another that has ended has left a queue. -/
def lastOfTeam (q : List QItem) : State :=
  ((twoGroups (at_ (.exit md))).modCg fun g => { g with queue := q }).modCt fun t =>
    { t with groups := t.groups.map fun g => if g.index = 1 then { g with ended := true, queue := oneEntry } else g }

theorem test_met_LastGroupCommits :
    ∀ q ∈ [oneEntry, oneEntry ++ [.arrival 3 0]],
      let s := lastOfTeam q
      lastExit s ∧ s.cg.frames = [] ∧ (∀ y ∈ s.ct.groups, y.index < 32 ∧ (y.index ≠ s.curGroup → y.ended = true)) ∧
        (s.ct.barrier 0).cur.booked = 0 ∧ s.ct.records = [] ∧
        (threadWrites (s.ct.group 1).queue).map (·.loc) = [{ team := 1, addr := 64 }] := by
  intro q hq
  simp only [List.mem_cons, List.not_mem_nil, or_false] at hq
  rcases hq with rfl | rfl <;>
    exact ⟨lastExit_of (by decide +kernel), by decide +kernel, by decide +kernel, by decide +kernel, by decide +kernel,
      by decide +kernel⟩

/-- The only team of a grid that has these many to end and this completion word. -/
def endingTeam (unended : Nat) (cw : DWord) : State :=
  { at_ (.exit md) with
    grids := [{ serial := (at_ (.exit md)).ct.grid, ctx := 1, queue := 0, entered := 0,
                record := { parseRecord [] with cw := cw }, placed := unended, unended := unended, left := true,
                waited := 0, replay := none, follows := none, replayRecs := [] }] }

theorem test_met_TeamEnds :
    ∀ x ∈ [(2, 0), (1, 0), (1, (0x100008 : DWord))],
      let s := endingTeam x.1 x.2
      lastExit s ∧ s.cg.frames = [] ∧ (∀ y ∈ s.ct.groups, y.queue = [] ∧ y.chprog = none ∧
          (y.index ≠ s.curGroup → y.ended = true)) ∧ s.copies = [] ∧ s.mmaxs = [] ∧ s.lands = [] ∧
        (s.core s.ct.core).landing = [] ∧ s.net = [] ∧ s.ct.records = [] ∧ s.ct.peloton = false ∧
        (s.ctxFunc s.ct.ctx).tracectl = 0 ∧
        (∃ g, s.grid? s.ct.grid = some g ∧ g.replayRecs = [] ∧ g.unended = x.1 ∧ g.record.cw = x.2) ∧
        (∀ y ∈ s.grids, y.follows ≠ some (s.ct.grid, s.ct.linear)) ∧
        (match s.ptrWalk 1 x.2.toNat .wr with | .page _ => true | _ => false) = true := by
  intro x hx
  simp only [List.mem_cons, List.not_mem_nil, or_false] at hx
  rcases hx with rfl | rfl | rfl <;>
    exact ⟨lastExit_of (by decide +kernel), by decide +kernel, by decide +kernel, by decide +kernel, by decide +kernel,
      by decide +kernel, by decide +kernel, by decide +kernel, by decide +kernel, by decide +kernel, by decide +kernel,
      ⟨_, rfl, by decide +kernel⟩, by decide +kernel, by decide +kernel⟩

theorem ok_of {ε α β : Type} {e : Except ε (α × β)} {a : α}
    (h : (e.toOption.map Prod.fst) = some a) : ∃ b, e = .ok (a, b) :=
  match e, h with
  | .ok (_, y), rfl => ⟨y, rfl⟩

theorem clauseAt_of {s : State} {ctx core : Nat} {pc h : Word} {ws : List Word}
    (hh : ((s.fetchWord ctx core pc).toOption.map Prod.fst) = some h)
    (hw : ((s.fetchWord ctx core pc).toOption.bind fun x =>
      (x.2.fetchWords ctx core (pc + 4) (hdrCount h + if hdrRel h then 1 else 0)).toOption.map Prod.fst) = some ws)
    (hf : headerFault h = none) (hv : wordsFault (hdrClass h) (hdrCount h) (ws.take (hdrCount h)) 0 16 = none)
    (hr : hdrRel h = true → releaseFault (ws.getD (hdrCount h) 0) (hdrCount h) = false) :
    ClauseAt s ctx core pc h ws := by
  obtain ⟨u, e⟩ := ok_of hh
  refine ⟨⟨u, e, ?_⟩, hf, hv, hr⟩
  rw [e] at hw
  exact ok_of (by simpa [Except.toOption] using hw)

theorem atHeader_of {s : State} {t g : Nat}
    (h : ((s.team? t).isSome && ((s.team t).group? g).isSome && (s.team t).running (s.group t g) &&
      (s.group t g).clause.isNone && (s.group t g).park == .none && !(s.group t g).entryDue &&
      (s.group t g).lanes.length == 32 && (s.group t g).pending.isEmpty) = true)
    (hm : ∀ l, ((s.group t g).lane l).mid = none) : AtHeader s t g := by
  constructor <;> simp_all

/-- A lane past the last is a placed one. -/
theorem mid_of {g : Group} (h : ∀ x ∈ g.lanes, x.mid = none) (l : Nat) : (g.lane l).mid = none := by
  unfold Group.lane
  rw [List.getD_eq_getElem?_getD]
  cases e : g.lanes[l]? with
  | none => rfl
  | some x => exact h x (List.mem_of_getElem? e)

/-- `add g3, g2, g1` in a clause whose header is the last word of the address space; its word is at address 0
(R86), in another page, below another table. -/
def farClause : State :=
  let s := mapLanes (fun _ x => { x with pc := 0xFFFC }) (atHdr (.add ⟨3, 2, 1, md⟩))
  let puts (s : State) (l : List (Nat × Nat × Nat)) : State :=
    { s with hbm := l.foldl (fun m x => m.writeN x.1 (leBytes x.2.1 x.2.2)) s.hbm }
  (puts s [(0, 8, 0x20003), (0x7FF8, 8, 0x10003), (0x17FF8, 8, 0x39), (0x20000, 8, 0x10000039),
    (0xFFFFFFC, 4, 0x10000000), (0x10000000, 4, f3 0x10 3 2 1)]).modFunc 0 fun f =>
      { f with codebase := 0xFFFFFFFFF0000, segsize := 0x2000 }

/-- Lanes 16 to 31 stand there, the others at offset 0, and the timer is above the threshold. -/
def turn : State :=
  (mapLanes (fun l x => if 16 ≤ l then { x with age := if l = 20 then 5 else 3 } else { x with pc := 0 })
    farClause).modCg fun g => { g with timer := 0x0801 }

theorem test_met_ClauseIssue :
    (∃ s ctx core off p, (off : Word).toNat % 4 = 0 ∧ (State.core s core).icache = [] ∧
      s.tlb = [] ∧ s.walks = [] ∧
      s.walk (s.ctxFunc ctx) (((s.ctxFunc ctx).codebase.toNat / 2 ^ 16 * 2 ^ 16 + off.toNat) % 2 ^ 52) .ex = .page p) ∧
    (∃ s t g pc h ws, AtHeader s t g ∧ lowestPc (s.group t g) pc ∧
      (s.group t g).timer ≤ max (s.group t g).limit.toNat 16 ∧
      ClauseAt s (s.team t).ctx (s.team t).core pc h ws ∧ hdrWait h = 0) ∧
    (∃ s t g low pc h ws l, AtHeader s t g ∧ lowestPc (s.group t g) low ∧
      max (s.group t g).limit.toNat 16 < (s.group t g).timer ∧ standAt (s.group t g) pc l ∧ pc ≠ low ∧
      (∀ k, k < 32 → ((s.group t g).lane k).st = .ready → ((s.group t g).lane k).pc ≠ low →
        ((s.group t g).lane k).age < ((s.group t g).lane l).age ∨
        (((s.group t g).lane k).age = ((s.group t g).lane l).age ∧ l ≤ k)) ∧
      ClauseAt s (s.team t).ctx (s.team t).core pc h ws ∧ hdrWait h = 0) := by
  refine ⟨⟨farClause, 1, 0, 0, ⟨0xFFFFFFFFF, 0xFFF, true, true, true, false, true⟩, by decide, by decide +kernel,
      by decide +kernel, by decide +kernel, by decide +kernel⟩,
    ⟨farClause, 1, 0, 0xFFFC, 0x10000000, [0x10060808], atHeader_of (by decide +kernel) (mid_of (by decide +kernel)), ?_,
      by decide +kernel, ?_, by decide +kernel⟩,
    ⟨turn, 1, 0, 0, 0xFFFC, 0x10000000, [0x10060808], 20, atHeader_of (by decide +kernel) (mid_of (by decide +kernel)),
      ?_, by decide +kernel, ?_, by decide, by decide +kernel, ?_, by decide +kernel⟩⟩
  · exact ⟨⟨0, by unfold standAt; decide +kernel⟩, by decide +kernel⟩
  · exact clauseAt_of (by decide +kernel) (by decide +kernel) (by decide +kernel) (by decide +kernel) (by decide +kernel)
  · exact ⟨⟨0, by unfold standAt; decide +kernel⟩, by decide +kernel⟩
  · unfold standAt; decide +kernel
  · exact clauseAt_of (by decide +kernel) (by decide +kernel) (by decide +kernel) (by decide +kernel) (by decide +kernel)

/-! ### Hypotheses met: waits, landings, exceptions -/

/-- A header that waits for everything. -/
def waiting : State := (at_ (.add ⟨3, 2, 1, md⟩)).modCg fun g => { g with park := .header 0x11F80000 }

/-- A result of one lane for g3, its value returned, of this clause execution. -/
def oneResult (seq : Nat) : PendRes :=
  { id := 7, seq := seq, live := [(.g 3, 1)], need := 0, vals := [⟨.g 3, 0, 5⟩],
    landed := false, loads := true, atomic := false, acquire := false }
def landing (seq : Nat) : State := (at_ (.add ⟨3, 2, 1, md⟩)).modCg fun g => { g with pending := [oneResult seq] }

theorem test_met_WaitReleases :
    ((waiting.team? 1).isSome = true ∧ ((waiting.team 1).group? 0).isSome = true ∧
      (waiting.team 1).running (waiting.group 1 0) = true ∧ (waiting.group 1 0).park = .header 0x11F80000 ∧
      (waiting.group 1 0).clause.isSome = true ∧ (waiting.group 1 0).entryDue = false ∧
      ∀ b, b < 6 → (0x11F80000 : Word).getLsbD (19 + b) = true ∧ waiting.waitDone 1 0 b = true) ∧
    (∀ p, p = Park.sMark ∨ p = .scoreboard →
      let s := waiting.modCg fun g => { g with park := p }
      (s.team? 1).isSome = true ∧ (s.team 1).running (s.group 1 0) = true ∧ (s.group 1 0).park = p ∧
        (s.group 1 0).pending = [] ∧ (s.group 1 0).cl.instr = .ok (.add ⟨3, 2, 1, md⟩) ∧
        ∀ n ∈ readNames (.add ⟨3, 2, 1, md⟩), (s.group 1 0).busy n = false) := by
  refine ⟨by decide +kernel, ?_⟩
  rintro p (rfl | rfl) <;>
    exact ⟨by decide +kernel, by decide +kernel, by decide +kernel, by decide +kernel,
      ok_of_option (by decide +kernel), by decide +kernel⟩

theorem test_met_ResultLands :
    ∀ seq, seq = 0 ∨ seq = 1 →
      ((landing seq).team? 1).isSome = true ∧ (((landing seq).team 1).group? 0).isSome = true ∧
      NothingEnds (landing seq) 1 ∧ (∃ l, l < 32 ∧ (((landing seq).group 1 0).lane l).st.isExited = false) ∧
      ((landing seq).group 1 0).pending[0]? = some (oneResult seq) ∧
      (∀ w ∈ (oneResult seq).vals, w.lane < 32 ∧
        ∀ w' ∈ (oneResult seq).vals, w'.name = w.name → w'.lane = w.lane → w' = w) ∧
      ((oneResult seq).seq = ((landing seq).group 1 0).seq ↔ seq = 1) := by
  rintro seq (rfl | rfl) <;>
    exact ⟨by decide +kernel, by decide +kernel, nothingEnds_of (by decide +kernel), ⟨0, by decide +kernel⟩,
      by decide +kernel, by decide +kernel, by decide +kernel⟩

/-- Where all lanes are PARKED with one trap, its code is the one delivered. -/
theorem delivered_of {s : State} {t g : Nat} {p : Pend}
    (h : ∀ l, l < 32 → ((s.group t g).lane l).st = .parked (.trapped p)) : delivered s t g p.code := by
  refine ⟨⟨0, by decide, p, h 0 (by decide), rfl⟩, fun l c hl hp => ?_⟩
  obtain ⟨q, hq, rfl⟩ := hp
  have e : p = q := by
    have := (h l hl).symm.trans hq
    simpa using this
  subst e
  by_cases ht : toTeam s t g p.code
  · exact .inl ⟨ht, ht, Nat.le_refl _⟩
  · exact .inr ⟨ht, .inr (Nat.le_refl _)⟩

/-- SOFT_TRAP in all lanes, delegated to the team handler; the same for the supervisor; and in the team
handler. -/
def entering : State :=
  let s := parkedAll 0x22 (at_ (.trap 7 md))
  (s.modCt fun t => { t with tvec := 0x101 }).modFunc 0 fun f => { f with tdeleg := 0x10 }
def enteringSup : State := entering.modCt fun t => { t with tvec := 0 }
def enteringNested : State :=
  entering.modCg fun g => { g with
    frames := [{ sup := false, nested := false, lanes := g.lanes, entry := none, regs := none, enrolled := [] }] }

/-- The conditions of `EntersAt` but for the vector, evaluated. -/
def entersB (s : State) : Bool :=
  (s.team? 1).isSome && ((s.team 1).group? 0).isSome && (s.team 1).running (s.group 1 0) &&
    (s.group 1 0).lanes.length == 32 && (s.group 1 0).clause.isNone && (s.group 1 0).park == .none &&
    (s.group 1 0).entryDue && (s.group 1 0).regsDone && !(s.group 1 0).entering &&
    !(s.ctxFunc (s.team 1).ctx).tracectl.getLsbD 0

theorem entersAt_of {s : State} {code : Nat} {v : Word} (h : entersB s = true)
    (own : toTeam s 1 0 code → v = (s.team 1).tvec &&& 0xFFFFFFFC)
    (table : ¬ toTeam s 1 0 code → s.codeWord (s.team 1).ctx
      (BitVec.ofNat 32 ((s.ctxFunc (s.team 1).ctx).svtab.toNat / 256 * 256 + 4 * code)) = some v) :
    EntersAt s 1 0 code v := by
  constructor
  case own => exact own
  case table => exact table
  all_goals clear own table; simp_all [entersB]

/-- The record of a copy of lane 9 of a group, for the supervisor; an entry of group 0 is due. -/
def copyRecord (group : Nat) : FaultRec :=
  { code := 0x48, lane := 9, flags := 0, pc := 8, addr := 5, grpslot := 0, x := 0, y := 0, z := 0, group := group }
def recorded (group : Nat) : State :=
  ((at_ (.nop md)).modCg fun g => { g with clause := none, entry := some 4096 }).modCt fun t =>
    { t with records := [copyRecord group] }

theorem test_met_TrapEntry :
    (∀ s, s = entering ∨ s = enteringSup ∨ s = enteringNested →
      ∃ v : Word, EntersAt s 1 0 0x22 v ∧ delivered s 1 0 0x22 ∧ (s = entering ↔ toTeam s 1 0 0x22)) ∧
    ∀ exited : Bool, ∃ v : Word, EntersAt (recorded (if exited then 7 else 0)) 1 0 0x48 v ∧
      deliveredRecord (recorded (if exited then 7 else 0)) 1 0 [] [] (copyRecord (if exited then 7 else 0)) exited := by
  refine ⟨?_, fun exited => ⟨0, ?_⟩⟩
  · rintro s (rfl | rfl | rfl)
    · have ht : toTeam entering 1 0 0x22 := ⟨by decide +kernel, by decide +kernel, 4, by decide, by decide +kernel⟩
      exact ⟨0x100, entersAt_of (by decide +kernel) (fun _ => by decide +kernel) (fun h => absurd ht h),
        delivered_of (p := { code := 0x22, addr := 7, word := 9, pc := 4, decode := false }) (by decide +kernel),
        by simp [ht]⟩
    · have ht : ¬ toTeam enteringSup 1 0 0x22 := fun h => absurd h.2.1 (by decide +kernel)
      exact ⟨0, entersAt_of (by decide +kernel) (fun h => absurd h ht) (fun _ => by decide +kernel),
        delivered_of (p := { code := 0x22, addr := 7, word := 9, pc := 4, decode := false }) (by decide +kernel),
        by simp only [ht, iff_false]; decide +kernel⟩
    · have ht : ¬ toTeam enteringNested 1 0 0x22 := fun h => absurd h.1 (by decide +kernel)
      exact ⟨0, entersAt_of (by decide +kernel) (fun h => absurd h ht) (fun _ => by decide +kernel),
        delivered_of (p := { code := 0x22, addr := 7, word := 9, pc := 4, decode := false }) (by decide +kernel),
        by simp only [ht, iff_false]; decide +kernel⟩
  · have ht : ∀ s, ¬ toTeam s 1 0 0x48 := fun s h => by obtain ⟨_, _, k, hk, _⟩ := h; simp [delegBit] at hk
    have hl (group : Nat) (h : ∀ l, l < 32 → (((recorded group).group 1 0).lane l).st = .ready) :
        ∀ l c, l < 32 → ¬ parkedWith ((recorded group).group 1 0) l c := fun l c hl ⟨p, hp, _⟩ => by
      rw [h l hl] at hp; cases hp
    cases exited <;>
      exact ⟨entersAt_of (by decide +kernel) (fun h => absurd h (ht _)) (fun _ => by decide +kernel),
        by decide +kernel, by decide +kernel, hl _ (by decide +kernel), by simp, by
          intro y hy b _
          have hy : y = copyRecord _ := List.mem_singleton.mp hy
          subst hy
          exact .inr ⟨ht _, .inr (Nat.le_refl _)⟩⟩

/-- The chain of group 0 that an error stopped at the word at offset 8. -/
def stoppedChain : ChainOp :=
  { id := 4, kind := .chain, b := 0, row := 0, n := 32, mask := 0, carry := 1, chunk := 0, pc := 8, stopped := false,
    failed := true, handler := none, seq := 0, carryIn := none }

/-- The record of a chain's error, and an entry that is due before a result has landed. -/
theorem test_met_TrapEntry_chain :
    (let s := (recorded 0).modCg fun g => { g with chprog := some stoppedChain }
     entersB s = true ∧ ((s.team 1).group? 0).isSome = true ∧ (copyRecord 0).code = 0x48 ∧
       (s.group 1 0).chprog = some stoppedChain ∧ stoppedChain.pc = (copyRecord 0).pc) ∧
    (let s := (recorded 0).modCg fun g =>
       { g with queue := oneEntry
                pending := [{ id := 5, seq := 0, live := [(.g 3, 1)], need := 1, vals := [], landed := false, loads := true,
                              atomic := false, acquire := false }] }
     let x := s.group 1 0
     (s.team 1).running x = true ∧ x.park = .none ∧ x.entryDue = true ∧ x.regsDone = false ∧ x.entering = false) := by
  decide +kernel

/-- In the supervisor's handler of a trap of a team handler. -/
def handlingNested (i : Instr) : State :=
  (handling i).modCg fun g =>
    { g with frames := g.frames.map (fun f => { f with nested := true }) ++ g.frames.map fun f => { f with sup := false } }

/-- The only frame of the group, or the first of two. -/
def headFrame (s : State) : Frame := s.cg.frames.headD ⟨false, false, [], none, none, []⟩

theorem returns_of {m : Mods} {s : State}
    (h : (canIssueB (.eret m) s && (isControlFlow s.cl.op && decide (s.cl.words.length ≤ s.cl.nextSlot)) &&
      s.active (.eret m) != 0 && !s.cg.frames.isEmpty && (headFrame s).lanes.length == 32 && s.cg.regsDone &&
      s.cg.queue.isEmpty) = true) : Returns m s (headFrame s) s.cg.frames.tail := by
  simp only [Bool.and_eq_true, and_assoc] at h
  constructor
  case word => exact canIssue_of h.1
  case atEnd => exact atEnd_of (by simp [h.2.1, h.2.2.1])
  case frames => cases e : s.cg.frames <;> simp_all [headFrame]
  all_goals simp_all

theorem test_met_TrapReturn :
    (∀ s, s = handling (.eret md) ∨ s = handlingNested (.eret md) →
      Returns md s (headFrame s) s.cg.frames.tail ∧ s.ct.stop = .none ∧ s.cg.saved = none ∧
        (∃ l, l < 32 ∧ ((headFrame s).lanes.getD l (Lane.placed 0 0)).st.isExited = false) ∧ NothingEnds s s.curTeam) ∧
    (let s := (handling (.eret md)).modCt fun t => { t with stop := .handler 0x7F true }
     Returns md s (headFrame s) s.cg.frames.tail ∧ (headFrame s).sup = true ∧ s.ct.stop = .handler 0x7F true ∧
       s.ct.peloton = false ∧ s.ct.resumeCw = none ∧ s.cg.saved = none ∧
       (∃ l, l < 32 ∧ ((headFrame s).lanes.getD l (Lane.placed 0 0)).st.isExited = false) ∧ NothingEnds s s.curTeam) ∧
    (let s := (handling (.eret md)).modCg fun g => { g with saved := some (0, true) }
     Returns md s (headFrame s) s.cg.frames.tail ∧ s.cg.saved = some (0, true)) ∧
    (∃ m s, CanIssue (.eret m) s ∧ AtEnd s ∧ s.cg.frames = [] ∧ NothingEnds s s.curTeam ∧
      ∃ l, (s.active (.eret m)).getLsbD l = true) := by
  refine ⟨?_, ⟨returns_of (by decide +kernel), by decide +kernel, by decide +kernel, by decide +kernel, by decide +kernel,
      by decide +kernel, ⟨31, by decide +kernel⟩, nothingEnds_of (by decide +kernel)⟩,
    ⟨returns_of (by decide +kernel), by decide +kernel⟩,
    ⟨md, at_ (.eret md), canIssue_of (by decide +kernel), atEnd_of (by decide +kernel), by decide +kernel,
      nothingEnds_of (by decide +kernel), 31, by decide +kernel⟩⟩
  rintro s (rfl | rfl) <;>
    exact ⟨returns_of (by decide +kernel), by decide +kernel, by decide +kernel, ⟨31, by decide +kernel⟩,
      nothingEnds_of (by decide +kernel)⟩

/-! ### Hypotheses met: memory -/

def tmBase : Addr := atBase .tm 6
def skBase : Addr := atBase .sk 6
/-- The base register names the last word of team memory, or of the slice. -/
def lastTm (i : Instr) : State := putS 6 4092 (at_ i)
def lastSk (i : Instr) : State := putS 6 252 (at_ i)
def lastLoc : TmLoc := { team := 1, addr := 4092 }

/-- Every answer of the checks of R142 in its turn. -/
theorem test_met_AccessChecks :
    let s := at_ (.nop md)
    let tagged := s.modCt fun t => { t with tmchk := true, tags := [(127, 5)] }
    let watched := tagged.modCt fun t => { t with tags := [], watches := [(0, { kind := .r, space := .tm, base := 4095, len := 1 })] }
    let broken := { s with eccTm := [(1, 127)] }
    let poisoned := { s with poisonTm := [(1, 127)] }
    let brokenSk := { s with eccSk := [(1, 0, 63)] }
    let watchedSk := s.modCg fun g => { g with watches := [(0, { kind := .r, space := .sk, base := 255, len := 1 })] }
    (4094 % 4 ≠ 0) ∧ s.place s.ct s.cg .tm 4096 4 = none ∧ s.place s.ct s.cg .tm 4092 4 = some (.tm lastLoc) ∧
      tagged.tagsMatch (ptrTag 4092) lastLoc 4 = false ∧ watched.tagsMatch (ptrTag 4092) lastLoc 4 = true ∧
      watched.watchHit watched.ct watched.cg 0 .tm true false 4092 4 = some 3 ∧
      broken.watchHit broken.ct broken.cg 0 .tm true false 4092 4 = none ∧ broken.tmEcc lastLoc 4 = true ∧
      s.tmEcc lastLoc 4 = false ∧ poisoned.tmEcc lastLoc 4 = false ∧ poisoned.tmPoison lastLoc 4 = true ∧
      s.tmPoison lastLoc 4 = false ∧ brokenSk.skEcc s.ct s.cg 0 252 4 = true ∧
      s.skEcc s.ct s.cg 0 252 4 = false ∧ s.place s.ct s.cg .sk 252 4 = some (.sk 252) ∧
      watchedSk.watchHit watchedSk.ct watchedSk.cg 0 .sk true false 252 4 = some 3 ∧
      s.watchHit s.ct s.cg 0 .sk true false 252 4 = none := by decide +kernel

/-- A lane of an access beyond team memory, and one within it. -/
def beyond (i : Instr) : State :=
  (lastTm i).modCg fun g => g.write { name := .g 9, lane := 31, val := 4 }
def indexed : Addr := { tmBase with ix := true, a := 9 }

theorem test_met_AccessTraps :
    let i : Instr := .ld 4 indexed .w32 .v1 none false md
    let j : Instr := .st 4 indexed .w32 .v1 none md
    let s := beyond i
    s.ldBlocked i indexed 4 = false ∧ CanIssue i s ∧ CanIssue j (beyond j) ∧ s.cg.inSup = false ∧
      s.accessHeld s.curTeam s.curGroup (s.active i) = false ∧
      (∀ x, (beyond j).berthHeld (beyond j).fresh x 4 = false) ∧
      s.checkElem s.ct s.cg 31 .tm (eaOf indexed s.cg 31) 4 true false = .error (0x0B, 4096) ∧
      s.checkElem s.ct s.cg 30 .tm (eaOf indexed s.cg 30) 4 true false = .ok (.tm lastLoc) :=
  ⟨by decide +kernel, canIssue_of (by decide +kernel), canIssue_of (by decide +kernel), by decide +kernel,
    by decide +kernel, fun _ => by rfl, error_of (by decide +kernel), ok_of_option (by decide +kernel)⟩

theorem test_met_Loads :
    let i : Instr := .ld 4 tmBase .w32 .v1 (some .team) false md
    let k : Instr := .ld 4 skBase .w32 .v1 none false md
    let u : Instr := .ldu 4 tmBase .w32 .v1 md
    let off (i : Instr) : State := (lastTm i).modCg fun g => { g with clause := g.clause.map fun c => { c with guard := 0 } }
    let away := (lastTm i).modCt fun t => { t with absent := [(63, [(9, 0, 0)])] }
    let n : Instr := .ldu 4 tmBase .w32 .v1 mg
    (CanIssue i (lastTm i) ∧ (lastTm i).accessHeld 1 0 ((lastTm i).active i) = false ∧
      ∀ l, ((lastTm i).active i).getLsbD l = true →
        (lastTm i).checkElem (lastTm i).ct (lastTm i).cg l .tm (eaOf tmBase (lastTm i).cg l) 4 true false =
          .ok (.tm lastLoc) ∧ (lastTm i).absentPlace (.tm lastLoc) 4 = false) ∧
    (CanIssue k (lastSk k) ∧ (lastSk k).accessHeld 1 0 ((lastSk k).active k) = false ∧
      ∀ l, ((lastSk k).active k).getLsbD l = true →
        (lastSk k).checkElem (lastSk k).ct (lastSk k).cg l .sk (eaOf skBase (lastSk k).cg l) 4 true false =
          .ok (.sk 252) ∧ (lastSk k).absentPlace (.sk 252) 4 = false) ∧
    (CanIssue i away ∧ away.accessHeld 1 0 (away.active i) = false ∧ (away.active i).getLsbD 31 = true ∧
      away.checkElem away.ct away.cg 31 .tm (eaOf tmBase away.cg 31) 4 true false = .ok (.tm lastLoc) ∧
      away.present lastLoc 4 = false) ∧
    (CanIssue u (lastTm u) ∧ (lastTm u).accessHeld 1 0 ((lastTm u).active u) = false ∧ (lastTm u).active u ≠ 0 ∧
      (lastTm u).checkElem (lastTm u).ct (lastTm u).cg 0 .tm (eaOf tmBase (lastTm u).cg 0) 4 true false =
        .ok (.tm lastLoc) ∧ (lastTm u).present lastLoc 4 = true) ∧
    (CanIssue n (off n) ∧ (off n).active n = 0 ∧ (off n).accessHeld 1 0 0 = false) := by
  refine ⟨⟨canIssue_of (by decide +kernel), by decide +kernel, by
      intro l h; refine ⟨?_, by decide +kernel⟩; revert l; exact lanes_ok (pl := fun _ => .tm lastLoc) (by decide +kernel)⟩,
    ⟨canIssue_of (by decide +kernel), by decide +kernel, by
      intro l h; refine ⟨?_, by decide +kernel⟩; revert l; exact lanes_ok (pl := fun _ => .sk 252) (by decide +kernel)⟩,
    ⟨canIssue_of (by decide +kernel), by decide +kernel, by decide +kernel, ok_of_option (by decide +kernel),
      by decide +kernel⟩,
    ⟨canIssue_of (by decide +kernel), by decide +kernel, by decide +kernel, ok_of_option (by decide +kernel),
      by decide +kernel⟩, ⟨canIssue_of (by decide +kernel), by decide +kernel, by decide +kernel⟩⟩

/-- A full queue of one entry. -/
def fullQueue (s : State) : State :=
  (s.modCg fun g => { g with queue := [.entry [{ lane := 0, loc := lastLoc, bytes := [1, 2, 3, 4] }]] }).modCt
    fun t => { t with quantum := 1 }

theorem test_met_Stores :
    let i : Instr := .st 4 tmBase .w32 .v1 none md
    let r : Instr := .st 4 tmBase .w32 .v1 (some .sys) md
    let k : Instr := .st 4 skBase .w32 .v1 none md
    let test := (lastTm i).modCt fun t => { t with mode := 1 }
    let ok (i : Instr) (ad : Addr) (s : State) (p : Place) : Prop :=
      CanIssue i s ∧ s.accessHeld 1 0 (s.active i) = false ∧
        (∀ l, (s.active i).getLsbD l = true → s.checkElem s.ct s.cg l ad.sp (eaOf ad s.cg l) 4 false true = .ok p) ∧
        s.berthHeld s.fresh lastLoc 4 = false
    ok r tmBase (lastTm r).drainFirst (.tm lastLoc) ∧ (ok i tmBase test (.tm lastLoc) ∧ test.ct.test = true) ∧
      (ok k skBase (lastSk k) (.sk 252) ∧ (lastSk k).ct.test = false) ∧
      (ok i tmBase (lastTm i) (.tm lastLoc) ∧ (lastTm i).ct.test = false ∧
        ¬ (lastTm i).ct.quantum ≤ (lastTm i).cg.entries) ∧
      (ok i tmBase (fullQueue (lastTm i)) (.tm lastLoc) ∧
        (fullQueue (lastTm i)).ct.quantum ≤ (fullQueue (lastTm i)).cg.entries) := by
  refine ⟨⟨canIssue_of (by decide +kernel), by decide +kernel, ?_, by decide +kernel⟩,
    ⟨⟨canIssue_of (by decide +kernel), by decide +kernel, ?_, by decide +kernel⟩, by decide +kernel⟩,
    ⟨⟨canIssue_of (by decide +kernel), by decide +kernel, ?_, by decide +kernel⟩, by decide +kernel⟩,
    ⟨⟨canIssue_of (by decide +kernel), by decide +kernel, ?_, by decide +kernel⟩, by decide +kernel⟩,
    ⟨⟨canIssue_of (by decide +kernel), by decide +kernel, ?_, by decide +kernel⟩, by decide +kernel⟩⟩ <;>
    refine lanes_ok (pl := fun _ => _) ?_ <;> decide +kernel

/-- A grid that buffers its reductions. -/
def replayGrid : Grid :=
  { serial := 0, ctx := 1, queue := 0, entered := 0, record := parseRecord [], placed := 1, unended := 1, left := true,
    waited := 0, replay := some true, follows := none, replayRecs := [] }

/-- Room for one page of records. -/
def buffering (i : Instr) : State :=
  { lastTm i with grids := [replayGrid] }.modFunc 0 fun f => { f with replaybuf := BitVec.ofNat 64 (2 ^ 52) }

theorem test_met_Atomics :
    let a : Instr := .atom ⟨4, 8, { exBase 6 with off := -4 }, .w64, .add, .acqrel, .sys, true, md⟩
    let c : Instr := .atomcas ⟨4, 8, exBase 6, .w32, .relaxed, .grp, false, md⟩
    let r : OpRed := ⟨8, exBase 6, .f32, .max, true, .sys, md⟩
    let ok (i : Instr) (s : State) : Prop := CanIssue i s ∧ s.accessHeld 1 0 (s.active i) = false
    (ok a (lastTm a) ∧ AtomicAt a { exBase 6 with off := -4 } .w64 (lastTm a) fun _ => { team := 1, addr := 4088 }) ∧
      (ok c (lastTm c) ∧ AtomicAt c (exBase 6) .w32 (lastTm c) fun _ => lastLoc) ∧
      (ok (.red r) (lastTm (.red r)) ∧ UpdateAt (.red r) r.ad .f32 (lastTm (.red r)) (fun _ => lastLoc) ∧
        (lastTm (.red r)).replaying (lastTm (.red r)).ct = false) ∧
      (ok (.red r) (buffering (.red r)) ∧ UpdateAt (.red r) r.ad .f32 (buffering (.red r)) (fun _ => lastLoc) ∧
        (buffering (.red r)).replaying (buffering (.red r)).ct = true ∧
        ((buffering (.red r)).ctxFunc 1).replayUsed + 32 ≤ replayRoom ((buffering (.red r)).ctxFunc 1)) := by
  have at_of {i : Instr} {ad : AddrX} {t : ATy} {s : State} {x : TmLoc}
      (h : ∀ l, l < 32 → (s.active i).getLsbD l = true →
        ((s.drainAt i).checkElem (s.drainAt i).ct (s.drainAt i).cg l (spOfX ad) (eaOfX ad s.cg l)
          (if t.wide then 8 else 4) true true).toOption = some (.tm x)) : AtomicAt i ad t s fun _ => x :=
    lanes_ok (pl := fun _ => .tm x) h
  have up_of {i : Instr} {ad : AddrX} {t : ATy} {s : State} {x : TmLoc}
      (h : ∀ l, l < 32 → (s.active i).getLsbD l = true →
        ((s.drainAt i).checkUpdate (s.drainAt i).ct (s.drainAt i).cg l (spOfX ad) (eaOfX ad s.cg l)
          (if t.wide then 8 else 4) true true).toOption = some (.tm x)) : UpdateAt i ad t s fun _ => x :=
    lanes_ok (pl := fun _ => .tm x) h
  exact ⟨⟨⟨canIssue_of (by decide +kernel), by decide +kernel⟩, at_of (by decide +kernel)⟩,
    ⟨⟨canIssue_of (by decide +kernel), by decide +kernel⟩, at_of (by decide +kernel)⟩,
    ⟨⟨canIssue_of (by decide +kernel), by decide +kernel⟩, up_of (by decide +kernel), by decide +kernel⟩,
    ⟨⟨canIssue_of (by decide +kernel), by decide +kernel⟩, up_of (by decide +kernel), by decide +kernel,
      by decide +kernel⟩⟩

/-- A write on its way, from this core. -/
def packetOf (core : Nat) (op : PacketOp) : Packet :=
  { id := 3, core := core, team := 1, group := 0, loc := lastLoc, op := op, rel := none, phase := none,
    held := false, released := false, sample := none }

theorem test_met_FencesPresenceTags :
    let i : Instr := .fence .sys mg
    let off := (at_ i).modCg fun g => { g with clause := g.clause.map fun c => { c with guard := 0 } }
    let busy := { at_ i with net := [packetOf 0 (.write [1])] }
    let w : Instr := .pwait 4 tmBase md
    let away (s : State) : State := s.modCt fun t => { t with absent := [(63, [(9, 0, 0)])] }
    let full := putG 4 4 (lastTm w)
    let t : Instr := .ptest 47 tmBase md
    let g : Instr := .tagget ⟨4, 6, md⟩ false
    let c : Instr := .tagget ⟨4, 6, md⟩ true
    let p : Instr := .tagset 4 tmBase md
    (CanIssue i off ∧ off.active i = 0) ∧ (CanIssue i (at_ i) ∧ (at_ i).active i ≠ 0 ∧ (at_ i).drainFirst.net = [] ∧
      (at_ i).cg.pending = []) ∧ (CanIssue i busy ∧ busy.drainFirst.coveredBy .sys (packetOf 0 (.write [1])) = true) ∧
    (CanIssue w (lastTm w) ∧ (lastTm w).accessHeld 1 0 fullMask = false ∧ ((lastTm w).cg.rg (4 : BitVec 7) 31).toNat = 0) ∧
    (CanIssue w full ∧ full.accessHeld 1 0 fullMask = false ∧ (full.cg.rg (4 : BitVec 7) 31).toNat = 4 ∧
      full.place full.ct full.cg .tm (eaOf tmBase full.cg 31) 4 = some (.tm lastLoc) ∧ full.present lastLoc 4 = true ∧
      (away full).present lastLoc 4 = false) ∧
    (CanIssue t (lastTm t) ∧ (lastTm t).place (lastTm t).ct (lastTm t).cg .tm (eaOf tmBase (lastTm t).cg 31) 1 =
      some (.tm lastLoc)) ∧
    (CanIssue g (at_ g) ∧ (at_ g).place (at_ g).ct (at_ g).cg .tm 0 1 = some (.tm { team := 1, addr := 0 })) ∧
    (CanIssue c (at_ c) ∧ (at_ c).place (at_ c).ct (at_ c).cg .cl 4095 1 = some (.tm { team := 1, addr := 4095 })) ∧
    (CanIssue p (at_ p) ∧ (at_ p).cg.acquiring fullMask = false ∧ eaOf tmBase (at_ p).cg 31 % 32 = 0 ∧
      (at_ p).place (at_ p).ct (at_ p).cg .tm (eaOf tmBase (at_ p).cg 31) 32 = some (.tm { team := 1, addr := 0 })) ∧
    CanIssue (.tagptr ⟨5, 4, 9, md⟩) (at_ (.tagptr ⟨5, 4, 9, md⟩)) := by
  refine ⟨⟨canIssue_of ?_, ?_⟩, ⟨canIssue_of ?_, ?_⟩, ⟨canIssue_of ?_, ?_⟩, ⟨canIssue_of ?_, ?_⟩, ⟨canIssue_of ?_, ?_⟩,
    ⟨canIssue_of ?_, ?_⟩, ⟨canIssue_of ?_, ?_⟩, ⟨canIssue_of ?_, ?_⟩, ⟨canIssue_of ?_, ?_⟩, canIssue_of ?_⟩ <;>
    decide +kernel

/-- A packet of each kind that its home may perform, at the last word of team memory. -/
theorem test_met_HomePerforms :
    ∀ x ∈ [(PacketOp.write [1, 2, 3, 4], 4092), (.read 5 0 [.g 4] .w32 1 [none, some 7, none, none] false, 4092),
        (.atomic (some 5) 0 [.g 4] .w32 (some .add) 1 0 false, 4092), (.atomic none 0 [] .w32 none 0 1 false, 4092),
        (.tagSet 5, 4064), (.test 5 3 (.p 47) 9, 4088)],
      let p := { packetOf 0 x.1 with loc := { team := 1, addr := x.2 } }
      let s := { at_ (.nop md) with net := [p] }
      s.net[0]? = some p ∧ s.mayPerform 0 = true ∧ s.mustHold p = false ∧ p.sample = none ∧ p.held = false ∧
        s.promoted p = false ∧ Alive s 1 ∧ (∀ b, b < 16 → ((s.team 1).barrier b).closing = false) ∧
        (s.team? p.loc.team).isSome = true ∧ p.loc.addr + p.len ≤ round4k (s.team p.loc.team).tmSize := by
  intro x h
  simp only [List.mem_cons, List.not_mem_nil, or_false] at h
  (repeat' (refine Or.elim h ?_ ?_ <;> clear h <;> intro h)) <;> subst h <;>
    exact ⟨by decide +kernel, by decide +kernel, by decide +kernel, by decide +kernel, by decide +kernel,
      by decide +kernel, alive_of (by decide +kernel), by decide +kernel, by decide +kernel, by decide +kernel⟩

/-- One that was held, completion words, and a promoted acquire from another core. -/
theorem test_met_HomePerforms_others :
    ∀ p ∈ [{ packetOf 0 (.write [1]) with held := true }, { packetOf 0 (.add64 1) with loc := { team := 1, addr := 4088 } },
        { packetOf 0 (.put64 1) with loc := { team := 1, addr := 4088 } },
        packetOf 5 (.atomic (some 5) 0 [.g 4] .w32 (some .exch) 1 0 true)],
      let s := { at_ (.nop md) with net := [p] }
      s.net[0]? = some p ∧ s.mayPerform 0 = true ∧ s.mustHold p = false ∧ p.sample = none ∧
        (s.promoted p = true ↔ p.core = 5) ∧ (∀ q ∈ s.net, q.released = true → q.core ≠ (s.team 1).core) ∧ Alive s 1 ∧
        p.loc.addr + p.len ≤ round4k (s.team p.loc.team).tmSize := by
  intro p h
  simp only [List.mem_cons, List.not_mem_nil, or_false] at h
  rcases h with rfl | rfl | rfl | rfl <;>
    exact ⟨by decide +kernel, by decide +kernel, by decide +kernel, by decide +kernel, by decide +kernel,
      by decide +kernel, alive_of (by decide +kernel), by decide +kernel⟩

/-! ### Hypotheses met: barriers, rendezvous, launches, copies -/

def arrive15 : OpBar := { br := false, wr := true, sx := 63, bn := 15, cnt := 1, m := md }
def alone (b : BitVec 6) : OpBar := { br := false, wr := true, sx := 63, bn := b, cnt := 0, m := md }
/-- Group 0 has arrived at the current phase of barrier 15, or at both. -/
def arrived (nxt : Mask) (i : Instr) : State :=
  (twoGroups (at_ i)).modCt fun t =>
    { t with barriers := [(15, { Barrier.reset with cur := { arrived := 1, booked := 1, expected := 2 },
                                                    nxt := { arrived := nxt, booked := 0, expected := 0 } })] }

theorem booksNow_of {s : State} {b : Nat}
    (h : (s.cg.since.isNone && !(s.ct.barrier b).closing && (s.ct.barrier b).last.isNone) = true) : BooksNow s b := by
  simp only [Bool.and_eq_true, Bool.not_eq_true', Option.isNone_iff_eq_none] at h
  exact ⟨h.1.1, fun hc => absurd hc (by simp [h.1.2]), fun c k hl => absurd hl (by simp [h.2])⟩

/-- A phase of barrier 15 that an absent line holds back; the group of index 0 was booked in this cycle. -/
def closing15 : State :=
  let s := (twoGroups (at_ (.barArrive arrive15))).modCt fun t =>
    { t with barriers := [(15, { Barrier.reset with cur := { arrived := 3, booked := 2, expected := 2 }, closing := true,
                                                    last := some (0, 0) })] }
  { s with net := [{ packetOf 0 (.write [1]) with phase := some 15, held := true }] }

theorem test_met_BooksNow : BooksNow closing15 15 ∧ CanIssue (.barArrive arrive15) closing15 ∧
    ((closing15.ct.barrier 15).cur.arrived.getLsbD closing15.curGroup || (closing15.ct.barrier 15).closing) = true ∧
    (closing15.ct.barrier 15).nxt.arrived.getLsbD closing15.curGroup = false ∧ arrivalOf closing15 arrive15 = (15, 2) ∧
    2 ≤ closing15.ct.live ∧ (closing15.ct.barrier 15).nxt.booked = 0 :=
  ⟨⟨by decide +kernel, fun _ => ⟨{ packetOf 0 (.write [1]) with phase := some 15, held := true }, by decide +kernel⟩,
    fun c k hl _ => by
      have : (some (c, k) : Option (Nat × Nat)) = some (0, 0) := hl.symm.trans (by decide +kernel)
      simp only [Option.some.injEq, Prod.mk.injEq] at this
      simp [this.2]⟩,
    canIssue_of (by decide +kernel), by decide +kernel⟩

theorem test_met_BarrierArrival :
    (let i : Instr := .barArrive arrive15
     let s := twoGroups (at_ i)
     let y := { s.ct.barrier 15 with cur := bookedBy (s.ct.barrier 15).cur s.curGroup 2 }
     BooksNow s 15 ∧ CanIssue i s ∧ s.active i ≠ 0 ∧ arrivalOf s arrive15 = (15, 2) ∧ 2 ≤ s.ct.live ∧ (s.ct.barrier 15).cur.booked = 0 ∧
       (s.ct.barrier 15).cur.arrived.getLsbD s.curGroup = false ∧ y.cur.booked ≠ y.cur.expected) ∧
    (let i : Instr := .barSync arrive15
     let s := arrived 0 i
     BooksNow s 15 ∧ CanIssue i s ∧ s.active i ≠ 0 ∧ arrivalOf s arrive15 = (15, 2) ∧ (s.ct.barrier 15).nxt.booked = 0 ∧
       (s.ct.barrier 15).cur.arrived.getLsbD s.curGroup = true ∧ (s.ct.barrier 15).nxt.arrived.getLsbD s.curGroup = false ∧
       (s.ct.barrier 15).cur.booked ≠ (s.ct.barrier 15).cur.expected) ∧
    (let i : Instr := .barSync (alone 0)
     let s := twoGroups (at_ i)
     BooksNow s 0 ∧ CanIssue i s ∧ s.active i ≠ 0 ∧ arrivalOf s (alone 0) = (0, 2) ∧
       (bookedBy (s.ct.barrier 0).cur s.curGroup 2).booked < s.ct.live) ∧
    (let o : OpBar := { arrive15 with br := true }
     let i : Instr := .barArrive o
     let s := putS 15 16 (at_ i)
     CanIssue i s ∧ s.cg.inSup = false ∧ (arrivalOf s o).1 = 16) ∧
    (let i : Instr := .barArrive arrive15
     let s := at_ i
     BooksNow s 15 ∧ CanIssue i s ∧ s.cg.inSup = false ∧ arrivalOf s arrive15 = (15, 2) ∧ s.ct.live = 1) ∧
    (let i : Instr := .barArrive arrive15
     let s := arrived 1 i
     BooksNow s 15 ∧ CanIssue i s ∧ s.cg.inSup = false ∧ (s.ct.barrier 15).cur.arrived.getLsbD 0 = true ∧
       (s.ct.barrier 15).nxt.arrived.getLsbD 0 = true ∧ s.ct.live = 2) ∧
    (let i : Instr := .barArrive (alone 15)
     let s := (arrived 0 i).modCt fun t =>
       { t with barriers := [(15, { Barrier.reset with cur := { arrived := 2, booked := 1, expected := 2 } })] }
     BooksNow s 15 ∧ CanIssue i s ∧ s.cg.inSup = false ∧ arrivalOf s (alone 15) = (15, 1) ∧ 0 < (s.ct.barrier 15).cur.booked ∧
       (s.ct.barrier 15).cur.expected ≠ 1 ∧ (s.ct.barrier 15).cur.arrived.getLsbD 0 = false) := by
  refine ⟨⟨booksNow_of ?_, canIssue_of ?_, ?_⟩, ⟨booksNow_of ?_, canIssue_of ?_, ?_⟩, ⟨booksNow_of ?_, canIssue_of ?_, ?_⟩,
    ⟨canIssue_of ?_, ?_⟩, ⟨booksNow_of ?_, canIssue_of ?_, ?_⟩, ⟨booksNow_of ?_, canIssue_of ?_, ?_⟩,
    ⟨booksNow_of ?_, canIssue_of ?_, ?_⟩⟩ <;> decide +kernel

theorem test_met_BarrierPhases :
    (∀ b full, b = 0 ∨ b = 15 →
      let i : Instr := .barSync (alone b)
      let k : Booking := if full then { arrived := 2, booked := 1, expected := 1 } else Booking.empty
      let s := (at_ i).modCt fun t => { t with barriers := [(b.toNat, { Barrier.reset with nxt := k })] }
      let y := bookedBy (s.ct.barrier b.toNat).cur s.curGroup 1
      BooksNow s b.toNat ∧ CanIssue i s ∧ s.active i ≠ 0 ∧ arrivalOf s (alone b) = (b.toNat, 1) ∧
        (s.ct.barrier b.toNat).cur.arrived.getLsbD s.curGroup = false ∧ (s.ct.barrier b.toNat).closing = false ∧
        (s.ct.barrier b.toNat).nxt = k ∧ (if b = 0 then s.ct.live ≤ y.booked else y.booked = y.expected) ∧
        (full = true ↔ 1 ≤ k.booked ∧ (if b = 0 then s.ct.live ≤ k.booked else k.booked = k.expected)) ∧
        s.cg.queue = [] ∧ s.net = [] ∧
        (s.ctxFunc s.ct.ctx).tracectl.getLsbD 0 = false) ∧
    (let i : Instr := .barWait true 1 2 md
     let s := putS 1 0 (putS 2 15 (at_ i))
     let t := putS 1 0xFFFFFFFF s
     CanIssue i s ∧ s.active i ≠ 0 ∧ (s.cg.rs (2 : BitVec 6)).toNat ≤ 15 ∧ ¬ ((s.ct.barrier 15).count - 1 - s.cg.rs (1 : BitVec 6)).toNat < 2 ^ 31 ∧
       ((t.ct.barrier 15).count - 1 - t.cg.rs (1 : BitVec 6)).toNat < 2 ^ 31) ∧
    (∀ q : BitVec 2, CanIssue (.barq q false 63 15 md) (at_ (.barq q false 63 15 md)) ∧
      (at_ (.barq q false 63 15 md)).active (.barq q false 63 15 md) ≠ 0) := by
  refine ⟨?_, ⟨canIssue_of (by decide +kernel), by decide +kernel⟩, fun q => ⟨canIssue_of ?_, ?_⟩⟩
  · rintro b full (rfl | rfl) <;> cases full <;>
      exact ⟨booksNow_of (by decide +kernel), canIssue_of (by decide +kernel), by decide +kernel⟩
  · revert q; decide +kernel
  · revert q; decide +kernel

/-- Both groups have stores queued, group 1 before its arrival at the phase; group 0 arrives. -/
def committing (b : BitVec 6) (sync : Bool) : State :=
  let s := twoGroups (at_ (if sync then .barSync arrive15 else .barArrive (alone b)))
  (s.modCg fun g => { g with queue := oneEntry }).modCt fun t =>
    { t with
      barriers := [(b.toNat, { Barrier.reset with cur := { arrived := 2, booked := 1, expected := if b = 0 then 0 else
        if sync then 2 else 1 } })]
      groups := t.groups.map fun g => if g.index = 1 then { g with queue := oneEntry ++ [.arrival b.toNat 0] } else g }

/-- The commit of barrier 15 has packets of its own on their way, the first held back or not; group 1 waits. -/
def committed (packets : Nat) (held : Bool) : State :=
  let s := twoGroups (at_ (.barSync arrive15))
  { s.modCt (fun t => { t with
      barriers := [(15, { Barrier.reset with cur := { arrived := 3, booked := 2, expected := 2 }, closing := true })]
      groups := t.groups.map fun g => if g.index = 1 then
        { g with lanes := g.lanes.map fun x => { x with st := .barrier 15 0 } } else g }) with
    net := (List.range packets).map fun k => { packetOf 0 (.write [1, 2, 3, 4]) with id := k, phase := some 15, held := held } }

theorem test_met_BarrierCommits :
    ∀ sync : Bool,
      let i : Instr := if sync then .barSync arrive15 else .barArrive (alone 0)
      let o : OpBar := if sync then arrive15 else alone 0
      let s := committing (if sync then 15 else 0) sync
      let x := s.ct.barrier (arrivalOf s o).1
      let k := bookedBy x.cur s.curGroup (arrivalOf s o).2
      arriving i = some (o, sync) ∧ BooksNow s (arrivalOf s o).1 ∧ CanIssue i s ∧ s.active i ≠ 0 ∧
        (∀ g ∈ s.ct.groups, g.index < 32) ∧ (arrivalOf s o).2 ≤ s.ct.live ∧ x.cur.arrived.getLsbD s.curGroup = false ∧
        x.closing = false ∧ k.booked = 2 ∧ (sync = true → x.cur.expected = 2 ∧ k.expected = 2) ∧ s.ct.live = 2 ∧
        k.arrived = 3 ∧ x.count = 0 ∧
        (threadWrites (beforeArrival (s.cg.queue ++ [.arrival (arrivalOf s o).1 0]) (arrivalOf s o).1 0)).length = 1 ∧
        (threadWrites (beforeArrival (s.ct.group 1).queue (arrivalOf s o).1 0)).length = 1 := by
  intro sync
  cases sync <;> exact ⟨rfl, booksNow_of (by decide +kernel), canIssue_of (by decide +kernel), by decide +kernel⟩

theorem test_met_CommitEnds :
    (∀ n held, n = 1 ∨ n = 2 →
      let s := committed n held
      ∃ p, s.net[0]? = some p ∧ p.op = .write [1, 2, 3, 4] ∧ p.phase = some 15 ∧ p.rel = none ∧ p.sample = none ∧
        p.held = held ∧ s.mayPerform 0 = true ∧ s.mustHold p = false ∧ Alive s p.team ∧ Alive s p.loc.team ∧
        (s.team? p.team).isSome = true ∧ p.loc.addr + 4 ≤ round4k (s.team p.loc.team).tmSize ∧
        ((s.team p.team).barrier 15).closing = true ∧ ((s.team p.team).barrier 15).nxt.booked = 0 ∧
        (∀ c, c < 16 → c ≠ 15 → ((s.team p.team).barrier c).closing = false) ∧
        ((s.ct.group 1).lane 31).st = .barrier 15 ((s.team p.team).barrier 15).count ∧ s.net.length = n) ∧
    (let s := (twoGroups (at_ (.barSync arrive15))).modCg fun g => { g with since := some 3 }
     CanIssue (.barSync arrive15) s ∧ s.active (.barSync arrive15) ≠ 0 ∧ (arrivalOf s arrive15).1 = 15 ∧
       s.cg.since.isSome = true ∧ (s.ct.barrier 15).closing = false) := by
  refine ⟨fun n held h => ?_, canIssue_of (by decide +kernel), by decide +kernel⟩
  rcases h with rfl | rfl <;> cases held <;>
    exact ⟨_, rfl, by decide +kernel, by decide +kernel, by decide +kernel, by decide +kernel, by decide +kernel,
      by decide +kernel, by decide +kernel, alive_of (by decide +kernel), alive_of (by decide +kernel), by decide +kernel⟩

/-- A group of index 1 has made its arrival in this cycle, and group 0's traps. -/
theorem test_met_BarrierTraps_last :
    let s := (at_ (.barArrive arrive15)).modCt fun t => { t with barriers := [(15, { Barrier.reset with last := some (0, 0) })] }
    BooksNow s 15 ∧ CanIssue (.barArrive arrive15) s ∧ s.active (.barArrive arrive15) ≠ 0 ∧
      arrivalOf s arrive15 = (15, 2) ∧ s.ct.live = 1 :=
  ⟨⟨by decide +kernel, fun h => absurd h (by decide +kernel), fun c k hl _ => by
      have : (some (c, k) : Option (Nat × Nat)) = some (0, 0) := hl.symm.trans (by decide +kernel)
      simp only [Option.some.injEq, Prod.mk.injEq] at this
      simp [this.2]⟩,
    canIssue_of (by decide +kernel), by decide +kernel⟩

/-- The group meets group 1, held at its side of the rendezvous; 64 registers move, the most that fit. -/
theorem test_met_GroupEffects :
    (∀ give : Bool,
      let i : Instr := if give then .reggive 1 7 md else .regtake 1 md
      let s := (twoGroups (at_ i)).modGroup 1 (if give then 1 else 1) fun g =>
        { g with hold := if give then .take 0 else .give 0 7, park := .rendezvous }
      let s := s.modCg fun g => { g with budget := if give then 128 else 64 }
      CanIssue i s ∧ s.active i ≠ 0 ∧ 1 < s.ct.groups.length ∧ 1 ≠ s.curGroup ∧ (s.ct.group? 1).isSome = true ∧
        (s.ct.group 1).ended = false ∧ (s.ct.group 1).lanes.length = 32 ∧
        (s.ct.group 1).hold = (if give then .take s.curGroup else .give s.curGroup 7) ∧
        56 + (if give then 8 else 0) ≤ (if give then s.cg else s.ct.group 1).budget ∧
        (if give then s.ct.group 1 else s.cg).budget + 56 ≤ 128) ∧
    (∀ give : Bool,
      let i : Instr := if give then .reggive 1 15 md else .regtake 1 md
      let s := twoGroups (at_ i)
      CanIssue i s ∧ s.active i ≠ 0 ∧ 1 < s.ct.groups.length ∧ 1 ≠ s.curGroup ∧ (s.ct.group 1).ended = false ∧
        (give = true → 8 * 15 + 8 ≤ s.cg.budget) ∧ (s.ct.group 1).hold = .none) := by
  refine ⟨fun give => ?_, fun give => ?_⟩ <;> cases give <;> exact ⟨canIssue_of (by decide +kernel), by decide +kernel⟩

/-- A queue of 64 grids. -/
def manyGrids : List Grid :=
  (List.range 64).map fun k => { replayGrid with serial := k, left := false, replay := none }

theorem test_met_Launch :
    let o : OpDAB := ⟨4, 2, 3, md⟩
    let i : Instr := .launch o
    ∀ s, s = at_ i ∨ s = { at_ i with grids := manyGrids } →
      freeAt i s ∧
      (∀ l, (s.active i).getLsbD l = true → (s.drainAt i).launchCheck o l = .ok { team := 1, addr := 0 } ∧
        (s.drainAt i).engineReads s.ct.core { team := 1, addr := 0 } 128 (s.drainAt i).fresh = true) ∧
      (s.depth 1 0 + 32 ≤ 64 ∨ 64 ≤ s.depth 1 0) := by
  intro o i s hs
  refine ⟨?_, ?_, ?_⟩
  · rcases hs with rfl | rfl <;> exact freeAt_of (by decide +kernel)
  · intro l h
    refine ⟨?_, ?_⟩
    · refine ok_of_option ((?_ : ∀ l, l < 32 → ((s.drainAt i).launchCheck o l).toOption = some _) l (lane_lt_of_active h))
      rcases hs with rfl | rfl <;> decide +kernel
    · rcases hs with rfl | rfl <;> decide +kernel
  · rcases hs with rfl | rfl <;> decide +kernel

def cw5 : CopyX := { cwb := 10, cnt := 11, cl := false, cws := .tm, ord := false, cwoff := 1 }
/-- Copies 64 bytes from the first page of main memory to team memory, for lane 0, with a completion word. -/
def copying (n : Word) : State := putS 3 64 (putS 11 n (oneLane (at_ (.copyIn ⟨3, 4, cw5, md⟩))))
def page0 : Side := .hbm 0 [{ vpage := 0, ppage := 0, tag := false }] 0
def cwLoc : TmLoc := { team := 1, addr := 8 }

theorem copyPasses_of {s : State} {lane : Nat} {q : CopyReq} {src dst idx : Side} {x : TmLoc} {a : Nat}
    (h1 : placeOf s lane q.a = some src) (h2 : placeOf s lane q.d = some dst)
    (h3 : (match q.b with | some r => placeOf s lane r | none => some (.hbm 0 [] 0)) = some idx)
    (hw : q.cw = some (false, a)) (h4 : (s.checkSteps s.ct s.cg lane .tm a 8 true false true).toOption = some (.tm x)) :
    CopyPasses s lane q src dst idx (some x) := by
  refine ⟨h1, h2, h3, ?_⟩
  rw [hw]
  simp only [Bool.false_eq_true, if_false]
  rw [ok_of_option h4]

theorem copyIssues_of {i : Instr} {s : State} (h : freeAt i s)
    (h' : (s.cg.accepted == 0 && s.cg.heldOp.isNone) = true) : CopyIssues i s := by
  simp only [Bool.and_eq_true, beq_iff_eq, Option.isNone_iff_eq_none] at h'
  exact ⟨h.1, h.2, h'⟩

/-- A copy of 64 bytes in either direction. -/
def copyOp (src dst : Side) (ordered : Bool) : CopyOp :=
  { id := 3, team := 1, group := 0, lane := 0, pc := 4, slotgen := 0, ctx := 1, core := 0, kind := .plain, src := src,
    dst := dst, count := 64, todo := [0], ordered := ordered, cw := some cwLoc, waitingPeer := false, sampled := none,
    xlat := 0, noted := [] }
def tm64 : Side := .tm { team := 1, addr := 64 }

theorem test_met_CopiesAccepted :
    let i : Instr := .copyIn ⟨3, 4, cw5, md⟩
    ∀ n held, (n = 64 ∨ n = 0) →
      let s := { copying n with copies := if held then List.replicate 16 (copyOp page0 tm64 false) else [] }
      ∃ req, copyRequest s i = some req ∧ CopyIssues i s ∧ NoCache s ∧
        (∀ l, (s.active i).getLsbD l = true → (∀ x ∈ limitRows s l i, x.1 = false) ∧
          ∃ src dst, CopyPasses (s.drainAt i) l (req l) src dst (.hbm 0 [] 0) (some cwLoc)) ∧
        ((req 0).count = n.toNat) ∧ lanesOf (s.active i) = [0] ∧
        (held = true ↔ 16 ≤ s.copies.countP fun o => o.team == s.curTeam && o.group == s.curGroup) := by
  intro i n held hn s
  refine ⟨_, rfl, copyIssues_of (freeAt_of ?_) ?_, ?_, ?_, ?_, ?_, ?_⟩
  · rcases hn with rfl | rfl <;> cases held <;> decide +kernel
  · rcases hn with rfl | rfl <;> cases held <;> decide +kernel
  · unfold NoCache; rcases hn with rfl | rfl <;> cases held <;> decide +kernel
  · intro l h
    have h0 : ∀ l, l < 32 → (s.active i).getLsbD l = true → l = 0 := by
      rcases hn with rfl | rfl <;> cases held <;> decide +kernel
    obtain rfl := h0 l (lane_lt_of_active h) h
    rcases hn with rfl | rfl
    · refine ⟨?_, page0, .tm { team := 1, addr := 64 }, copyPasses_of (a := 8) ?_ ?_ ?_ ?_ ?_⟩ <;>
        cases held <;> decide +kernel
    · refine ⟨?_, .hbm 0 [] 0, .hbm 0 [] 0, copyPasses_of (a := 8) ?_ ?_ ?_ ?_ ?_⟩ <;>
        cases held <;> decide +kernel
  · rcases hn with rfl | rfl <;> cases held <;> decide +kernel
  · rcases hn with rfl | rfl <;> cases held <;> decide +kernel
  · rcases hn with rfl | rfl <;> cases held <;> decide +kernel

/-- Every copy-family instruction makes a request. -/
theorem test_met_copyRequest :
    [Instr.copyIn ⟨3, 4, cw5, md⟩, .copyOut ⟨3, 4, cw5, md⟩, .copySs 6 4 cw5 false md, .copyMm 6 4 cw5 md,
     .copyt ⟨3, 4, cw5, md⟩ true true, .gather ⟨3, 4, 6, cw5, 4, 12, md⟩, .scatter ⟨3, 4, 6, cw5, 0, 0, md⟩,
     .copytag 4 5 true cw5 md].all (fun i => (copyRequest (at_ i) i).isSome && canIssueB i (at_ i)) = true := by
  decide +kernel

/-- A count that is no multiple of 4, in lane 0. -/
theorem test_met_CopyLimits :
    let i : Instr := .copyIn ⟨3, 4, cw5, md⟩
    let s := copying 3
    ∃ req, copyRequest s i = some req ∧ CopyIssues i s ∧ s.cg.inSup = false ∧
      lanesOf (s.active i) = [0] ∧ ((limitRows s 0 i).filter fun x => x.1).head? = some (true, 3, 0) :=
  ⟨_, rfl, copyIssues_of (freeAt_of (by decide +kernel)) (by decide +kernel), by decide +kernel, by decide +kernel⟩

/-- The limits of R208 on ranges that overlap, on transposing copies, on gathers and on `copytag`. -/
theorem test_met_limitRows :
    (let s := putS 6 68 (putS 4 64 (putS 11 64 (at_ (.copySs 6 4 cw5 false md))))
     ((limitRows s 0 (.copySs 6 4 cw5 false md)).filter fun x => x.1).head? = some (true, 3, 0)) ∧
    (let s := putS 11 0x50004 (at_ (.copyt ⟨3, 4, cw5, md⟩ true true))
     ((limitRows s 0 (.copyt ⟨3, 4, cw5, md⟩ true true)).filter fun x => x.1).head? = some (true, 3, 0)) ∧
    (let s := putS 11 65537 (at_ (.gather ⟨3, 4, 6, cw5, 4, 12, md⟩))
     ((limitRows s 0 (.gather ⟨3, 4, 6, cw5, 4, 12, md⟩)).filter fun x => x.1).head? = some (true, 3, 0)) ∧
    (let s := putS 11 48 (putS 4 32 (at_ (.copytag 4 5 false cw5 md)))
     ((limitRows s 0 (.copytag 4 5 false cw5 md)).filter fun x => x.1).head? = some (true, 0x0C, 32)) := by
  decide +kernel

def cwOp : OpCw := { a := 5, b := 8, cl := false, w64 := true, off := 8, m := md }

theorem test_met_CompletionWords :
    (∀ i ∈ [Instr.cwinit cwOp, .cwadd cwOp, .cwwait cwOp, .cwtest 47 cwOp],
      let s := at_ i
      freeAt i s ∧ s.active i ≠ 0 ∧ ((s.cg.rs (5 : BitVec 6)).toNat + 8) % 2 ^ 32 % 8 = 0 ∧
        (s.drainAt i).checkRange (s.drainAt i).ct (s.drainAt i).cg 0 .tm 8 8 false false true = .ok (.tm cwLoc) ∧
        s.checkRange s.ct s.cg 0 .tm 8 8 false true false = .ok (.tm cwLoc) ∧ s.present cwLoc 8 = true ∧
        s.engineReads s.ct.core cwLoc 8 s.fresh = true ∧ s.cg.rs64 (8 : BitVec 6) ≤ leNat (s.tmBytes cwLoc 8)) ∧
    (let s := putS 8 1 (at_ (.cwwait cwOp))
     freeAt (.cwwait cwOp) s ∧ s.active (.cwwait cwOp) ≠ 0 ∧ ¬ s.cg.rs64 (8 : BitVec 6) ≤ leNat (s.tmBytes cwLoc 8)) ∧
    (let s := (at_ (.cwtest 47 cwOp)).modCt fun t => { t with absent := [(0, [(9, 0, 0)])] }
     freeAt (.cwtest 47 cwOp) s ∧ s.active (.cwtest 47 cwOp) ≠ 0 ∧ s.present cwLoc 8 = false) := by
  refine ⟨?_, ⟨freeAt_of (by decide +kernel), by decide +kernel⟩, ⟨freeAt_of (by decide +kernel), by decide +kernel⟩⟩
  intro i h
  simp only [List.mem_cons, List.not_mem_nil, or_false] at h
  rcases h with rfl | rfl | rfl | rfl <;>
    exact ⟨freeAt_of (by decide +kernel), by decide +kernel, by decide +kernel, ok_of_option (by decide +kernel),
      ok_of_option (by decide +kernel), by decide +kernel⟩

/-- One operation and nothing else. -/
def only (o : CopyOp) : State := { at_ (.nop md) with copies := [o] }

theorem unitRuns_of {o : CopyOp} {j : Nat} {e : Instr}
    (h : (o.todo.contains j && (only o).unitReady o j && o.sampled.isNone && !o.waitingPeer) = true)
    (he : e = if o.ordered then .reorderBufferRelease 0 j else .homePerform 0 j) : UnitRuns (only o) 0 j o e := by
  simp only [Bool.and_eq_true, Bool.not_eq_true', List.contains_iff_mem, Option.isNone_iff_eq_none] at h
  obtain ⟨⟨⟨h1, h2⟩, h3⟩, h4⟩ := h
  refine ⟨rfl, fun k x hx _ => ?_, h1, h2, ⟨h3, h4⟩, ?_, ⟨rfl, rfl, rfl, rfl⟩⟩
  · cases k with
    | zero => rfl
    | succ k => cases hx
  · subst he
    cases ho : o.ordered
    · exact .inl ⟨rfl, rfl⟩
    · exact .inr ⟨rfl, rfl⟩

/-- No byte that a unit writes is one that it reads. -/
theorem apart_of {s : State} {o : CopyOp} {offs : List Nat} {dst : Side}
    (h : (offs.all fun off => (readsOf s o off).all fun x => offs.all fun off' =>
      (physAt s dst off').isNone || physAt s x.1 x.2 != physAt s dst off') = true) :
    ∀ off ∈ offs, ∀ x ∈ readsOf s o off, ∀ off' ∈ offs, ∀ p, physAt s dst off' = some p → physAt s x.1 x.2 ≠ some p := by
  simp only [List.all_eq_true, Bool.or_eq_true, Option.isNone_iff_eq_none, bne_iff_ne, ne_eq] at h
  intro off h1 x h2 off' h3 p hp e
  rcases h off h1 x h2 off' h3 with h | h
  · rw [h] at hp; cases hp
  · exact h (e.trans hp.symm)

theorem plainTm {s : State} {k a n : Nat} (h : ((s.team? k).isSome && decide (a + n ≤ round4k (s.team k).tmSize)) = true) :
    PlainPlace s (.tm { team := k, addr := a }) n := by
  simpa [PlainPlace] using h

theorem plainHbm {s : State} {va n : Nat} {p : List PageMap} {t : BitVec 4} (h : ∀ q ∈ p, q.tag = false) :
    PlainPlace s (.hbm va p t) n ∧ PlainSource (.hbm va p t) := ⟨h, h⟩

/-- Eight bytes in either direction; a transposing copy of 2 by 4 bytes; a gather of two words by the list at
offset 128, its window one word. -/
def blockOp (src dst : Side) (ordered : Bool) (k : CopyKind) (count : Nat) : CopyOp :=
  { copyOp src dst ordered with kind := k, count := count }
def tm128 : Side := .tm { team := 1, addr := 128 }

theorem test_met_BlocksMove :
    ∀ o ∈ [blockOp page0 tm64 true .plain 8, blockOp tm64 page0 false .plain 8,
        blockOp tm128 tm64 false (.transpose 2 4 1) 8, blockOp page0 tm64 false (.gather 4 4 tm128) 2],
      UnitRuns (only o) 0 0 o (if o.ordered then .reorderBufferRelease 0 0 else .homePerform 0 0) ∧
      0 < unitCount o.kind o.dst o.dstLen o.count ∧ PlainPlace (only o) o.dst o.dstLen ∧ PlainSource o.src ∧
      PlainSource tm128 ∧ o.unitRange 0 = List.range 8 ∧
      ∀ off ∈ o.unitRange 0, ∀ x ∈ readsOf (only o) o off, ∀ off' ∈ o.unitRange 0, ∀ p,
        physAt (only o) o.dst off' = some p → physAt (only o) x.1 x.2 ≠ some p := by
  have hp : ∀ q ∈ [({ vpage := 0, ppage := 0, tag := false } : PageMap)], q.tag = false := by decide
  intro o h
  simp only [List.mem_cons, List.not_mem_nil, or_false] at h
  rcases h with rfl | rfl | rfl | rfl
  · exact ⟨unitRuns_of (by decide +kernel) rfl, by decide +kernel, plainTm (by decide +kernel),
      (plainHbm (s := only (blockOp page0 tm64 true .plain 8)) (n := 0) hp).2, trivial, by decide +kernel, apart_of (by decide +kernel)⟩
  · exact ⟨unitRuns_of (by decide +kernel) rfl, by decide +kernel, (plainHbm hp).1, trivial, trivial, by decide +kernel,
      apart_of (by decide +kernel)⟩
  · exact ⟨unitRuns_of (by decide +kernel) rfl, by decide +kernel, plainTm (by decide +kernel), trivial, trivial,
      by decide +kernel, apart_of (by decide +kernel)⟩
  · exact ⟨unitRuns_of (by decide +kernel) rfl, by decide +kernel, plainTm (by decide +kernel),
      (plainHbm (s := only (blockOp page0 tm64 true .plain 8)) (n := 0) hp).2, trivial, by decide +kernel, apart_of (by decide +kernel)⟩

/-- A scatter of one word within its window, and outside an empty one; `copytag` of one granule. -/
theorem test_met_ElementsScatter :
    (∀ len, len = 4 ∨ len = 0 →
      let o := blockOp tm64 page0 false (.scatter 4 len tm128) 1
      UnitRuns (only o) 0 0 o (.homePerform 0 0) ∧ PlainSource o.dst ∧ PlainSource o.src ∧
      PlainSource tm128 ∧ indexAt (only o) tm128 0 = 0 ∧
      ∀ i, i < 4 → ∀ i', i' < 4 → ∀ a, physAt (only o) o.dst (0 + i') = some a → physAt (only o) o.src (0 * 4 + i) ≠ some a) ∧
    (let o := blockOp tm64 tm64 false (.copytag 5) 32
     UnitRuns (only o) 0 0 o (.homePerform 0 0) ∧ PlainPlace (only o) o.dst o.count ∧ o.dst.start % 32 = 0 ∧
       32 * 0 + 32 ≤ o.count) := by
  have hp : ∀ q ∈ [({ vpage := 0, ppage := 0, tag := false } : PageMap)], q.tag = false := by decide
  refine ⟨?_, unitRuns_of (by decide +kernel) rfl, plainTm (by decide +kernel), by decide +kernel, by decide +kernel⟩
  rintro len (rfl | rfl) <;>
    exact ⟨unitRuns_of (by decide +kernel) rfl, hp, trivial, trivial, by decide +kernel, fun i _ i' _ a ha e => by
      rw [← ha] at e; simp [blockOp, copyOp, physAt, tm64, page0, Side.page] at e⟩

theorem test_met_CopyCompletes :
    let o := { copyOp page0 tm64 false with todo := [] }
    let s := only o
    s.copies[0]? = some o ∧ o.todo = [] ∧ Alive s o.team ∧ Released s o.team o.group o.id ∧ WordFree s (s.team o.team).core cwLoc :=
  ⟨by decide +kernel, by decide +kernel, alive_of (by decide +kernel), fun p hp => absurd hp (List.not_mem_nil (a := p)),
    by unfold WordFree; decide +kernel⟩

/-! ### Hypotheses met: Tile, the accumulator store, Chain -/

/-- The team has 64 accumulator rows, the context owns the store, and the window is all of them. -/
def withRows (s : State) : State :=
  ((s.modCore 0 fun c => { c with accowner := 0x80000001 }).modCt fun t => { t with rows := 64 }).modCg
    fun g => { g with acclim := 64 }
def putTm (a : Nat) (bs : List Byte) (s : State) : State := s.modCt fun t => { t with tm := t.tm.writeN a bs }
def lastRow : Row := { a := 0, ax := false, roff := 63 }

/-- The descriptor of two rows of four f16 elements at the address, with a stride of 16 bytes. -/
def descriptor : List Byte :=
  leBytes 4 0xFE0 ++ leBytes 4 24 ++ leBytes 2 2 ++ leBytes 2 4 ++ leBytes 4 16 ++ leBytes 4 0 ++ leBytes 4 0 ++ leBytes 8 0
def berthA : Berth :=
  { team := 1, group := 0, base := 0xFE0, length := 24, rows := 2, cols := 4, stride := 16, fmt := 0, layout := 0,
    bl := 0, scale := 0 }
def berthB : Berth :=
  { team := 1, group := 0, base := 0x400, length := 64, rows := 4, cols := 1, stride := 16, fmt := 0, layout := 0,
    bl := 0, scale := 0 }
def berthed (s : State) : State :=
  (withRows s).modCore 0 fun c => { c with berths := [(1, berthA), (2, berthB)] }

theorem test_met_BerthRecords :
    (let i : Instr := .berth 5 31 md
     let s := putTm 64 descriptor (putS 5 64 (at_ i))
     let x : TmLoc := { team := 1, addr := 64 }
     freeAt i s ∧ s.active i ≠ 0 ∧ s.checkElem s.ct s.cg 0 .tm (s.cg.rs (5 : BitVec 6)).toNat 32 true false = .ok (.tm x) ∧
       s.engineReads s.ct.core x 32 s.fresh = true ∧ s.berthBusy s.ct.core 31 = false ∧
       tfind (s.core s.ct.core).berths 31 = none ∧
       (let bs := s.laneBytes 0 x 32
        s.berthCheck i (parseBerth 1 0 bs) ((bs.getD 0x13 0 != 0) || (bs.drop 0x18).any (· != 0)) = none)) ∧
    (let i : Instr := .unberth ⟨5, md⟩
     ∀ s, s = putS 5 31 (at_ i) ∨ s = putS 5 1 (berthed (at_ i)) →
       CanIssue i s ∧ (s.cg.rs (5 : BitVec 6)).toNat ≤ 31 ∧ s.berthBusy s.ct.core (s.cg.rs (5 : BitVec 6)).toNat = false ∧
         s.active i ≠ 0 ∧ (tfind (s.core s.ct.core).berths (s.cg.rs (5 : BitVec 6)).toNat).all
           (fun r => r.team == s.curTeam && r.group == s.curGroup) = true) := by
  refine ⟨⟨freeAt_of (by decide +kernel), by decide +kernel, ok_of_option (by decide +kernel), by decide +kernel⟩, ?_⟩
  rintro i s (rfl | rfl) <;> exact ⟨canIssue_of (by decide +kernel), by decide +kernel⟩

theorem test_met_MatrixSmall :
    (∀ ta ∈ [MmTy.f16, .bf16, .e4m3, .e5m2],
      let o : OpDABC := ⟨8, 16, 32, 64, md⟩
      let i : Instr := .mmas o ta ta
      let s := at_ i
      CanIssue i s ∧ (∀ l, l < 32 → (s.active i).getLsbD l = true) ∧ ∀ fl, ¬ meetsEnable s.cg fl) ∧
    (let i : Instr := .mmas ⟨8, 16, 32, 64, md⟩ .f16 .f16
     let s := oneLane (at_ i)
     CanIssue i s ∧ s.cg.inSup = false ∧ (s.active i).getLsbD 31 = false ∧ (s.active i).getLsbD 0 = true) := by
  refine ⟨?_, canIssue_of (by decide +kernel), by decide +kernel⟩
  intro ta h
  simp only [List.mem_cons, List.not_mem_nil, or_false] at h
  rcases h with rfl | rfl | rfl | rfl <;> exact ⟨canIssue_of (by decide +kernel), by decide +kernel, fun _ => untrapped (by decide +kernel)⟩

/-- Accumulate into the last row of the window, with the last completion word of team memory. -/
def block : List Byte :=
  leBytes 4 0x10201 ++ leBytes 4 62 ++ leBytes 2 2 ++ leBytes 2 1 ++ leBytes 4 4088 ++ leBytes 16 0
def mmaxAt : State := putTm 64 block (putG 5 64 (oneLane (berthed (at_ (.mmax ⟨5, md⟩)))))

theorem test_met_MatrixIssue :
    let i : Instr := .mmax ⟨5, md⟩
    let s := mmaxAt
    let x : TmLoc := { team := 1, addr := 64 }
    freeAt i s ∧ lanesOf (s.active i) = [0] ∧ s.cg.accepted = 0 ∧ s.firstUse s.ct = false ∧
      (s.drainAt i).checkElem (s.drainAt i).ct (s.drainAt i).cg 0 .tm (s.cg.rg (5 : BitVec 7) 0).toNat 32 true false = .ok (.tm x) ∧
      (s.drainAt i).engineReads s.ct.core x 32 (s.drainAt i).fresh = true ∧
      (s.drainAt i).mmaxChecks 0 (parseMmax ((s.drainAt i).tmBytes x 32)) = .ok (berthA, berthB) ∧
      s.mmaxRoom = true ∧ s.rowsOwned s.curTeam s.curGroup 62 2 = false ∧ s.mmaxs = [] :=
  ⟨freeAt_of (by decide +kernel), by decide +kernel, by decide +kernel, by decide +kernel,
    ok_of_option (by decide +kernel), by decide +kernel, ok_of_option (by decide +kernel), by decide +kernel⟩

/-- The accepted operation, before and after it has read, for each operator. -/
def mmaxOf (operator : Nat) (read : Bool) : MmaxOp :=
  { id := 3, team := 1, group := 0, core := 0, a := 1, b := 2, m := 2, k := 4, n := 1, operator := operator, row := 62,
    rows := 2, vr := 2, vc := 1, fa := 0, fb := 0, bl := 0, ranges := [(0xFE0, 24), (0x400, 64)],
    aElems := if read then List.replicate 8 0x3C00 else [], bElems := if read then List.replicate 4 0x3C00 else [],
    readDone := read, cw := { team := 1, addr := 4088 }, lane := 0, pc := 4, slotgen := 0, seq := 1 }

theorem test_met_MatrixResult :
    (∀ operator, operator < 3 →
      let o := mmaxOf operator false
      let s := { berthed (at_ (.nop md)) with mmaxs := [o] }
      s.mmaxs[0]? = some o ∧ o.readDone = false ∧ tfind (s.core o.core).berths o.a = some berthA ∧
        tfind (s.core o.core).berths o.b = some berthB ∧ (∀ r ∈ o.ranges, s.rangeStands o r = true) ∧
        s.eccTm = [] ∧ s.poisonTm = []) ∧
    (∀ operator, operator < 3 →
      let o := mmaxOf operator true
      let s := { berthed (at_ (.nop md)) with mmaxs := [o] }
      let t := s.team o.team
      s.mmaxs[0]? = some o ∧ o.readDone = true ∧ WordFree s t.core o.cw ∧ Released s o.team o.group o.id ∧ s.eccRows = [] ∧
        o.vr ≤ o.m ∧ (o.operator = 2 → o.vc ≤ 16) ∧ Alive s o.team ∧ o.core = t.core ∧ o.cw.team = o.team ∧
        o.cw.addr + 8 ≤ round4k t.tmSize) := by
  refine ⟨by decide +kernel, ?_⟩
  intro operator h
  obtain rfl | rfl | rfl : operator = 0 ∨ operator = 1 ∨ operator = 2 := by omega
  all_goals exact ⟨by decide +kernel, by decide +kernel, by unfold WordFree; decide +kernel,
    fun p hp => absurd hp (List.not_mem_nil (a := p)), by decide +kernel, by decide +kernel, by decide +kernel,
    alive_of (by decide +kernel), by decide +kernel⟩

theorem touchPasses_of {s : State} {i : Instr} {r : Row} {n : Nat}
    (h : (s.active i != 0 && !s.firstUse s.ct && decide (s.cg.accbase.toNat + rowRef s.cg r + n ≤ s.cg.acclim.toNat) &&
      !s.rowsOwned s.curTeam s.curGroup (s.cg.accbase.toNat + rowRef s.cg r) n) = true) : TouchPasses s i r n := by
  simp only [Bool.and_eq_true, bne_iff_ne, ne_eq, Bool.not_eq_true', decide_eq_true_eq] at h
  exact ⟨h.1.1.1, h.1.1.2, h.1.2, h.2⟩

theorem test_met_AccumulatorRows :
    (let i : Instr := .accw 4 5 6 md
     let s := putS 5 64 (withRows (at_ i))
     CanIssue i s ∧ s.active i ≠ 0 ∧ s.curGroup = 0 ∧ (s.cg.rs (4 : BitVec 6)).toNat < s.ct.groups.length ∧
       (s.cg.rs (5 : BitVec 6)).toNat ≤ s.ct.rows ∧ (s.cg.rs (6 : BitVec 6)).toNat ≤ s.ct.rows ∧ (s.ct.group? 0).isSome = true) ∧
    (∀ i ∈ [Instr.accst lastRow 8 md, .accld 8 lastRow md],
      let s := withRows (at_ i)
      CanIssue i s ∧ TouchPasses s i lastRow 1 ∧
        ∀ l, l < 32 → (s.active i).getLsbD l = true → s.wordEcc s.ct 63 l = false) ∧
    (∀ r : Row, r = lastRow ∨ r = { lastRow with roff := 64 } →
      let i : Instr := .accz r (if r = lastRow then 1 else 0) md
      let s := withRows (at_ i)
      CanIssue i s ∧ TouchPasses s i r (if r = lastRow then 1 else 0)) ∧
    (let s := at_ (.accflg 4 md)
     CanIssue (.accflg 4 md) s ∧ s.active (.accflg 4 md) ≠ 0) := by
  refine ⟨⟨canIssue_of (by decide +kernel), by decide +kernel⟩, ?_, ?_, canIssue_of (by decide +kernel), by decide +kernel⟩
  · intro i h
    simp only [List.mem_cons, List.not_mem_nil, or_false] at h
    rcases h with rfl | rfl <;>
      exact ⟨canIssue_of (by decide +kernel), touchPasses_of (by decide +kernel), by decide +kernel⟩
  · rintro r (rfl | rfl) <;> exact ⟨canIssue_of (by decide +kernel), touchPasses_of (by decide +kernel)⟩

theorem test_met_AccumulatorTraps :
    ∀ i ∈ [Instr.accst { lastRow with roff := 64 } 8 md, .accld 8 { lastRow with roff := 64 } md,
        .accz { lastRow with roff := 64 } 1 md],
      (CanIssue i (withRows (at_ i)) ∧ (withRows (at_ i)).cg.inSup = false ∧ (withRows (at_ i)).active i ≠ 0 ∧
        (withRows (at_ i)).firstUse (withRows (at_ i)).ct = false ∧
        (withRows (at_ i)).cg.acclim.toNat < (withRows (at_ i)).cg.accbase.toNat +
          rowRef (withRows (at_ i)).cg { lastRow with roff := 64 } + 1) ∧
      (CanIssue i (at_ i) ∧ (at_ i).cg.inSup = false ∧ (at_ i).active i ≠ 0 ∧ (at_ i).firstUse (at_ i).ct = true) := by
  intro i h
  simp only [List.mem_cons, List.not_mem_nil, or_false] at h
  rcases h with rfl | rfl | rfl <;>
    exact ⟨⟨canIssue_of (by decide +kernel), by decide +kernel⟩, canIssue_of (by decide +kernel), by decide +kernel⟩

/-- A word of the last row that lane 31 reads is uncorrectable; a chain of the group is to write the row. -/
theorem test_met_AccumulatorTraps_accld :
    let i : Instr := .accld 8 lastRow md
    let s := withRows (at_ i)
    let e := { s with eccRows := [(0, 32 * 63 + 31)] }
    let w := s.modCg fun g => { g with chprog := some { stoppedChain with row := 63, n := 1 } }
    (CanIssue i e ∧ e.cg.inSup = false ∧ TouchPasses e i lastRow 1 ∧
      ∃ l, (e.active i).getLsbD l = true ∧ e.wordEcc e.ct 63 l = true) ∧
    (CanIssue i w ∧ w.active i ≠ 0 ∧ w.firstUse w.ct = false ∧
      w.cg.accbase.toNat + rowRef w.cg lastRow + 1 ≤ w.cg.acclim.toNat ∧
      w.rowsOwned w.curTeam w.curGroup (w.cg.accbase.toNat + rowRef w.cg lastRow) 1 = true) :=
  ⟨⟨canIssue_of (by decide +kernel), by decide +kernel, touchPasses_of (by decide +kernel), 31, by decide +kernel⟩,
    canIssue_of (by decide +kernel), by decide +kernel⟩

/-- A `chain` in an execution that has written its carry register before. -/
theorem test_met_ChainIssue_older :
    let i : Instr := .chst 7 4 0 md
    let s := (putS 4 64 (at_ i)).modCg fun g =>
      { g with older := [⟨7, true, List.replicate 32 5⟩, ⟨7, false, List.replicate 32 6⟩] }
    freeAt i s ∧ (s.cg.older.find? fun y => y.k == 7 && !(true && y.byChain)).map (·.words) =
      some (List.replicate 32 6) :=
  ⟨freeAt_of (by decide +kernel), by decide +kernel⟩

/-- The last bytes that the elements of a row, or the codes, may take. -/
theorem test_met_ConvertedOutput :
    (∀ ty ∈ [FTy.f32, .f16, .bf16, .e4m3, .e5m2],
      let e := match ty with | .f32 => 4 | .f16 | .bf16 => 2 | _ => 1
      let i : Instr := .accout 4 lastRow 8 ty .rs false 0 md
      let s := putS 4 (BitVec.ofNat 32 (4096 - 32 * e)) (withRows (at_ i))
      let x : TmLoc := { team := 1, addr := 4096 - 32 * e }
      freeAt i s ∧ TouchPasses s i lastRow 1 ∧ s.rowsEcc s.ct 63 1 = false ∧ (s.cg.rs (4 : BitVec 6)).toNat % 16 = 0 ∧
        (s.drainAt i).checkRange (s.drainAt i).ct (s.drainAt i).cg 0 .tm (s.cg.rs (4 : BitVec 6)).toNat (32 * 1 * e) true false true =
          .ok (.tm x) ∧ (s.drainAt i).writable x (32 * 1 * e) = true) ∧
    (∀ bl32 : Bool, ∀ ty : BitVec 2,
      let nb := if bl32 then 1 else 2
      let i : Instr := .cvtb 4 8 5 ty bl32 md
      let s := putS 4 4080 (putS 5 (BitVec.ofNat 32 (4080 - nb)) (at_ i))
      let x : TmLoc := { team := 1, addr := 4080 }
      let y : TmLoc := { team := 1, addr := 4080 - nb }
      freeAt i s ∧ s.active i ≠ 0 ∧ (s.cg.rs (4 : BitVec 6)).toNat % 16 = 0 ∧ (s.cg.rs (5 : BitVec 6)).toNat % nb = 0 ∧
        (s.drainAt i).checkRange (s.drainAt i).ct (s.drainAt i).cg 0 .tm (s.cg.rs (4 : BitVec 6)).toNat 16 true false true = .ok (.tm x) ∧
        (s.drainAt i).checkRange (s.drainAt i).ct (s.drainAt i).cg 0 .tm (s.cg.rs (5 : BitVec 6)).toNat nb true false true = .ok (.tm y) ∧
        y.addr + nb ≤ x.addr ∧ (s.drainAt i).writable x 16 = true ∧ (s.drainAt i).writable y nb = true) := by
  refine ⟨?_, ?_⟩
  · intro ty h
    simp only [List.mem_cons, List.not_mem_nil, or_false] at h
    rcases h with rfl | rfl | rfl | rfl | rfl <;>
      exact ⟨freeAt_of (by decide +kernel), touchPasses_of (by decide +kernel), by decide +kernel, by decide +kernel,
        ok_of_option (by decide +kernel), by decide +kernel⟩
  · intro bl32 ty
    obtain rfl | rfl | rfl | rfl : ty = 0 ∨ ty = 1 ∨ ty = 2 ∨ ty = 3 := by revert ty; decide
    all_goals cases bl32 <;>
      exact ⟨freeAt_of (by decide +kernel), by decide +kernel, by decide +kernel, by decide +kernel,
        ok_of_option (by decide +kernel), ok_of_option (by decide +kernel), by decide +kernel⟩

/-- One row; and 4,096 rows, in a window of that size, with every pair in the mask. -/
theorem test_met_ChainIssue :
    (∀ i ∈ [Instr.chain 7 lastRow 4 5 md, .chapply 7 lastRow 4 md],
      let s := putS 4 1 (putS 5 0xFFFF (withRows (at_ i)))
      freeAt i s ∧ s.cg.chprog = none ∧ TouchPasses s i lastRow (s.cg.rs (4 : BitVec 6)).toNat ∧
        1 ≤ (s.cg.rs (4 : BitVec 6)).toNat ∧ (s.cg.rs (4 : BitVec 6)).toNat ≤ 4096 ∧ (s.cg.rs (5 : BitVec 6)).toNat < 65536) ∧
    (let i : Instr := .chain 7 { lastRow with roff := 0 } 4 5 md
     let s := (putS 4 4096 (withRows (at_ i))).modCg fun g => { g with acclim := 4096 }
     freeAt i s ∧ s.cg.chprog = none ∧ TouchPasses s i { lastRow with roff := 0 } (s.cg.rs (4 : BitVec 6)).toNat ∧
       (s.cg.rs (4 : BitVec 6)).toNat = 4096) ∧
    (∀ store : Bool,
      let i : Instr := if store then .chst 7 4 (-1024) md else .chld 7 4 (-1024) md
      let s := putS 4 4992 (at_ i)
      let p := (BitVec.ofInt 32 ((s.cg.rs (4 : BitVec 6)).toNat + (-1024 : BitVec 11).toInt)).toNat
      let x : TmLoc := { team := 1, addr := 3968 }
      freeAt i s ∧ s.active i ≠ 0 ∧ s.cg.chprog = none ∧ p % 16 = 0 ∧
        (s.drainAt i).checkSteps (s.drainAt i).ct (s.drainAt i).cg 0 .tm p 128 true (!store) store = .ok (.tm x) ∧
        (store = false → (s.drainAt i).present x 128 = true)) ∧
    (let i : Instr := .chldId 0 md
     freeAt i (at_ i) ∧ (at_ i).active i ≠ 0 ∧ (at_ i).cg.chprog = none) := by
  refine ⟨?_, ⟨freeAt_of (by decide +kernel), by decide +kernel, touchPasses_of (by decide +kernel), by decide +kernel⟩, ?_,
    freeAt_of (by decide +kernel), by decide +kernel⟩
  · intro i h
    simp only [List.mem_cons, List.not_mem_nil, or_false] at h
    rcases h with rfl | rfl <;>
      exact ⟨freeAt_of (by decide +kernel), by decide +kernel, touchPasses_of (by decide +kernel), by decide +kernel⟩
  · intro store
    cases store <;> exact ⟨freeAt_of (by decide +kernel), by decide +kernel, by decide +kernel, by decide +kernel,
      ok_of_option (by decide +kernel), by decide +kernel⟩

def chainOf (kind : ChainKind) (n chunk : Nat) : ChainOp :=
  { id := 3, kind := kind, b := 0, row := 0, n := n, mask := 0xFFFF, carry := 7, chunk := chunk, pc := 4, stopped := false,
    failed := false, handler := none, seq := 1, carryIn := none }
def chaining (o : ChainOp) : State := (withRows (at_ (.nop md))).modCg fun g => { g with chprog := some o }

theorem test_met_ChainChunks :
    (∀ o ∈ [chainOf .chain 33 0, chainOf .chain 33 1, chainOf .chapply 1 0,
        { chainOf .chapply 64 1 with carryIn := some (List.replicate 32 5) }],
      let s := chaining o
      (s.group 1 0).hasHalted = false ∧
      ((s.team 1).group? 0).isSome = true ∧ (s.group 1 0).chprog = some o ∧ o.stopped = false ∧ o.failed = false ∧
        (s.team 1).restoreMark = none ∧ (s.team 1).clearMark = false ∧ (o.kind = .chain ∨ o.kind = .chapply) ∧ s.eccRows = [] ∧ Alive s 1 ∧ 0 < min 32 (o.n - 32 * o.chunk)) ∧
    (∀ o ∈ [chainOf .chldId 0 0, chainOf (.chld 3968) 0 0, chainOf (.chst 3968) 0 0],
      let s := chaining o
      ((s.team 1).group? 0).isSome = true ∧ (s.group 1 0).chprog = some o ∧ o.stopped = false ∧ Alive s 1 ∧
        s.eccTm = [] ∧ s.poisonTm = [] ∧ s.engineReads (s.team 1).core { team := 1, addr := 3968 } 128 o.id = true ∧
        s.berthHeld o.id { team := 1, addr := 3968 } 128 = false ∧
        3968 + 128 ≤ round4k (s.team 1).tmSize) := by
  refine ⟨?_, ?_⟩ <;> intro o h <;> simp only [List.mem_cons, List.not_mem_nil, or_false] at h
  · rcases h with rfl | rfl | rfl | rfl <;>
      exact ⟨by decide +kernel, by decide +kernel, by decide +kernel, by decide +kernel, by decide +kernel,
        by decide +kernel, by decide +kernel, by decide +kernel, by decide +kernel, alive_of (by decide +kernel),
        by decide +kernel⟩
  · rcases h with rfl | rfl | rfl <;>
      exact ⟨by decide +kernel, by decide +kernel, by decide +kernel, alive_of (by decide +kernel), by decide +kernel⟩

/-! ### Hypotheses met: Ferry -/

def ret0 : RetAddr := { core := 0, entry := 15, gen := 1, slot := 1, serial := 1 }
/-- A slip of the issuing team, of two slots at the end of team memory. -/
def slipOf (closed : Bool) (slots : List SlipSlot) (queue : List Nat) : Slip :=
  { closed := closed, team := 1, base := 4064, rowLen := 16, slots := slots, queue := queue }
def withSlip (x : Slip) (s : State) : State := s.modCore 0 fun c => { c with slips := [(15, x)] }

theorem test_met_Slips_records :
    (∀ s, s = putS 4 4064 (at_ (.slip 15 1 0 4 md)) ∨
        s = withSlip (slipOf true [.free, .free] []) (putS 4 4064 (at_ (.slip 15 1 0 4 md))) →
      let i : Instr := .slip 15 1 0 4 md
      CanIssue i s ∧ s.active i ≠ 0 ∧ (s.place s.ct s.cg .tm (s.cg.rs (4 : BitVec 6)).toNat 1).isSome = true ∧
        (s.cg.rs (4 : BitVec 6)).toNat % 16 = 0 ∧ (s.cg.rs (4 : BitVec 6)).toNat % 2 ^ 21 + 2 * 16 ≤ s.ct.tmSize ∧
        (slipAt s s.ct.core 15).all (fun x => x.team == s.curTeam && x.closed && x.slots.all (· == .free)) = true) ∧
    (let i : Instr := .slipcl ⟨5, md⟩
     let x := slipOf false [.free, .arrived ret0] [1]
     let s := withSlip x (putS 5 15 (at_ i))
     CanIssue i s ∧ s.active i ≠ 0 ∧ (s.cg.rs (5 : BitVec 6)).toNat = 15 ∧ slipAt s s.ct.core 15 = some x ∧
       x.team = s.curTeam) := by
  refine ⟨?_, canIssue_of (by decide +kernel), by decide +kernel⟩
  rintro s (rfl | rfl) <;> exact ⟨canIssue_of (by decide +kernel), by decide +kernel⟩

theorem test_met_Slips_rows :
    (let i : Instr := .take 4 15 md
     let x := slipOf false [.free, .free] []
     let s := withSlip x (at_ i)
     freeAt i s ∧ s.active i ≠ 0 ∧ slipAt s s.ct.core 15 = some x ∧ x.team = s.curTeam ∧ x.queue = []) ∧
    (let i : Instr := .take 4 15 md
     let x := slipOf false [.free, .arrived ret0] [1]
     let s := withSlip x (at_ i)
     freeAt i s ∧ s.active i ≠ 0 ∧ slipAt s s.ct.core 15 = some x ∧ x.team = s.curTeam ∧ x.queue = [1] ∧
       x.slots[1]? = some (.arrived ret0) ∧
       SlotPasses s 0 x 1) ∧
    (let i : Instr := .land 15 5 md
     let x := slipOf false [.free, .taken ret0] []
     let s := withSlip x (putS 5 1 (at_ i))
     let place : TmLoc := { team := 1, addr := 4080 }
     freeAt i s ∧ s.active i ≠ 0 ∧ slipAt s s.ct.core 15 = some x ∧ x.team = s.curTeam ∧
       x.slots[(s.cg.rs (5 : BitVec 6)).toNat]? = some (.taken ret0) ∧
       SlotPasses (s.drainAt i) 0 x 1 ∧ (s.drainAt i).engineReads s.ct.core place x.rowLen (s.drainAt i).fresh = true ∧
       s.eccTm = [] ∧ s.poisonTm = []) :=
  ⟨⟨freeAt_of (by decide +kernel), by decide +kernel⟩,
    ⟨freeAt_of (by decide +kernel), by decide +kernel, by decide +kernel, by decide +kernel, by decide +kernel,
      by decide +kernel, by unfold SlotPasses; decide +kernel⟩,
    freeAt_of (by decide +kernel), by decide +kernel, by decide +kernel, by decide +kernel, by decide +kernel,
      by unfold SlotPasses; decide +kernel, by decide +kernel⟩

/-- The parameters of one row of FP32 elements with one slot or two: source at 256, output at 512,
routing at 1024, routes at 2048, completion word at 4088. -/
def parOf (k : Nat) (pass : Bool) (timeout : Nat) : FerryParams :=
  { src := 256, out := 512, routing := 1024, routes := 2048, rows := 1, rowLen := 16, bf16 := false, k := k, pass := pass,
    timeout := timeout, cw := 4088 }
def entryOf (status : List Nat) (timer : Option Nat) (complete : Bool) : Landing :=
  { id := 3, complete := complete, team := 1, group := 0, lane := 0, pc := 4, gen := 1,
    par := parOf status.length true (timer.getD 0), timer := timer, status := status,
    answered := List.replicate status.length false, weights := List.replicate status.length 0x3F800000,
    landed := if status.getLast? = some 1 then [(status.length - 1, List.replicate 16 0)] else [], written := [false] }
def withEntry (x : Landing) (s : State) : State := s.modCore 0 fun c => { c with landing := [(15, x)] }

theorem test_met_LandingTable :
    (∀ s, s = putG 5 15 (putG 6 1 (at_ (.ltstat ⟨4, 5, 6, md⟩))) ∨
        s = withEntry (entryOf [0, 1] none false) (putG 5 15 (putG 6 1 (at_ (.ltstat ⟨4, 5, 6, md⟩)))) →
      let i : Instr := .ltstat ⟨4, 5, 6, md⟩
      CanIssue i s ∧ s.active i ≠ 0 ∧ ∀ l, l < 32 → (s.cg.rg (5 : BitVec 7) l).toNat ≤ 15 ∧
        (entryAt s s.ct.core (s.cg.rg (5 : BitVec 7) l).toNat).all (fun x => x.team == s.curTeam) = true) ∧
    (let i : Instr := .ltfree ⟨5, md⟩
     let s := withEntry (entryOf [1, 1] none true) (putG 5 15 (at_ i))
     CanIssue i s ∧ s.active i ≠ 0 ∧ ∀ l, l < 32 → (s.cg.rg (5 : BitVec 7) l).toNat ≤ 15 ∧
        (entryAt s s.ct.core (s.cg.rg (5 : BitVec 7) l).toNat).all (fun x => x.team == s.curTeam && x.complete) = true) := by
  refine ⟨?_, canIssue_of (by decide +kernel), by decide +kernel, by decide +kernel⟩
  rintro s (rfl | rfl) <;> exact ⟨canIssue_of (by decide +kernel), by decide +kernel, by decide +kernel⟩

/-- One row, two slots, experts 0 and 63 on slips 15 and 0 of cores 0 and 95. -/
def ferryBlock : List Byte :=
  leBytes 4 256 ++ leBytes 4 512 ++ leBytes 4 1024 ++ leBytes 4 2048 ++ leBytes 2 1 ++ leBytes 2 16 ++
    [0, 2, 1, 15] ++ leBytes 4 7 ++ leBytes 4 4088
def ferrying : State :=
  putTm 1024 (leBytes 8 (0x3F800000 * 2 ^ 32) ++ leBytes 8 (0x40000000 * 2 ^ 32 + 63))
    (putTm 2048 (leBytes 4 0x8000F000) (putTm 2300 (leBytes 4 0x8000005F)
      (putTm 64 ferryBlock (putG 5 64 (oneLane (at_ (.ferry ⟨5, md⟩)))))))

theorem test_met_Ferries :
    let i : Instr := .ferry ⟨5, md⟩
    let s := ferrying
    let s0 := s.drainAt i
    let at_ (p : Nat) : TmLoc := { team := s.curTeam, addr := p % 2 ^ 21 }
    let target (x : Nat) : Option (Nat × Nat) := routeTo (leNat (s0.tmBytes { at_ 2048 with addr := 2048 + 4 * x } 4))
    freeAt i s ∧ lanesOf (s.active i) = [0] ∧ s.cg.accepted = 0 ∧ s0.tmBytes (at_ 64) 32 = ferryBlock ∧
      s0.ferryBlock 0 64 = .ok () ∧ s0.ferryChecks 0 64 (parseFerry ferryBlock) = .ok () ∧
      s0.engineReads s.ct.core (at_ 64) 32 s0.fresh = true ∧ s0.engineReads s.ct.core (at_ 1024) (1 * 2 * 8) s0.fresh = true ∧
      s0.engineReads s.ct.core (at_ 2048) 256 s0.fresh = true ∧ s.eccTm = [] ∧ s.poisonTm = [] ∧
      (leNat (s0.tmBytes (at_ 1024) 8) % 2 ^ 32 = 0 ∧ leNat (s0.tmBytes (at_ 1032) 8) % 2 ^ 32 = 63) ∧
      target 0 = some (15, 0) ∧ target 63 = some (0, 95) :=
  ⟨freeAt_of (by decide +kernel), by decide +kernel, by decide +kernel, by decide +kernel,
    ok_of_option (by decide +kernel), ok_of_option (by decide +kernel), by decide +kernel⟩

/-- A row on its way to slip 15 of core 0, from the same team. -/
def rowOf (len : Nat) : FerryRow :=
  { ret := ret0, team := 1, ctx := 1, grid := none, record := faultOf, core := 0, sid := 15, src := { team := 1, addr := 256 },
    len := len, bytes := none, ferry := 3 }
where faultOf : FaultRec := ⟨0, 0, 0, 0, 0, 0, 0, 0, 0, 0⟩

theorem test_met_RowArrivals :
    let s0 := { at_ (.nop md) with rowsInFlight := [rowOf 16] }
    let r := rowOf 16
    let team (s : State) : Option Team := s.team? 1
    let ahead (s : State) (r : FerryRow) : Prop := s.rowsInFlight[0]? = some r ∧
      s.engineReads r.ret.core r.src r.len r.ferry = true ∧ s.eccTm = [] ∧ s.poisonTm = [] ∧ ∀ q ∈ s.rowsInFlight.take 0, q.sameStream r = false
    let closed := withSlip (slipOf true [.free, .free] []) s0
    let full := withSlip (slipOf false [.arrived ret0, .taken ret0] [0]) s0
    let last := withSlip (slipOf false [.taken ret0, .free] []) s0
    let long := { last with rowsInFlight := [rowOf 32] }
    let tagged := last.modCt fun t => { t with tmchk := true, tags := [(127, 5)] }
    (ahead s0 r ∧ slipAt s0 0 15 = none) ∧
    (ahead closed r ∧ (team closed).isSome = true ∧ (slipAt closed 0 15).any (fun x => x.closed) = true) ∧
    (ahead long (rowOf 32) ∧ (team long).any (fun t => t.stop == .none) = true ∧
      (slipAt long 0 15).any (fun x => !x.closed && x.rowLen != 32) = true) ∧
    (ahead full r ∧ (team full).any (fun t => t.stop == .none && t.key == r.team) = true ∧
      (slipAt full 0 15).any (fun x => !x.closed && x.rowLen == 16 && x.slots.all (· != .free)) = true) ∧
    (∀ s, s = last ∨ s = tagged → ahead s r ∧ (team s).any (fun t => t.stop == .none && t.key == r.team) = true ∧
      slipAt s 0 15 = some (slipOf false [.taken ret0, .free] []) ∧
      (s.tagsMatch (ptrTag 4064) { team := 1, addr := 4064 % 2 ^ 21 + 1 * 16 } 16 = true ↔ s = last)) := by
  refine ⟨by decide +kernel, by decide +kernel, by decide +kernel, by decide +kernel, ?_⟩
  rintro s (rfl | rfl) <;> decide +kernel

/-- The slots end: an answer that refuses and one that does not, a row that lands, one too late, and the
timer at 0. -/
theorem test_met_FerrySlots_ends :
    (∀ st, st = 0 ∨ st = 4 →
      let x := entryOf [1, 0] none false
      let s := { withEntry x (at_ (.nop md)) with answers := [{ ret := ret0, status := st }] }
      s.answers[0]? = some { ret := ret0, status := st } ∧ OpenAt s ret0 x ∧ Alive s x.team ∧ ret0.slot < x.status.length) ∧
    (let x := entryOf [1, 0] none false
     let m : LandMsg := { ret := ret0, team := 1, group := 0, bytes := List.replicate 16 7 }
     let s := { withEntry x (at_ (.nop md)) with lands := [m] }
     s.lands[0]? = some m ∧ OpenAt s m.ret x ∧ Alive s x.team ∧ Alive s m.team ∧ m.ret.slot < x.status.length ∧
       x.status.getD m.ret.slot 0 = 0) ∧
    (let x := entryOf [0, 5] none false
     let m : LandMsg := { ret := ret0, team := 1, group := 0, bytes := List.replicate 16 7 }
     let s := { withEntry x (at_ (.nop md)) with lands := [m] }
     s.lands[0]? = some m ∧ Alive s m.team ∧ entryAt s 0 15 = some x ∧ x.status.getD m.ret.slot 0 ≠ 0 ∧
       (s.team? 1).any (fun t => t.core == 0 && t.serial == m.ret.serial) = true) ∧
    (let x := entryOf [0, 0] (some 0) false
     let s := withEntry x (at_ (.nop md))
     entryAt s 0 15 = some x ∧ x.complete = false ∧ x.timer = some 0 ∧ Alive s x.team) := by
  unfold OpenAt
  refine ⟨?_, ⟨by decide +kernel, by decide +kernel, alive_of (by decide +kernel), alive_of (by decide +kernel),
    by decide +kernel⟩, ⟨by decide +kernel, alive_of (by decide +kernel), by decide +kernel⟩, by decide +kernel,
    by decide +kernel, by decide +kernel, alive_of (by decide +kernel)⟩
  rintro st (rfl | rfl) <;> exact ⟨by decide +kernel, by decide +kernel, alive_of (by decide +kernel), by decide +kernel⟩

/-- Two rows of one slot or two, of FP32 or BF16; the second is written already, or has a slot still to land. -/
def rowsOf (status : List Nat) (bf16 second : Bool) : Landing :=
  { entryOf status none false with
    par := { parOf (status.length / 2) true 0 with rows := 2, bf16 := bf16 }, written := [false, second] }

theorem test_met_FerrySlots_rows :
    ∀ x ∈ [entryOf [1] none false, entryOf [5] none false, entryOf [2, 1] none false, rowsOf [1, 5] true true,
        rowsOf [1, 2, 1, 0] true false, rowsOf [5, 1, 1, 1] false true],
      let s := withEntry x (at_ (.nop md))
      (entryAt s 0 15 = some x ∧ x.complete = false ∧ 0 < x.par.rows ∧ (x.par.k = 1 ∨ x.par.k = 2) ∧
        x.par.rowLen % 4 = 0 ∧ x.status.length = x.par.rows * x.par.k ∧ x.written.length = x.par.rows ∧
        x.written.getD 0 true = false ∧ (∀ j, j < x.par.rows → j ≠ 0 → x.written.getD j true = true ∨
          ∃ q, q < x.status.length ∧ j * x.par.k ≤ q ∧ q < j * x.par.k + x.par.k ∧ x.status.getD q 0 = 0) ∧
        s.rowReady 0 x 0 = true ∧ 512 + x.par.rowLen ≤ (s.team x.team).tmSize ∧
        256 + x.par.rowLen ≤ (s.team x.team).tmSize ∧ 4088 + 8 ≤ (s.team x.team).tmSize ∧ 512 + x.par.rowLen ≤ 4088 ∧
        s.eccTm = [] ∧ s.poisonTm = [] ∧ s.net = [] ∧
        ((∀ j, j < x.par.rows → j ≠ 0 → x.written.getD j true = true) → ∀ q ∈ x.status, q ≠ 0) ∧
        (s.cores.flatMap fun c => c.2.landing.map fun y => (c.1, y.1))[0]? = some (0, 15)) ∧
      Alive s x.team ∧ Released s x.team x.group x.id ∧ WordFree s 0 { team := x.team, addr := 4088 } := by
  intro x h
  simp only [List.mem_cons, List.not_mem_nil, or_false] at h
  (repeat' (refine Or.elim h ?_ ?_ <;> clear h <;> intro h)) <;> subst h <;>
    exact ⟨by decide +kernel, alive_of (by decide +kernel), fun p hp => absurd hp (List.not_mem_nil (a := p)),
      by unfold WordFree; decide +kernel⟩

/-! ### Hypotheses met: system registers, debugging, images -/

/-- Every register that `swrite` writes. -/
def writables : List SysReg :=
  privWrite ++ [.capsel, .cadence, .fpflags, .qovf, .rngseedlo, .rngseedhi, .ferrylate, .tvec]

theorem test_met_SystemRegisters :
    (∀ r ∈ privRead ++ [.lanenum, .exmask], ∀ d ∈ [RegOp.g 127, .s 63, .k 7],
      let i : Instr := .sread d r md
      CanIssue i (handling i) ∧ (handling i).privileged = true ∧ (handling i).cg.frames ≠ [] ∧ (handling i).active i ≠ 0) ∧
    (∀ d ∈ [RegOp.g 127, .s 63],
      let i : Instr := .sread d .lanenum md
      CanIssue i (at_ i) ∧ SysReg.lanenum ∉ privRead ∧ (at_ i).privileged = false) ∧
    (∀ r ∈ writables, ∀ d ∈ [RegOp.s 63, .k 7],
      let i : Instr := .swrite d r md
      let s := handling i
      CanIssue i s ∧ (written r (s.sysGet r 0) 0).isSome = true ∧ s.privileged = true ∧ s.cg.frames ≠ [] ∧ s.active i ≠ 0 ∧
        s.cg.rs (63 : BitVec 6) = 0) ∧
    (let i : Instr := .swrite (.g 127) .lsp md
     CanIssue i (at_ i)) ∧
    (let i : Instr := .swrite (.g 127) .lanepc md
     CanIssue i (handling i) ∧ (handling i).cg.frames.length = 1 ∧
       ∀ f ∈ (handling i).cg.frames, f.lanes.length = 32) := by
  refine ⟨?_, ?_, ?_, canIssue_of (by decide +kernel), canIssue_of (by decide +kernel), by decide +kernel⟩
  · have h : ∀ r ∈ privRead ++ [SysReg.lanenum, .exmask], ∀ d ∈ [RegOp.g 127, .s 63, .k 7],
        canIssueB (.sread d r md) (handling (.sread d r md)) = true ∧ (handling (.sread d r md)).privileged = true ∧
          (handling (.sread d r md)).cg.frames ≠ [] ∧ (handling (.sread d r md)).active (.sread d r md) ≠ 0 := by
      decide +kernel
    exact fun r hr d hd => ⟨canIssue_of (h r hr d hd).1, (h r hr d hd).2⟩
  · have h : ∀ d ∈ [RegOp.g 127, .s 63], canIssueB (.sread d .lanenum md) (at_ (.sread d .lanenum md)) = true ∧
        SysReg.lanenum ∉ privRead ∧ (at_ (.sread d .lanenum md)).privileged = false := by decide +kernel
    exact fun d hd => ⟨canIssue_of (h d hd).1, (h d hd).2⟩
  · have h : ∀ r ∈ writables, ∀ d ∈ [RegOp.s 63, .k 7],
        canIssueB (.swrite d r md) (handling (.swrite d r md)) = true ∧
          (written r ((handling (.swrite d r md)).sysGet r 0) 0).isSome = true ∧
          (handling (.swrite d r md)).privileged = true ∧ (handling (.swrite d r md)).cg.frames ≠ [] ∧
          (handling (.swrite d r md)).active (.swrite d r md) ≠ 0 ∧
          (handling (.swrite d r md)).cg.rs (63 : BitVec 6) = 0 := by decide +kernel
    exact fun r hr d hd => ⟨canIssue_of (h r hr d hd).1, (h r hr d hd).2⟩

def ctxOp : OpCtx := ⟨63, md⟩
theorem test_met_PrivilegeTraps :
    (∀ i ∈ [Instr.haltt md, .resumet md, .tlbinvAll md, .tlbinvPage 62 md, .watch .ctx .rw .hbm 3 4 6 md, .unwatch .ctx 3 md,
        .sread (.s 5) .ptbaselo md, .swrite (.s 5) .tdeleg md, .swrite (.g 5) .lanepc md, .ctxsaveAcc ctxOp, .ctxsavePre ctxOp,
        .ctxsaveSlice ctxOp, .ctxsaveMig ctxOp, .ctxsaveDump ctxOp, .ctxloadAcc ctxOp, .ctxloadImg ctxOp,
        .pilotset 4 true 5 0x3FFF md, .pilotget 5 4 true 0x3FFF md],
      let s := at_ i
      CanIssue i s ∧ s.cg.inSup = false ∧ privilegedForm s i ∧ s.cg.frames = [] ∧ s.active i ≠ 0) ∧
    (∀ i ∈ [Instr.sread (.k 7) .lanenum md, .swrite (.k 7) .capsel md, .perfrd (.k 7) true .slots md],
      CanIssue i (at_ i) ∧ (at_ i).cg.frames = [] ∧ (at_ i).active i ≠ 0) := by
  refine ⟨?_, ?_⟩ <;> intro i h <;> simp only [List.mem_cons, List.not_mem_nil, or_false] at h
  · have e : ∀ i, i ∈ [Instr.haltt md, .resumet md, .tlbinvAll md, .tlbinvPage 62 md, .watch .ctx .rw .hbm 3 4 6 md,
        .unwatch .ctx 3 md, .sread (.s 5) .ptbaselo md, .swrite (.s 5) .tdeleg md, .swrite (.g 5) .lanepc md, .ctxsaveAcc ctxOp,
        .ctxsavePre ctxOp, .ctxsaveSlice ctxOp, .ctxsaveMig ctxOp, .ctxsaveDump ctxOp, .ctxloadAcc ctxOp, .ctxloadImg ctxOp,
        .pilotset 4 true 5 0x3FFF md, .pilotget 5 4 true 0x3FFF md] →
        canIssueB i (at_ i) = true ∧ (at_ i).cg.inSup = false ∧ (at_ i).privileged = false ∧ (at_ i).cg.frames = [] ∧
          ((at_ i).func ((at_ i).ct.ctx - 1)).flags.getLsbD 1 = false ∧ (at_ i).cg.since = none ∧ (at_ i).active i ≠ 0 := by
      decide +kernel
    obtain ⟨h1, h2, h3, h4, h5, h6, h7⟩ := e i (by simpa using h)
    refine ⟨canIssue_of h1, h2, ?_, h4, h7⟩
    clear e h1 h2 h7
    generalize at_ i = s at h3 h4 h5 h6 ⊢
    (repeat' (refine Or.elim h ?_ ?_ <;> clear h <;> intro h)) <;> subst h <;>
      simp [privilegedForm, h3, h4, h6, privRead, privWrite]
    all_goals first
      | exact h5
      | exact ⟨_, _, ⟨rfl, rfl⟩, by simp, by simp⟩
  · rcases h with rfl | rfl | rfl <;> exact ⟨canIssue_of (by decide +kernel), by decide +kernel⟩

/-- The last ranges that can be armed: of team memory, and of main memory. -/
theorem test_met_Watchpoints :
    (∀ sc ∈ [WScope.lane, .team, .ctx], ∀ arm : Bool,
      let i : Instr := if arm then .watch sc .rw .tm 1 4 6 md else .unwatch sc 1 md
      let s := putG 4 0xFFFFFFFF (putS 4 0xFFFFFFFF (handling i))
      ∃ f, watchForm i = some (sc, 1, f) ∧ CanIssue i s ∧ s.privileged = true ∧ s.active i ≠ 0 ∧
        (arm = true → sc ≠ .lane → f s.cg 0 = some { kind := .rw, space := .tm, base := 0xFFFFFFFF, len := 1 })) ∧
    armable { kind := .r, space := .sk, base := 0xFFFFFFFF, len := 1 } ∧
    armable { kind := .w, space := .hbm, base := 0xFFFFFFFFFFFFFFFF, len := 1 } := by
  refine ⟨?_, by unfold armable; decide, by unfold armable; decide⟩
  intro sc hsc arm
  simp only [List.mem_cons, List.not_mem_nil, or_false] at hsc
  rcases hsc with rfl | rfl | rfl <;> cases arm <;>
    exact ⟨_, rfl, canIssue_of (by decide +kernel), by decide +kernel⟩

/-- The context has the Pilot's permission. -/
def permitted (s : State) : State := s.modFunc 0 fun f => { f with flags := 2 }

theorem test_met_SamplesCountersPilot :
    (let i : Instr := .sample 4 (-1024) md
     let s := putS 4 5040 (at_ i)
     CanIssue i s ∧ s.writeCheck i (BitVec.ofInt 32 ((s.cg.rs (4 : BitVec 6)).toNat + (-1024 : BitVec 11).toInt)).toNat 80 16 =
       .ok { team := 1, addr := 4016 }) ∧
    (∀ ev ∈ [PerfEvent.slots, .clauses, .cadenceTurns, .earlyDrains, .bankReads, .coreCycles, .matrixSteps, .chainWork],
      CanIssue (.perfrd (.s 63) true ev md) (at_ (.perfrd (.s 63) true ev md)) ∧
      (at_ (.perfrd (.s 63) true ev md)).active (.perfrd (.s 63) true ev md) ≠ 0 ∧
      CanIssue (.perfrd (.k 7) true ev md) (handling (.perfrd (.k 7) true ev md)) ∧
      (handling (.perfrd (.k 7) true ev md)).cg.frames ≠ [] ∧
      (handling (.perfrd (.k 7) true ev md)).active (.perfrd (.k 7) true ev md) ≠ 0) ∧
    (let i : Instr := .pilotset 4 true 5 1 md
     let s := permitted (at_ i)
     let w := { (s.modCg fun g => { g with since := some 3 }) with pilotNet := [] }
     CanIssue i s ∧ (s.func (s.ct.ctx - 1)).flags.getLsbD 1 = true ∧ s.cg.since = none ∧ s.active i ≠ 0 ∧
       CanIssue i w ∧ (w.func (w.ct.ctx - 1)).flags.getLsbD 1 = true ∧ w.cg.since.isSome = true) ∧
    (∃ n, n ≤ 0x3FFF ∧ pilotRw n = true) ∧
    (let i : Instr := .pilotget 5 4 true 0x3FFF md
     let s := permitted (at_ i)
     CanIssue i s ∧ (s.func (s.ct.ctx - 1)).flags.getLsbD 1 = true ∧
       (s.cg.rs (4 : BitVec 6)).toNat + 0x3FFF ≤ 0x3FFF ∧ s.active i ≠ 0) := by
  refine ⟨⟨canIssue_of (by decide +kernel), ok_of_option (by decide +kernel)⟩, ?_,
    ⟨canIssue_of (by decide +kernel), by decide +kernel, by decide +kernel, by decide +kernel, canIssue_of (by decide +kernel),
      by decide +kernel⟩, ⟨1, by decide +kernel⟩, canIssue_of (by decide +kernel), by decide +kernel⟩
  intro ev h
  simp only [List.mem_cons, List.not_mem_nil, or_false] at h
  (repeat' (refine Or.elim h ?_ ?_ <;> clear h <;> intro h)) <;> subst h <;>
    exact ⟨canIssue_of (by decide +kernel), by decide +kernel, canIssue_of (by decide +kernel), by decide +kernel⟩

/-- A team of two groups in its supervisor's handler; the other group is halted. -/
def halting (i : Instr) : State := (twoGroups (handling i)).modGroup 1 1 fun g => { g with halted := true }

theorem test_met_HaltAndResume :
    (let i : Instr := .haltt md
     ∀ s, s = twoGroups (handling i) ∨ s = halting i →
       CanIssue i s ∧ s.privileged = true ∧ s.active i ≠ 0 ∧ s.cg.midWord = false) ∧
    (let i : Instr := .haltt md
     let s := halting i
     (∀ x ∈ s.ct.groups, x.index ≠ s.curGroup → x.halted = true) ∧ ¬ unsettled s ∧
       unsettled { s with copies := [copyOp page0 tm64 false] } ∧
       unsettled (s.modGroup 1 1 fun g => { g with since := some 3 }) ∧
       unsettled (s.modCt fun t => { t with absent := [(0, [(9, 1, 0)])] }) ∧
       canIssueB i { s with copies := [copyOp page0 tm64 false] } = true ∧
       canIssueB i (s.modGroup 1 1 fun g => { g with since := some 3 }) = true) ∧
    (let i : Instr := .resumet md
     let s := (halting i).modGroup 1 1 fun g => { g with chprog := some { chainOf .chain 33 1 with stopped := true } }
     CanIssue i s ∧ s.privileged = true ∧ s.active i ≠ 0) := by
  refine ⟨?_, ⟨by decide +kernel, ?_, .inl ⟨_, List.mem_singleton_self _, by decide +kernel⟩, ?_,
    .inr (.inr (.inr (.inr (.inl ⟨(0, [(9, 1, 0)]), by decide +kernel⟩)))), by decide +kernel,
    by decide +kernel⟩, canIssue_of (by decide +kernel), by decide +kernel⟩
  · rintro i s (rfl | rfl) <;> exact ⟨canIssue_of (by decide +kernel), by decide +kernel⟩
  · have hg : ∀ x ∈ (halting (.haltt md)).ct.groups, x.chprog = none ∧ x.midWord = false ∧ x.pending = [] := by
      decide +kernel
    have ha : (halting (.haltt md)).ct.absent = [] := by decide +kernel
    rintro (⟨o, h, _⟩ | ⟨o, h, _⟩ | ⟨o, h, _⟩ | ⟨e, h, _⟩ | ⟨a, h, _⟩ | ⟨x, hx, ⟨o, ho, _⟩ | ⟨_, _, hm | ⟨r, hr, _⟩⟩⟩)
    · exact absurd h (List.not_mem_nil)
    · exact absurd h (List.not_mem_nil)
    · exact absurd h (List.not_mem_nil)
    · revert e; decide +kernel
    · rw [ha] at h; exact absurd h (List.not_mem_nil)
    · rw [(hg x hx).1] at ho; cases ho
    · rw [(hg x hx).2.1] at hm; cases hm
    · rw [(hg x hx).2.2] at hr; exact absurd hr (List.not_mem_nil)
  · have h : ∃ x ∈ ((halting (.haltt md)).modGroup 1 1 fun g => { g with since := some 3 }).ct.groups,
        x.index ≠ ((halting (.haltt md)).modGroup 1 1 fun g => { g with since := some 3 }).curGroup ∧ x.ended = false ∧
          x.midWord = true := by decide +kernel
    obtain ⟨x, hx, h1, h2, h3⟩ := h
    exact .inr (.inr (.inr (.inr (.inr ⟨x, hx, .inr ⟨h1, h2, .inl h3⟩⟩))))

/-- A copy of the context that was translated before, or after, the sweep. -/
theorem test_met_TranslationSweep :
    ∀ i, i = Instr.tlbinvAll md ∨ i = .tlbinvPage 62 md →
      let s := { handling i with copies := [copyOp page0 tm64 false], fresh := 4 }
      let t := { s with copies := [] }
      let u := { s with copies := [{ copyOp page0 tm64 false with xlat := 3 }] }.modCg fun g => { g with since := some 3 }
      CanIssue i s ∧ CanIssue i t ∧ CanIssue i u ∧ translatedBefore s s.ct.ctx s.fresh ∧
        ¬ translatedBefore t t.ct.ctx t.fresh ∧ ¬ translatedBefore u u.ct.ctx 3 ∧ s.privileged = true ∧ s.active i ≠ 0 ∧
        s.cg.since = none ∧ t.privileged = true ∧ t.active i ≠ 0 ∧ t.cg.since = none ∧
        u.privileged = true ∧ u.active i ≠ 0 ∧ u.cg.since = some 3 := by
  have none_ (s : State) (n : Nat) (hc : s.copies.all (fun o => decide (n ≤ o.xlat)) = true)
      (hg : (s.teams.all fun u => u.groups.all fun g => g.heldOp.isNone) = true) : ¬ translatedBefore s s.ct.ctx n := by
    simp only [List.all_eq_true, decide_eq_true_eq, Option.isNone_iff_eq_none] at hc hg
    rintro (⟨o, ho, _, h⟩ | ⟨u, hu, _, g, h, o, ho, _⟩)
    · exact Nat.not_lt.mpr (hc o ho) h
    · rw [hg u hu g h] at ho; cases ho
  rintro i (rfl | rfl) <;> exact ⟨canIssue_of (by decide +kernel), canIssue_of (by decide +kernel),
    canIssue_of (by decide +kernel), .inl ⟨_, List.mem_singleton_self _, by decide +kernel⟩,
    none_ _ _ (by decide +kernel) (by decide +kernel), none_ _ _ (by decide +kernel) (by decide +kernel), by decide +kernel⟩

/-! ### Hypotheses met: images -/

/-- A walk depends on the page alone. -/
theorem walk_page (s : State) (f : Func) (use : PageUse) {va va' : Nat} (h : va / 65536 = va' / 65536) :
    s.walk f va use = s.walk f va' use := by
  have h40 : va / 2 ^ 40 = va' / 2 ^ 40 := by omega
  have h28 : va / 2 ^ 28 = va' / 2 ^ 28 := by omega
  have h16 : va / 2 ^ 16 = va' / 2 ^ 16 := by omega
  have hb : va % 2 ^ 28 / pageSize = va' % 2 ^ 28 / pageSize := by unfold pageSize; omega
  have hp : va / pageSize = va' / pageSize := by unfold pageSize; omega
  unfold State.walk walkBy walkEnd walkRoot walkNext
  rw [h40, h28, h16, hb, hp]

/-- Bytes of one page, as they are read. -/
theorem vRead_page {s : State} {ctx va n : Nat} {p : LastPage} (hn : va % 65536 + n ≤ 65536)
    (h : s.walk (s.ctxFunc ctx) va .rd = .page p) :
    s.vRead ctx va n = some ((List.range n).map fun i => s.hbmByte (p.ppage * 65536 + va % 65536 + i)) := by
  have byte : ∀ i < n, s.vByte ctx (va + i) = some (s.hbmByte (p.ppage * 65536 + va % 65536 + i)) := by
    intro i hi
    unfold State.vByte
    rw [walk_page s _ _ (show (va + i) / 65536 = va / 65536 by omega), h]
    simp only [pageSize]
    rw [show (va + i) % 65536 = va % 65536 + i by omega, Nat.add_assoc]
  unfold State.vRead
  clear hn h
  induction n with
  | zero => rfl
  | succ m ih =>
    have before := ih fun i hi => byte i (by omega)
    simp [List.range_succ, List.mapM_append, before, byte m (by omega)]

theorem tdel_absent {α : Type} {t : Table α} {k : Nat} (h : ∀ x ∈ t, x.1 ≠ k) : tdel t k = t := by
  induction t with
  | nil => rfl
  | cons x r ih =>
    have hx : k ≠ x.1 := fun e => h x List.mem_cons_self e.symm
    simp only [tdel, if_neg hx, ih fun y hy => h y (List.mem_cons_of_mem _ hy)]

/-- Zeros written where no byte is listed change nothing. -/
theorem vFill_zeros {s : State} {ctx room : Nat} (hs : s.scrub = []) (n : Nat) :
    ∀ va, n ≤ room → (∀ k, k < n → ∃ p, s.walk (s.ctxFunc ctx) ((va + k) % 2 ^ 52) .wr = .page p ∧
      ∀ x ∈ s.hbm, x.1 ≠ p.ppage * pageSize + (va + k) % pageSize) →
    s.vFill ctx va room (List.replicate n 0) = (s, n, none) := by
  induction n generalizing room with
  | zero => intro va _ _; simp [State.vFill]
  | succ n ih =>
    intro va hr h
    obtain ⟨room, rfl⟩ : ∃ r, room = r + 1 := ⟨room - 1, by omega⟩
    obtain ⟨p, hp, hx⟩ := h 0 (by omega)
    rw [Nat.add_zero] at hp hx
    have same : s.hbmPut (p.ppage * pageSize + va % pageSize) 0 = s := by
      have e : s.scrubUnit ((p.ppage * pageSize + va % pageSize) / pageSize) = s := by simp [State.scrubUnit, hs]
      unfold State.hbmPut
      rw [e]
      simp only [Memory.write, tput, emptyByte, if_true]
      rw [tdel_absent hx]
    rw [List.replicate_succ]
    unfold State.vFill
    simp only [hp, same]
    rw [ih (va + 1) (by omega) fun k hk => by
      have := h (k + 1) (by omega); rwa [show va + (k + 1) = va + 1 + k by omega] at this]

/-- The first context has a buffer of 1 MiB at address 1 MiB, which its tables map one to one. -/
def buffered : State := (at_ (.nop md)).modFunc 0 fun f => { f with ctxbuf := 0x0100000000100000 }

/-- The context and its tables are as there. -/
structure Mapped (s : State) : Prop where
  funcs : s.funcs = buffered.funcs
  scrub : s.scrub = []
  root : s.hbmBytes 0 8 = leBytes 8 0x10003
  block : s.hbmBytes 0x10000 8 = leBytes 8 0x39

def page16 : LastPage := { vpage := 16, ppage := 16, rd := true, wr := true, ex := true, tag := false, block := true }

theorem Mapped.walk {s : State} (h : Mapped s) {va : Nat} (hv : va / 65536 = 16) {use : PageUse} :
    s.walk (s.ctxFunc 1) va use = .page page16 := by
  rw [walk_page s _ _ (show va / 65536 = 0x100000 / 65536 by omega)]
  have hf : s.ctxFunc 1 = buffered.ctxFunc 1 := by unfold State.ctxFunc State.func; rw [h.funcs]
  have h0 : s.tableEntry (buffered.ctxFunc 1) 0 = some 0x10003 := by
    have : stageTwo (buffered.ctxFunc 1) 0 = some 0 := by decide +kernel
    unfold State.tableEntry; rw [this]; simp only [Option.map_some, h.root]; decide
  have h1 : s.tableEntry (buffered.ctxFunc 1) 0x10000 = some 0x39 := by
    have : stageTwo (buffered.ctxFunc 1) 0x10000 = some 0x10000 := by decide +kernel
    unfold State.tableEntry; rw [this]; simp only [Option.map_some, h.block]; decide
  have r0 : walkRoot (buffered.ctxFunc 1) 0x100000 = 0 := by decide +kernel
  have r1 : walkNext 0x10003 28 0x100000 = 0x10000 := by decide
  rw [hf]
  unfold State.walk walkBy
  simp only [r0, h0, r1, h1]
  cases use <;> simp [show entV 65539 = true from by decide, show entT 65539 = true from by decide,
    show entRes0 65539 = true from by decide, show entMig 65539 = false from by decide, show entV 57 = true from by decide,
    show entT 57 = false from by decide, show entRes0 57 = true from by decide, show entMig 57 = false from by decide] <;> decide +kernel

theorem Mapped.put {s : State} (h : Mapped s) {pa : Nat} (hp : 0x100000 ≤ pa) (b : Byte) : Mapped (s.hbmPut pa b) := by
  have e (u : Nat) : s.scrubUnit u = s := by simp [State.scrubUnit, h.scrub]
  have read (a : Nat) (ha : a < 0x100000) : (s.hbmPut pa b).hbmByte a = s.hbmByte a := by
    unfold State.hbmPut State.hbmByte State.scrubbing
    rw [e]
    simp only [Memory.read_write]
    rw [if_neg (show ¬ a = pa by omega)]
  have bytes (a : Nat) (ha : a + 8 < 0x100000) : (s.hbmPut pa b).hbmBytes a 8 = s.hbmBytes a 8 :=
    List.map_congr_left fun i hi => read _ (by have := List.mem_range.mp hi; omega)
  refine ⟨?_, ?_, by rw [bytes _ (by decide), h.root], by rw [bytes _ (by decide), h.block]⟩
  · unfold State.hbmPut; rw [e]; exact h.funcs
  · unfold State.hbmPut; rw [e]; exact h.scrub

/-- Bytes that fit the page are written without a failure. -/
theorem Mapped.fill {bs : List Byte} : ∀ {s : State} {va room : Nat}, Mapped s → 0x100000 ≤ va → va + bs.length ≤ 0x110000 →
    bs.length ≤ room → (s.vFill 1 va room bs).2.2 = none ∧ Mapped (s.vFill 1 va room bs).1 := by
  induction bs with
  | nil => intro s va room h _ _ _; simp [State.vFill, h]
  | cons b r ih =>
    intro s va room h hv hn hr
    simp only [List.length_cons] at hn hr
    obtain ⟨room, rfl⟩ : ∃ r, room = r + 1 := ⟨room - 1, by omega⟩
    unfold State.vFill
    simp only [h.walk (show va % 2 ^ 52 / 65536 = 16 by omega)]
    exact ih (h.put (show 0x100000 ≤ 16 * 65536 + va % 65536 by omega) b) (by omega) (by omega) (by omega)

theorem Mapped.written {l : List (Sec × Nat)} : ∀ {w : Written}, Mapped w.st → w.fault = none →
    (∀ x ∈ l, x.2 + (x.1.bytes.getD []).length ≤ 0x10000) →
    (l.foldl (fun (w : Written) x => w.add 1 0x100000 0x100000 x.2 x.1) w).fault = none := by
  induction l with
  | nil => intro w _ h _; exact h
  | cons x r ih =>
    intro w hw hf hx
    rw [List.foldl_cons]
    have hr : ∀ y ∈ r, y.2 + (y.1.bytes.getD []).length ≤ 0x10000 := fun y hy => hx y (by simp [hy])
    have h0 := hx x (by simp)
    cases hb : x.1.bytes with
    | none => exact ih (by simpa [Written.add, hf, hb] using hw) (by simp [Written.add, hf, hb]) hr
    | some bs =>
      rw [hb] at h0
      simp only [Option.getD_some] at h0
      obtain ⟨f1, f2⟩ := hw.fill (bs := bs) (va := 0x100000 + x.2) (room := 0x100000 - x.2) (by omega) (by omega) (by omega)
      exact ih (by simpa [Written.add, hf, hb] using f2) (by simp [Written.add, hf, hb, f1]) hr

theorem mapped_of {s : State} (hf : s.funcs = buffered.funcs)
    (h : (s.scrub.isEmpty && s.hbmBytes 0 8 == leBytes 8 0x10003 && s.hbmBytes 0x10000 8 == leBytes 8 0x39) = true) :
    Mapped s := by
  simp only [Bool.and_eq_true, beq_iff_eq, List.isEmpty_iff] at h
  exact ⟨hf, h.1.1, h.1.2, h.2⟩

/-- A team of one group of 8 registers in the supervisor's entry of this code, with results landed and a
context buffer of 1 MiB at 0x100000. -/
def entered (code : Nat) (i : Instr) : State :=
  ((handling i).modCg fun g =>
    { g with budget := 8, trapRegs := { g.trapRegs with code := code } }).modFunc 0
      fun f => { f with ctxbuf := 0x0100000000100000 }

/-- A team of the context whose groups have all ended. -/
def departing : State := { buffered with teams := [{ buffered.team 1 with groups := [], tmSize := 0 }] }

theorem test_met_ImageBytes : (departing.saveImage 1 4).2 = true := by
  have hm : Mapped departing := mapped_of rfl (by decide +kernel)
  have h1 : (departing.team 1).ctx = 1 := by decide +kernel
  have h2 : bufBase (departing.ctxFunc 1).ctxbuf = 0x100000 := by decide +kernel
  have h3 : bufSize (departing.ctxFunc 1).ctxbuf = 0x100000 := by decide +kernel
  have h4 : departing.canWrite 1 0x100000 = true := by unfold State.canWrite; rw [hm.walk (by decide)]
  unfold State.saveImage
  simp only [h1, h2, h3, h4]
  rw [hm.written rfl (by decide +kernel)]
  rfl

/-- Bytes that fit the page are written. -/
theorem Mapped.write {bs : List Byte} : ∀ {s : State} {va : Nat}, Mapped s → 0x100000 ≤ va → va + bs.length ≤ 0x110000 →
    ∃ w, s.vWrite 1 va bs = some w := by
  induction bs with
  | nil => intro s va _ _ _; exact ⟨s, rfl⟩
  | cons b r ih =>
    intro s va h hv hn
    simp only [List.length_cons] at hn
    unfold State.vWrite
    simp only [h.walk (show va / 65536 = 16 by omega)]
    exact ih (h.put (show 0x100000 ≤ 16 * 65536 + va % 65536 by omega) b) (by omega) (by omega)

theorem vFill_fails {s : State} {ctx va room : Nat} {b : Byte} {r : List Byte}
    (hr : 0 < room) (h : ∀ p, s.walk (s.ctxFunc ctx) (va % 2 ^ 52) .wr ≠ .page p) :
    (s.vFill ctx va room (b :: r)).2.2.isSome = true := by
  obtain ⟨room, rfl⟩ : ∃ n, room = n + 1 := ⟨room - 1, by omega⟩
  unfold State.vFill
  simp only
  split
  · exact absurd ‹_› (h _)
  · rfl
  · rfl

theorem unitImage_zero {c : Core} (h : c.acc = []) (u : Nat) : unitImage c u = List.replicate 4096 0 := by
  unfold unitImage
  rw [h]
  refine List.eq_replicate_iff.mpr ⟨by rw [List.length_map, List.length_range], fun b hb => ?_⟩
  obtain ⟨k, _, rfl⟩ := List.mem_map.mp hb
  simp [tget, tfind]

/-- A byte that is not listed reads as 0. -/
theorem read_absent {m : Memory} {a : Nat} (h : ∀ x ∈ m, x.1 ≠ a) : m.read a = 0 := by
  induction m with
  | nil => rfl
  | cons x r ih =>
    have hx : ¬ x.1 = a := h x (by simp)
    simpa [Memory.read, tget, tfind, hx, Ne.symm hx] using ih fun y hy => h y (by simp [hy])

/-- The first page of an image of one section at 0x100 of the buffer, and that section. The checksums were
computed outside. -/
def imageHead (size sum : Nat) : List Byte :=
  leBytes 4 0x31494348 ++ leBytes 2 1 ++ zeros 2 ++ leBytes 8 size ++ [1, 1] ++ leBytes 2 1 ++ leBytes 2 1 ++ zeros 26 ++
    leBytes 4 sum ++ zeros 12
def imageTable (ty length off sum planned : Nat) : List Byte :=
  leBytes 4 ty ++ leBytes 4 length ++ leBytes 8 off ++ leBytes 4 sum ++ leBytes 4 planned
def imaged (first section_ : List Byte) (s : State) : State :=
  { s with hbm := (s.hbm.writeN 0x100000 first).writeN 0x100100 section_ }

/-- A unit of zeros is held for a team whose image has its section at this offset. -/
def holding (off : Nat) : State :=
  (imaged (imageHead 0 0 ++ imageTable 3 0 off 0 4096) [] (entered 0x40 (.ctxsaveAcc ctxOp))).modCore 0 fun c =>
    { c with held := [(0, ⟨1, 1, 0x100000, 0, false⟩)] }

theorem hasRows_of {off : Nat} (h : ((holding off).imageEntries 1 0x100000 == some (imageHead 0 0, imageTable 3 0 off 0 4096) &&
    (holding off).vRead 1 0x100000 64 == some (imageHead 0 0) &&
    (holding off).vRead 1 (0x100000 + 64) 24 == some (imageTable 3 0 off 0 4096) &&
    field (imageTable 3 0 off 0 4096) 8 8 == off && field (imageTable 3 0 off 0 4096) 0 2 == 3) = true) :
    HasRows (holding off) 1 0x100000 (imageHead 0 0) (imageTable 3 0 off 0 4096) 0 off 4096 ∧
      (holding off).imageEntries 1 0x100000 = some (imageHead 0 0, imageTable 3 0 off 0 4096) := by
  simp only [Bool.and_eq_true, beq_iff_eq, and_assoc] at h
  obtain ⟨h1, h2, h3, h4, h5⟩ := h
  have hn : field (imageHead 0 0) 0x12 2 = 1 := by decide +kernel
  exact ⟨⟨h2, by rw [hn]; exact h3, by rw [hn]; decide, h5, fun j hj => absurd hj (Nat.not_lt_zero j), h4.symm,
    by rfl⟩, h1⟩

theorem filledHead_length (off sum : Nat) (bs : List Byte) :
    (filledHead (imageHead 0 0) (imageTable 3 0 off 0 4096) bs 0 off sum).length = 88 := by
  have h : (imageHead 0 0).length = 64 := by decide +kernel
  have t : (imageTable 3 0 off 0 4096).length = 24 := rfl
  simp [filledHead, h, t]

theorem test_met_AccumulatorSave_held :
    (let i : Instr := .ctxsaveAcc ctxOp
     let s := handling i
     CanIssue i s ∧ s.cg.inSup = true ∧ s.active i ≠ 0 ∧ (s.core s.ct.core).held = []) ∧
    (let i : Instr := .ctxsaveAcc ctxOp
     let s := holding 0x100
     let head := imageHead 0 0
     let table := imageTable 3 0 0x100 0 4096
     CanIssue i s ∧ s.cg.inSup = true ∧ s.active i ≠ 0 ∧
       (s.core s.ct.core).held = [(0, ⟨1, 1, 0x100000, 0, false⟩)] ∧ HasRows s 1 0x100000 head table 0 0x100 4096 ∧
       s.imageEntries 1 0x100000 = some (head, table) ∧
       ∃ v w bs, Fills 1 0x100000 (2 ^ 52) s [(0x100 + 4096 * 0, unitImage (s.core s.ct.core) 0)] v ∧
         v.imageEntries 1 0x100000 = some (head, table) ∧ v.vRead 1 (0x100000 + 0x100) 4096 = some bs ∧
         v.vWrite 1 0x100000 (filledHead head table bs 0 0x100 4096) = some w) ∧
    (let i : Instr := .ctxsaveAcc ctxOp
     let s := holding 0x10000000
     CanIssue i s ∧ s.cg.inSup = true ∧ s.active i ≠ 0 ∧
       (s.core s.ct.core).held = [(0, ⟨1, 1, 0x100000, 0, false⟩)] ∧
       HasRows s 1 0x100000 (imageHead 0 0) (imageTable 3 0 0x10000000 0 4096) 0 0x10000000 4096 ∧
       s.imageEntries 1 0x100000 = some (imageHead 0 0, imageTable 3 0 0x10000000 0 4096) ∧
       (s.vFill 1 (0x100000 + 0x10000000 + 4096 * 0) 4096 (unitImage (s.core s.ct.core) 0)).2.2.isSome = true) := by
  refine ⟨⟨canIssue_of (by decide +kernel), by decide +kernel⟩, ?_, ?_⟩
  · have hr := hasRows_of (off := 0x100) (by decide +kernel)
    have hm : Mapped (holding 0x100) := mapped_of (by decide +kernel) (by decide +kernel)
    refine ⟨canIssue_of (by decide +kernel), by decide +kernel, by decide +kernel, by decide +kernel, hr.1, hr.2,
      holding 0x100, ?_⟩
    have hz : unitImage ((holding 0x100).core (holding 0x100).ct.core) 0 = List.replicate 4096 0 :=
      unitImage_zero (by decide +kernel) 0
    have hf := vFill_zeros (s := holding 0x100) (ctx := 1) (room := 2 ^ 52 - 0x100) hm.scrub 4096 0x100100 (by decide)
      fun k hk => ⟨page16, hm.walk (show (0x100100 + k) % 2 ^ 52 / 65536 = 16 by omega), fun x hx => by
        have hx : ∀ x ∈ (holding 0x100).hbm, x.1 < 0x100100 := by decide +kernel
        have hx := hx x ‹_›
        show x.1 ≠ 16 * 65536 + (0x100100 + k) % 65536
        omega⟩
    obtain ⟨w, hw⟩ := hm.write (va := 0x100000) (bs := filledHead (imageHead 0 0) (imageTable 3 0 0x100 0 4096)
      ((List.range 4096).map fun j => (holding 0x100).hbmByte (page16.ppage * 65536 + 0x100100 % 65536 + j)) 0 0x100 4096)
      (by decide) (by rw [filledHead_length]; decide)
    exact ⟨w, _, ⟨by rw [hz]; simp only [Nat.mul_zero, Nat.add_zero]; rw [hf], by
        rw [hz]; simp only [Nat.mul_zero, Nat.add_zero]; rw [hf]; rfl⟩, hr.2,
      vRead_page (by decide) (hm.walk (by decide)), hw⟩
  · have hr := hasRows_of (off := 0x10000000) (by decide +kernel)
    refine ⟨canIssue_of (by decide +kernel), by decide +kernel, by decide +kernel, by decide +kernel, hr.1, hr.2, ?_⟩
    rw [unitImage_zero (by decide +kernel), show List.replicate 4096 (0 : Byte) = 0 :: List.replicate 4095 0 from
      List.replicate_succ]
    have h : ∀ p, (holding 0x10000000).walk ((holding 0x10000000).ctxFunc 1)
        ((0x100000 + 0x10000000 + 4096 * 0) % 2 ^ 52) .wr ≠ .page p := by
      have h : (match (holding 0x10000000).walk ((holding 0x10000000).ctxFunc 1)
          ((0x100000 + 0x10000000 + 4096 * 0) % 2 ^ 52) .wr with | .page _ => false | _ => true) = true := by decide +kernel
      intro p hp
      rw [hp] at h
      cases h
    exact vFill_fails (by decide) h

/-- A team of 64 rows with these marks; the image at 1 MiB holds four bytes of rows. -/
def marked (restore : Option Nat) (clear : Bool) : State :=
  imaged (imageHead 0x104 14655645 ++ imageTable 3 4 0x100 691047668 4) [1, 2, 3, 4]
    ((withRows (entered 0x40 (.ctxloadAcc ctxOp))).modCt fun t => { t with restoreMark := restore, clearMark := clear })

theorem test_met_AccumulatorSave_loaded :
    ∀ restore clear, (restore = none ∨ restore = some 0x100000 ∨ restore = some 0x200000) →
      let i : Instr := .ctxloadAcc ctxOp
      let s := marked restore clear
      let mine (u : Team) : Prop := u ∈ s.teams ∧ u.core = s.ct.core ∧ u.ctx = s.ct.ctx
      CanIssue i s ∧ s.cg.inSup = true ∧ s.active i ≠ 0 ∧ (s.core s.ct.core).held = [] ∧
        (∀ u, mine u → s.team? u.key = some u ∧ u.rows % 32 = 0 ∧ ∀ v, mine v → v.key = u.key) ∧
        ((restore != some 0x200000) = true ↔
          ∀ u img, mine u → u.restoreMark = some img → ∃ bs, RowsOf s u.ctx img bs) := by
  rintro restore clear h
  have one : ∀ u ∈ (marked restore clear).teams, (marked restore clear).team? u.key = some u ∧ u.rows % 32 = 0 ∧
      u.restoreMark = restore ∧ u.core = (marked restore clear).ct.core ∧ u.ctx = 1 ∧ (marked restore clear).ct.ctx = 1 ∧
      ∀ v ∈ (marked restore clear).teams, v.key = u.key := by
    rcases h with rfl | rfl | rfl <;> cases clear <;> decide +kernel
  have here : (marked restore clear).teams ≠ [] := by
    rcases h with rfl | rfl | rfl <;> cases clear <;> decide +kernel
  refine ⟨?_, ?_, ?_, ?_, fun u hu => ⟨(one u hu.1).1, (one u hu.1).2.1, fun v hv => (one u hu.1).2.2.2.2.2.2 v hv.1⟩, ?_⟩
  · rcases h with rfl | rfl | rfl <;> cases clear <;> exact canIssue_of (by decide +kernel)
  · rcases h with rfl | rfl | rfl <;> cases clear <;> decide +kernel
  · rcases h with rfl | rfl | rfl <;> cases clear <;> decide +kernel
  · rcases h with rfl | rfl | rfl <;> cases clear <;> decide +kernel
  · rcases h with rfl | rfl | rfl
    · exact ⟨fun _ u img hu hm => (by rw [(one u hu.1).2.2.1] at hm; cases hm), fun _ => by decide⟩
    · refine ⟨fun _ u img hu hm => ?_, fun _ => by decide⟩
      rw [(one u hu.1).2.2.1] at hm
      cases hm
      rw [(one u hu.1).2.2.2.2.1]
      refine ⟨[1, 2, 3, 4], imageHead 0x104 14655645, imageTable 3 4 0x100 691047668 4, 0, 0x100, 4, ⟨?_, ?_, ?_, ?_,
        fun j hj => absurd hj (Nat.not_lt_zero j), ?_, ?_⟩, by decide, ?_, ?_⟩ <;> cases clear <;> decide +kernel
    · refine ⟨fun h => absurd h (by decide), fun h => ?_⟩
      obtain ⟨u, hu⟩ := List.exists_mem_of_ne_nil _ here
      have hx := one u hu
      obtain ⟨bs, head, table, i, off, planned, hr, _⟩ := h u 0x200000 ⟨hu, hx.2.2.2.1, by rw [hx.2.2.2.2.1, hx.2.2.2.2.2.1]⟩ hx.2.2.1
      rw [hx.2.2.2.2.1] at hr
      have hv : (marked (some 0x200000) clear).vRead 1 0x200000 64 = some (zeros 64) := by cases clear <;> decide +kernel
      have he := hr.header
      rw [hv] at he
      cases he
      exact absurd hr.inside (by rw [show field (zeros 64) 0x12 2 = 0 from by decide]; exact Nat.not_lt_zero i)

theorem test_met_ImageSaves :
    ∀ x ∈ [(Instr.ctxsavePre ctxOp, 0x40), (.ctxsaveSlice ctxOp, 0x41), (.ctxsaveMig ctxOp, 3), (.ctxsaveDump ctxOp, 3)],
      let s := entered x.2 x.1
      ∃ reason code, savesImage x.1 = some (ctxOp, reason, code) ∧ CanIssue x.1 s ∧ s.cg.inSup = true ∧ s.active x.1 ≠ 0 ∧
        (∀ c, code = some c → s.cg.trapRegs.code = c) ∧ (∀ g ∈ s.ct.groups, g.regsDone = true) ∧ s.cg.since = none ∧
        s.faults = [] ∧ (∀ g ∈ s.ct.groups, g.index = s.curGroup) ∧ (s.ctxFunc s.ct.ctx).ctxbuf.toNat / 2 ^ 16 % 2 ^ 36 ≠ 0 := by
  intro x h
  simp only [List.mem_cons, List.not_mem_nil, or_false] at h
  rcases h with rfl | rfl | rfl | rfl <;>
    exact ⟨_, _, rfl, canIssue_of (by decide +kernel), by decide +kernel, by decide +kernel, by decide +kernel,
      by decide +kernel⟩

/-- A team that resumes, whose record gives its group 8 registers; and its image at 1 MiB, whose section ends in
the descriptor. -/
def resumed : State :=
  { (entered 0x40 (.ctxloadImg ctxOp)).modCt fun t => { t with resumeCw := some 0 } with
    grids := [{ serial := ((at_ (.nop md)).team 1).ownGrid, ctx := 1, queue := 0, placed := 1, unended := 1, left := true,
                waited := 0, replay := none, follows := none, replayRecs := [], entered := 0,
                record := parseRecord (leBytes 8 0 ++ leBytes 8 0x40 ++ zeros 8 ++ leBytes 2 1 ++ leBytes 2 1 ++ leBytes 2 1 ++
                  [1, 1] ++ [8, 1] ++ zeros 6 ++ leBytes 4 4096 ++ zeros 4 ++ leBytes 4 256 ++ leBytes 2 16 ++ zeros 74) }] }
def shortEnd : List Byte :=
  [8] ++ zeros 7 ++ leBytes 4 4096 ++ leBytes 4 0 ++ leBytes 4 256 ++ leBytes 2 16 ++ [1]
def shortSection : List Byte := zeros 0x5F8 ++ shortEnd
def loading : State :=
  { resumed with
    hbm := (resumed.hbm.writeN 0x100000 (imageHead 0x70F 2284147460 ++ imageTable 1 0x60F 0x100 2896960024 0x60F)).writeN
      0x1006F8 shortEnd }

theorem loading_bytes :
    (List.range 0x60F).map (fun i => loading.hbmByte (16 * 65536 + (0x100000 + 0x100) % 65536 + i)) = shortSection := by
  have ht : shortEnd.length = 23 := by decide +kernel
  have hz : (zeros 0x5F8).length = 0x5F8 := List.length_replicate
  have hl : shortSection.length = 0x60F := by rw [shortSection, List.length_append, ht, hz]
  have hh : (imageHead 0x70F 2284147460 ++ imageTable 1 0x60F 0x100 2896960024 0x60F).length = 88 := by decide +kernel
  have hr : ∀ x ∈ resumed.hbm, x.1 < 0x100000 := by decide +kernel
  refine List.ext_getElem (by rw [List.length_map, List.length_range, hl]) fun i hi hj => ?_
  rw [List.length_map, List.length_range] at hi
  have hs : loading.hbmByte (0x100100 + i) = loading.hbm.read (0x100100 + i) := by
    unfold State.hbmByte State.scrubbing
    rw [show loading.scrub = [] from rfl]; rfl
  rw [List.getElem_map, List.getElem_range, show 16 * 65536 + (0x100000 + 0x100) % 65536 + i = 0x100100 + i from by omega, hs,
    loading, Memory.read_writeN, Memory.read_writeN, ht, hh]
  by_cases h : i < 0x5F8
  · have h0 : resumed.hbm.read (0x100100 + i) = 0 := read_absent fun x hx => by have := hr x hx; omega
    rw [if_neg (by omega), if_neg (by omega), h0]
    simp only [shortSection]
    rw [List.getElem_append_left (by rw [hz]; exact h)]
    simp only [zeros, List.getElem_replicate]
  · have e : 0x100100 + i - 0x1006F8 = i - (zeros 0x5F8).length := by rw [hz]; omega
    simp only [shortSection]
    rw [if_pos (by omega), e, List.getElem_append_right (by rw [hz]; omega), List.getD_eq_getElem?_getD,
      List.getElem?_eq_getElem (by rw [hz, ht]; omega), Option.getD_some]

/-- The register of the checksum before each run of 63 zeros of the section. -/
def crcRuns : List Word :=
  [1872566959, 723379, 1089747824, 2551819486, 3042687156, 4252308610, 3287182235, 1737966233,
   1087717745, 2750194560, 2453064156, 588003207, 2307279742, 2344895364, 1434585092, 3122665270, 2770842896,
   1224415660, 1559428264, 3044303892, 2953277749, 4162969802, 2744151073, 3063515103]

theorem crc_runs : ∀ (l : List Word) (c : Word), (((c :: l).zip l).all fun x => (zeros 63).foldl crcByte x.1 == x.2) = true →
    (zeros (63 * l.length)).foldl crcByte c = l.getLastD c := by
  intro l
  induction l with
  | nil => intro c _; rfl
  | cons d r ih =>
    intro c h
    simp only [List.zip_cons_cons, List.all_cons, Bool.and_eq_true, beq_iff_eq] at h
    have hz : zeros (63 * (d :: r).length) = zeros 63 ++ zeros (63 * r.length) := by
      unfold zeros
      rw [List.length_cons, Nat.mul_succ, Nat.add_comm, List.replicate_append_replicate]
    rw [hz, List.foldl_append, h.1, ih d h.2]
    cases r <;> rfl

theorem shortSection_crc : (crc32c shortSection).toNat = 2896960024 := by
  have hz := crc_runs crcRuns 0xFFFFFFFF (by decide +kernel)
  have hs : zeros 0x5F8 = zeros (63 * crcRuns.length) ++ zeros 16 := by
    unfold zeros
    rw [List.replicate_append_replicate]; rfl
  unfold crc32c shortSection shortEnd
  rw [hs]
  simp only [List.foldl_append, hz]
  decide +kernel

theorem readImage_one {s : State} {ctx va : Nat} {h t bs : List Byte} (he : s.imageEntries ctx va = some (h, t))
    (hn : fieldLe h 0x12 2 = 1) (hb : s.sectionBytes ctx va t 0 = some bs) (ht : fieldLe t 0 2 = 1)
    (hc : fieldLe h 0 4 = 0x31494348 ∧ fieldLe h 4 2 = 1 ∧ fieldLe h 6 2 = 0 ∧ fieldLe h 0x11 1 = 1 ∧
      (crc32c (h.take 48 ++ t)).toNat = fieldLe h 0x30 4 ∧ fieldLe h 0x14 2 = ctx) :
    s.readImage ctx va =
      some (h, [{ ty := 1, flags := fieldLe t 2 1, index := fieldLe t 3 1, planned := fieldLe t 0x14 4, bytes := bs }]) := by
  obtain ⟨h1, h2, h3, h4, h5, h6⟩ := hc
  unfold State.readImage
  rw [he]
  simp [hn, hb, ht, h1, h2, h3, h4, h5, h6]

theorem test_met_ImageLoads :
    let i : Instr := .ctxloadImg ctxOp
    let found : Found := { ty := 1, flags := 0, index := 0, planned := 0x60F, bytes := shortSection }
    ∀ s, s = resumed ∨ s = loading →
      CanIssue i s ∧ s.cg.inSup = true ∧ s.active i ≠ 0 ∧ s.ct.resumeCw.isSome = true ∧ s.cg.trapRegs.code = 0x40 ∧
        s.cg.frames ≠ [] ∧ s.ct.ctx = 1 ∧ (s.ctxFunc s.ct.ctx).ctxbuf.toNat / 2 ^ 16 % 2 ^ 36 * 2 ^ 16 = 0x100000 ∧
        (s = resumed → s.readImage 1 0x100000 = none) ∧
        (s = loading → s.readImage 1 0x100000 = some (imageHead 0x70F 2284147460, [found]) ∧
          shapeMatches s.ct (s.placedBudget s.ct) [found] = true) := by
  have empty : resumed.readImage 1 0x100000 = none := by decide +kernel
  have read : loading.readImage 1 0x100000 = some (imageHead 0x70F 2284147460,
      [{ ty := 1, flags := 0, index := 0, planned := 0x60F, bytes := shortSection }]) := by
    have hm : Mapped loading := mapped_of (by decide +kernel) (by decide +kernel)
    have he : loading.imageEntries 1 0x100000 =
        some (imageHead 0x70F 2284147460, imageTable 1 0x60F 0x100 2896960024 0x60F) := by decide +kernel
    have hv : loading.vRead 1 (0x100000 + 0x100) 0x60F = some shortSection := by
      rw [vRead_page (by decide) (hm.walk (by decide)), ← loading_bytes]; rfl
    have hb : loading.sectionBytes 1 0x100000 (imageTable 1 0x60F 0x100 2896960024 0x60F) 0 = some shortSection := by
      unfold State.sectionBytes
      simp only [show fieldLe (imageTable 1 0x60F 0x100 2896960024 0x60F) (24 * 0 + 8) 8 = 0x100 from by decide +kernel,
        show fieldLe (imageTable 1 0x60F 0x100 2896960024 0x60F) (24 * 0 + 4) 4 = 0x60F from by decide +kernel,
        show fieldLe (imageTable 1 0x60F 0x100 2896960024 0x60F) (24 * 0 + 0x10) 4 = 2896960024 from by decide +kernel]
      rw [hv, Option.filter_some, shortSection_crc, beq_self_eq_true, if_pos rfl]
    have hf : fieldLe (imageTable 1 0x60F 0x100 2896960024 0x60F) 2 1 = 0 ∧
        fieldLe (imageTable 1 0x60F 0x100 2896960024 0x60F) 3 1 = 0 ∧
        fieldLe (imageTable 1 0x60F 0x100 2896960024 0x60F) 0x14 4 = 0x60F := by decide +kernel
    rw [readImage_one he (by decide +kernel) hb (by decide +kernel) (by decide +kernel), hf.1, hf.2.1, hf.2.2]
  rintro i found s (rfl | rfl)
  · exact ⟨canIssue_of (by decide +kernel), by decide +kernel, by decide +kernel, by decide +kernel, by decide +kernel,
      by decide +kernel, by decide +kernel, by decide +kernel, fun _ => empty, fun h => by
        have h : resumed.hbm.length = loading.hbm.length := congrArg (fun s : State => s.hbm.length) h
        exact absurd h (by decide +kernel)⟩
  · exact ⟨canIssue_of (by decide +kernel), by decide +kernel, by decide +kernel, by decide +kernel, by decide +kernel,
      by decide +kernel, by decide +kernel, by decide +kernel, fun h => by
        have h : loading.hbm.length = resumed.hbm.length := congrArg (fun s : State => s.hbm.length) h
        exact absurd h (by decide +kernel), fun _ => ⟨read, by decide +kernel⟩⟩

/-! ### Hypotheses met: answers, pages, stops -/

def withPark (p : Park) (s : State) : State := s.modCg fun g => { g with park := p }

theorem test_met_ParksEnd :
    (∀ x ∈ [(Instr.ld 4 tmBase .w32 .v1 none false md, Park.ld), (.ldu 4 tmBase .w32 .v1 md, .ld),
        (.pwait 4 tmBase md, .pwait), (.cwwait cwOp, .cwwait false), (.copyIn ⟨3, 4, cw5, md⟩, .tracker)],
      let s := withPark x.2 (putG 4 4 (lastTm x.1))
      (s.team? 1).isSome = true ∧ (s.team 1).running (s.group 1 0) = true ∧ (s.group 1 0).park = x.2 ∧
        s.heldAt 1 0 = some x.1 ∧ s.present lastLoc 4 = true ∧ s.engineReads 0 cwLoc 8 s.fresh = true ∧
        s.copies.length < 16) ∧
    (let s := withPark (.cwwait false) (at_ (.cwwait cwOp))
     s.cwCheck (.cwwait cwOp) cwOp true false = .ok cwLoc ∧
       s.cg.rs64 (8 : BitVec 6) ≤ (s.team 1).tm.readLe 8 8 ∧ 8 + 8 ≤ round4k (s.team 1).tmSize) :=
  ⟨by decide +kernel, ok_of_option (by decide +kernel), by decide +kernel⟩

/-- Lane 31 waits for the service of its page. -/
def pendOf : Pend := { code := 5, addr := 7, word := 9, pc := 4, decode := false }
def serviced (r : List (Nat × Nat × Nat × Nat)) : State :=
  (mapLanes (fun l x => if l = 31 then { x with st := .parked (.service 5 pendOf) } else x) (at_ (.nop md))).modFunc 0
    fun f => { f with requests := r }

/-- It runs in a supervisor handler, and the ring has room. -/
def servicedSup : State :=
  (mapLanes (fun l x => if l = 31 then { x with st := .parked (.service 5 pendOf) } else { x with st := .ready })
    (handling (.nop md))).modFunc 0 fun f =>
      { f with requests := [(5, 1, 0, 31)], fqbase := 0x1000, fqsize := 64, fqtail := 64, fqhead := 1 }

theorem test_met_ServiceAnswers :
    (∀ r ∈ ((serviced []).func 0).requests, r.1 % 2 ^ 31 ≠ 5) ∧
    (let s := serviced [(5, 1, 0, 31)]
     (s.func 0).requests.find? (fun r => r.1 % 2 ^ 31 == 5 % 2 ^ 31) = some (5, 1, 0, 31) ∧ (s.team? 1).isSome = true ∧
       ((s.team 1).group? 0).isSome = true ∧ (s.group 1 0).lanes.length = 32 ∧
       ((s.group 1 0).lane 31).st = .parked (.service 5 pendOf) ∧ (s.group 1 0).inSup = false) ∧
    (let s := servicedSup
     let f := s.func ((s.team 1).ctx - 1)
     (s.func 0).requests.find? (fun r => r.1 % 2 ^ 31 == 5 % 2 ^ 31) = some (5, 1, 0, 31) ∧ (s.team? 1).isSome = true ∧
       ((s.team 1).group? 0).isSome = true ∧ (s.group 1 0).lanes.length = 32 ∧ (s.group 1 0).inSup = true ∧
       (s.group 1 0).ended = false ∧ ((s.group 1 0).lane 31).st = .parked (.service 5 pendOf) ∧
       (∀ k, k < 31 → ((s.group 1 0).lane k).st = .ready) ∧ f.queueOk = true ∧ f.fqtail - f.fqhead ≠ f.fqsize) := by
  decide +kernel

def recordOf : FaultRec :=
  { code := 0x20, lane := 3, flags := 0, pc := 4, addr := 8, grpslot := 0, x := 0, y := 0, z := 0, group := 0 }
/-- The record of team 1 waits, in a function whose ring of 64 records is full up to the head. -/
def recording (team held : Nat) (head : Word) : State :=
  { ((at_ (.nop md)).modCt fun t => { t with records := List.replicate held recordOf }).modFunc 0 fun f =>
      { f with fqbase := 0x1000, fqsize := 64, fqtail := 64, fqhead := head } with faults := [(team, 1, recordOf)] }

theorem test_met_RecordDelivery :
    (∀ s ∈ [recording 7 0 0, recording 1 16 0, recording 1 15 1],
      s.faults[0]?.isSome = true ∧ (s.func 0).queueOk = true) ∧
    (recording 7 0 0).team? 7 = none ∧
    (let s := (recording 1 0 0).modTeam 1 fun t => { t with groups := [] }
     (s.team? 1).any (fun t => t.departed) = true ∧ s.faults[0]?.isSome = true) ∧
    ((recording 1 16 0).team? 1).any (fun t => t.records.length == 16 && !t.departed) = true ∧
    ((recording 1 15 1).team? 1).any (fun t => decide (t.records.length < 16) && !t.departed &&
      t.receiver recordOf == some (0, false)) = true ∧
    ((recording 1 15 1).group 1 0).ended = false ∧ ((recording 1 15 1).group 1 0).inSup = false ∧
    (let f := (recording 1 16 0).func 0; f.fqtail - f.fqhead = f.fqsize) ∧
    (let f := (recording 1 15 1).func 0; f.fqtail - f.fqhead ≠ f.fqsize) := by decide +kernel

/-- Page 5 has this level-3 entry, with a sweep of it in progress or none, and these pages away. -/
def paged (e : Nat) (sweeps : List Sweep) (away : Table CapPage) : State :=
  { at_ (.nop md) with
    hbm := ((((at_ (.nop md)).hbm.writeN 0 (leBytes 8 0x10003)).writeN 0x10000 (leBytes 8 0x30003)).writeN 0x30028 (leBytes 8 e))
    sweeps := sweeps, capacity := away, fresh := 9 }
def awayPage : CapPage := { mem := [(65535, 7)], tags := [] }

theorem test_met_PageMoves :
    (let s := paged 0x4003B [] []
     s.leaf (s.ctxFunc 1) 0x5FFFF = some (0x30028, 0x4003B) ∧ s.scrub = [] ∧ s.sweepOf 1 (some 5) = none ∧
       entV 0x4003B = true ∧ entT 0x4003B = true ∧ entRes0 0x4003B = true ∧ entMig 0x4003B = false) ∧
    (let s := paged 0x400BB [{ ctx := 1, page := some 5, since := 3 }] []
     s.leaf (s.ctxFunc 1) 0x5FFFF = some (0x30028, 0x400BB) ∧ s.scrub = [] ∧
       s.sweepOf 1 (some 5) = some { ctx := 1, page := some 5, since := 3 } ∧ s.copies = [] ∧
       stageTwo (s.ctxFunc 1) (entAddr 0x400BB) = some 0x40000) ∧
    (∀ e, e = 0 ∨ e = 0x80 →
      let s := paged e [] [(2 ^ 36 + 5, awayPage)]
      s.leaf (s.ctxFunc 1) 0x5FFFF = some (0x30028, e) ∧ s.scrub = [] ∧ entV e = false ∧
        tfind s.capacity (2 ^ 36 + 5) = some awayPage ∧ stageTwo (s.ctxFunc 1) 0x50000 = some 0x50000 ∧
        (entMig e = true ↔ e = 0x80) ∧ awayPage.mem.wf = true ∧ (∀ c ∈ awayPage.mem, c.1 < 65536) ∧
        0x30028 + 8 ≤ 0x50000 ∧ 0x50000 % 65536 = 0) ∧
    (let s := mapLanes (fun l x => if l = 31 then { x with st := .parked (.mig 0x5FFFF) } else x) (paged 0x4003B [] [])
     (s.team? 1).isSome = true ∧ (s.group 1 0).lanes.length = 32 ∧ ((s.team 1).group? 0).isSome = true ∧
       ((s.group 1 0).lane 31).st = .parked (.mig 0x5FFFF) ∧ s.walk (s.ctxFunc (s.team 1).ctx) (0x5FFFF % 2 ^ 52) .rd ≠ .mig) ∧
    ((paged 0 [] []).sweepOf 1 none = none ∧
      (paged 0 [{ ctx := 1, page := none, since := 3 }] []).sweepOf 1 none = some { ctx := 1, page := none, since := 3 }) := by
  refine ⟨by decide +kernel, by decide +kernel, ?_, by decide +kernel, by decide +kernel⟩
  rintro e (rfl | rfl) <;> decide +kernel

/-- The team stands at a clause's header under this stop. -/
def stopping (stop : Stop) : State := (atHdr (.nop md)).modCt fun t => { t with stop := stop }

theorem test_met_TeamStops :
    ((stopping .none).team? 1).isSome = true ∧ DistinctTeams (stopping .none) ∧ ((stopping .none).team 1).stop = .none ∧
    ((stopping .none).team 1).departed = false ∧
    (((stopping (.slice 0)).team 1).stop = .slice 0 ∧ ((stopping (.slice 0)).team 1).departed = false ∧
      DistinctTeams (stopping (.slice 0)) ∧
      ((stopping (.slice 0)).team 1).isHalted = false ∧
      ∃ y ∈ (stopping (.slice 0)).members ((stopping (.slice 0)).team 1), y.hasStopped = false) ∧
    (∀ stop, stop = .fine false ∨ stop = .fine true ∨ stop = .slice 5 →
      let s := (stopping stop).modCg fun g => { g with stopped := true, park := if stop = .slice 5 then .barMid false else .none }
      let t := s.team 1
      let f := s.ctxFunc t.ctx
      (s.team? 1).isSome = true ∧ t.stop = stop ∧ (∀ y ∈ s.members t, y.hasStopped = true) ∧ s.stopWork 1 = none ∧
        s.stopSettled 1 = true ∧ f.tracectl.getLsbD 0 = false ∧ (t.group? 0).isSome = true ∧ (t.group 0).ended = false ∧
        (t.group 0).clause = none ∧ (t.group 0).lanes.length = 32 ∧
        (s.codeWord t.ctx (BitVec.ofNat 32 (f.svtab.toNat / 256 * 256 + 4 * 0x40))).isSome = true ∧
        (s.codeWord t.ctx (BitVec.ofNat 32 (f.svtab.toNat / 256 * 256 + 4 * 0x41))).isSome = true) := by
  unfold DistinctTeams
  refine ⟨by decide +kernel, by decide +kernel, by decide +kernel, by decide +kernel, by decide +kernel, ?_⟩
  rintro stop (rfl | rfl | rfl) <;> decide +kernel

theorem test_met_HostDebug :
    (63 : Nat) ≠ 0 ∧ (at_ (.nop md)).debugTeam 0 1 = none ∧
    (let s := (at_ (.nop md)).modFunc 0 fun f => { f with dbgCtx := 1, dbgXY := 0 }
     ∃ t, s.debugTeam 0 0 = some t ∧ s.team? t.key = some t) :=
  ⟨by decide, by decide +kernel, _, rfl, by decide +kernel⟩

/-! ### Hypotheses met: launches, periods, the Pilot -/

/-- A device in service with one context and no team, and a record of one group of 8 registers. -/
def serving : State :=
  { State.reset with
    boot := { State.reset.boot with stage := .ready false, clusters := 1 }
    funcs := tins State.reset.funcs 0 { State.reset.func 0 with exists_ := true, segsize := 0x1000, clusters := 1, flags := 1 } }
def recordBytes (groups : Byte) : List Byte :=
  leBytes 8 77 ++ leBytes 4 0x40 ++ zeros 4 ++ leBytes 8 0x123456789 ++ leBytes 2 2 ++ leBytes 2 1 ++ leBytes 2 1 ++ [groups, 1] ++
    [8, groups] ++ zeros 6 ++ leBytes 4 4096 ++ zeros 4 ++ leBytes 4 256 ++ leBytes 2 16 ++ zeros 2 ++ zeros 72
def gridOf (groups : Byte) : Grid :=
  { serial := 1, ctx := 1, queue := 7, record := parseRecord (recordBytes groups), placed := 0, unended := 2, left := false,
    waited := 0, replay := none, follows := none, replayRecs := [], entered := 0 }

/-- A grid of the second context waits for a core that a team of the third fills, whose budget is used up. -/
def pinnedGrid : Grid := { gridOf 1 with ctx := 2, record := { (gridOf 1).record with flags := 8 } }
def contested : State :=
  let f : Func := { State.reset.func 0 with exists_ := true, segsize := 0x1000, flags := 1 }
  { (at_ (.nop md)).modCt (fun t => { t with ctx := 3, tmSize := 0x180000 }) with
    boot := { State.reset.boot with stage := .ready false, clusters := 1 }
    grids := [pinnedGrid]
    fresh := 9
    funcs := [(0, f), (1, { f with clusters := 1, balance := 5 }), (2, f)] }

theorem test_met_Dispatch :
    ((recordBytes 1).length = 128 ∧ 0x7F00 % 128 = 0 ∧ 0x7F00 < 0x8000 ∧ 0x7F00 % 4096 < 0xF80 ∧
      (serving.func 63).exists_ = false ∧ (serving.func 0).exists_ = true ∧ serving.grids = [] ∧
      64 ≤ (({ serving with grids := manyGrids } : State).grids.filter fun g => g.ctx == 0 + 1 && g.queue == 0 && !g.left).length) ∧
    (let s := { serving with grids := [gridOf 1] }
     s.boot.isReady = true ∧ s.capDue = false ∧ (∀ h ∈ s.heads, s.refusable h = false) ∧ s.candidates = [gridOf 1] ∧
       (gridOf 1).record.peloton = false ∧ (gridOf 1).record.resume = false ∧
       s.chooseCore 1 (gridOf 1).record 0 = some 0 ∧ (s.ctxFunc 1).tracectl.getLsbD 0 = false ∧
       (s.grid? (gridOf 1).serial).isSome = true) ∧
    (let s := { serving with grids := [gridOf 0] }
     s.boot.isReady = true ∧ s.capDue = false ∧ (gridOf 0).left = false ∧ s.refusable (gridOf 0) = true) ∧
    (let s := contested
     s.boot.isReady = true ∧ s.capDue = false ∧ (∀ h ∈ s.heads, s.refusable h = false) ∧ s.candidates = [pinnedGrid] ∧
       2 ≤ pinnedGrid.ctx ∧ (s.func (pinnedGrid.ctx - 1)).balance ≠ 0 ∧
       s.chooseCore pinnedGrid.ctx pinnedGrid.record pinnedGrid.placed = none ∧ s.disp.stopping = none ∧
       s.victim pinnedGrid none = some (s.team 1) ∧ (s.team 1).peloton = false ∧ s.team? (s.team 1).key = some (s.team 1) ∧
       ∀ y ∈ s.teams, y.key < s.fresh) := by decide +kernel

/-- A boundary or a tick is due. -/
def due (boundary tick : Bool) (s : State) : State :=
  { s with disp := { s.disp with boundaryDue := boundary, tickDue := tick } }
/-- The function is critical with this target. -/
def critical (target : Nat) (s : State) : State := s.modFunc 0 fun f => { f with flags := 5, target := target }

theorem test_met_Periods :
    (let s := due true false serving
     s.disp.boundaryDue = true ∧ s.disp.tickDue = false ∧ s.decisionDue = false) ∧
    (let s (c : Option Nat) : State := { serving with disp := { serving.disp with cap := c } }
     (∀ c, c = none ∨ c = some 0 ∨ c = some 9 → (s c).disp.capReached = false ∧ (s c).disp.boundaryDue = false) ∧
       ∀ c, some 9 = some c → (((s (some 9)).energy.map (·.2)).sum - (s (some 9)).disp.periodFrom) / (Config.energyUnit + 1) < c) ∧
    (let s (t : Nat) : State := { due false true (critical t serving) with hists := [(0, [0, 0, 3]), (960, [0, 0, 2])] }
     (∀ t, t = 94 ∨ t = 95 ∨ t = 200 → (s t).disp.tickDue = true) ∧
       ((s 94).tickHist 0).sum = 5 ∧ lat99 ((s 94).tickHist 0) = 95 ∧
       ((s 94).applyKnobs [4, 5]).funcs.any (fun x => x.1 == 0 && x.2.flags.getLsbD 2 && x.2.target == 94) = true ∧
       ((s 95).applyKnobs [4, 5]).funcs.any (fun x => x.1 == 0 && x.2.flags.getLsbD 2 && x.2.target == 95) = true ∧
       ((s 200).applyKnobs [4, 5]).funcs.all (fun x => ((s 200).tickHist x.1).sum == 0 ||
         decide (95 ≤ x.2.target - x.2.target / 8)) = true) ∧
    (let h := [0, 0, 99, 1]
     h.sum ≠ 0 ∧ 99 * h.sum ≤ 100 * (h.take (2 + 1)).sum ∧ ∀ c, c < 2 → 100 * (h.take (c + 1)).sum < 99 * h.sum) ∧
    (let s := (((at_ (.nop md)).modFunc 0 fun f => { f with hangwd := 1 }).modCg fun g =>
       { g with watchdog := 65536, park := .cwwait false })
     let u := mapLanes (fun l x => if l = 31 then { x with st := .barrier 0 0 } else x)
       (s.modCg fun g => { g with park := .none })
     (s.team? 1).isSome = true ∧ ((s.team 1).group? 0).isSome = true ∧ (s.func 0).hangwd.toNat % 65536 = 1 ∧
       1 * 65536 ≤ (s.group 1 0).watchdog ∧ (s.group 1 0).park = .cwwait false ∧ ((u.group 1 0).lane 31).st = .barrier 0 0 ∧
       (s.func 0).tracectl.getLsbD 0 = false ∧ (u.func 0).tracectl.getLsbD 0 = false ∧ 65536 ≤ (u.group 1 0).watchdog) := by
  refine ⟨by decide +kernel, ⟨?_, ?_⟩, ⟨?_, by decide +kernel⟩, by decide +kernel, by decide +kernel⟩
  · rintro c (rfl | rfl | rfl) <;> decide +kernel
  · rintro c ⟨⟩
    rw [show ((serving.energy.map (·.2)).sum - serving.disp.periodFrom) = 0 from by decide +kernel, Nat.zero_div]
    decide
  · rintro t (rfl | rfl | rfl) <;> decide +kernel

/-- Groups whose phase has reached the throttle step, before and after a cap is reached, and a critical tenant's. -/
theorem test_met_Throttling :
    (let s := at_ (.nop md)
     (1, 0) ∈ s.arbiter ∧ ¬ Capped s ∧ (s.func 0).flags.getLsbD 2 = false) ∧
    (let s := (at_ (.nop md)).modCore 0 fun c => { c with phases := [15, 15, 15, 15] }
     let t : State := { s with disp := { s.disp with cap := some 0 } }
     (1, 0) ∈ t.arbiter ∧ Capped t ∧ (t.func 0).flags.getLsbD 2 = false) ∧
    (let s := critical 9 (at_ (.nop md))
     (1, 0) ∈ s.arbiter ∧ (s.func 0).flags.getLsbD 2 = true) := by
  refine ⟨⟨by decide +kernel, ?_, by decide +kernel⟩,
    ⟨by decide +kernel, .inr ⟨0, by decide +kernel, Nat.zero_le _⟩, by decide +kernel⟩, by decide +kernel⟩
  have h : (at_ (.nop md)).disp.capReached = false ∧ (at_ (.nop md)).disp.cap = none := by decide +kernel
  rintro (hc | ⟨c, hc, _⟩)
  · rw [h.1] at hc; cases hc
  · rw [h.2] at hc; cases hc

/-- Tenants with a sensor of KIND 8: a critical one, and others before and after the cap is reached. -/
theorem test_met_PilotDecisions_step :
    ((State.reset.modFunc 63 fun f => { f with flags := 5 }).func 63).flags.getLsbD 2 = true ∧
    (∀ cap, cap = true ∨ cap = false →
      let s : State := { State.reset with disp := { State.reset.disp with capReached := cap } }
      (s.func 63).flags.getLsbD 2 = false ∧ s.disp.cap = none ∧ s.disp.capReached = cap) := by
  refine ⟨by decide +kernel, ?_⟩
  rintro cap (rfl | rfl) <;> decide +kernel

/-- One access of the group is on its way. -/
def accessing (index : Nat) (set : Option Word) (res : Option Nat) : State :=
  { at_ (.nop md) with pilotNet := [{ team := 1, group := 0, index := index, set := set, res := res }] }

theorem test_met_PilotAccesses :
    (∀ n, n = 0 ∨ n = 0x3FFF → (accessing n (some 1) none).pilotNet[0]?.any (fun m => m.index == n && m.set == some 1) = true) ∧
    (let r : PendRes := { id := 3, seq := 1, live := [(.s 5, 1)], need := 1, vals := [], landed := false, loads := false,
                          atomic := false, acquire := false }
     let s := (accessing 0x2001 none (some 3)).modCg fun g => { g with pending := [r] }
     s.pilotNet[0]?.any (fun m => m.set == none && m.res == some 3) = true ∧ (s.group 1 0).pending = [r] ∧
       r.live.map (·.1) = [RegName.s 5] ∧ (s.team? 1).isSome = true ∧ ((s.team 1).group? 0).isSome = true ∧
       s.boot.minimal = false) ∧
    (∀ v : Word, v = 1 ∨ v = 0 →
      let s := accessing 0 (some v) none
      s.controlWrite v = some 0 ∧ s.boot.minimal = false ∧ s.pilot.invalid v = false ∧ s.pilot.enabled = false) ∧
    (let s := { accessing 0 (some 1) none with pilot := (accessing 0 (some 1) none).pilot.put 0 1 }
     s.controlWrite 1 = some 0 ∧ s.pilot.invalid 1 = false ∧ s.pilot.enabled = true) ∧
    (State.reset.pilot.invalid 2 = true ∧ State.reset.pilot.invalid 0x8103 = true) := by
  refine ⟨?_, by decide +kernel, ?_, by decide +kernel, by decide +kernel⟩
  · rintro n (rfl | rfl) <;> decide +kernel
  · rintro v (rfl | rfl) <;> decide +kernel

theorem test_met_PilotDecisions :
    (let s : State := due true false { serving with pilot := { (serving.pilot.put 0 1) with left := 1 } }
     s.disp.boundaryDue = true ∧ s.disp.tickDue = false ∧ s.decisionDue = true ∧ s.pilot.ps < 256 ∧ s.pilot.pa < 16 ∧
       s.pilot.energyFrom = s.disp.periodFrom) ∧
    ((serving.pilot.put 8 0xFFFFFFFF).word 8).toInt ≤ 0 ∧ (serving.pilot.word 9).toInt ≤ 0 ∧
    (let p := ((serving.pilot.put 0xB 1).put 0xC 1).put 0x400 1
     0 < p.nActions ∧ p.nKnobs = 1 ∧ p.nEnvelope = 1 ∧ (∀ e, e < p.nEnvelope → p.holds (p.candidate 0) e = true) ∧
       (p.put 0x410 0xFFFFFFFF).holds ((p.put 0x410 0xFFFFFFFF).candidate 0) 0 = false) := by decide +kernel

/-! ### Hypotheses met: registers, start-up, links, the step -/

theorem test_met_HostRegisters :
    ((serving.func 63).flags.getLsbD 0 = false ∧ serving.busyFunc 63 = false) ∧
    ((serving.func 0).flags.getLsbD 0 = true ∧ serving.busyFunc 0 = false ∧
      (let s : State := { serving with grids := [gridOf 1] }
       (s.func 0).flags.getLsbD 0 = true ∧ s.busyFunc 0 = true)) ∧
    (∀ off, off = 0 ∨ off = 0x10028 ∨ off = 0x14000 → ¬ holdsRegister { fn := 0, bar2 := false, off := off, value := 1 }) ∧
    (∀ off, off = 0xF81 ∨ off = 0x8000 → ¬ holdsRegister { fn := 63, bar2 := true, off := off, value := 1 } ∨ off % 4 ≠ 0) ∧
    plainField 0x0C ∧ plainField 0x58 ∧ ¬ (State.reset.boot.stage = .ready false) ∧
    (serving.boot.stage = .ready false ∧ serving.boot.busy = false) ∧
    serving.pilot.enabled = false ∧ ({ serving with pilot := serving.pilot.put 0 1 } : State).pilot.enabled = true := by
  unfold plainField holdsRegister
  refine ⟨by decide +kernel, by decide +kernel, ?_, ?_, by decide +kernel⟩
  · rintro off (rfl | rfl | rfl) <;> decide +kernel
  · rintro off (rfl | rfl) <;> decide +kernel

/-- The start has reached a stage. -/
def starting (stage : BootStage) (selfTest : Nat) : State :=
  { State.reset with boot := { State.reset.boot with stage := stage, selfTest := selfTest } }

theorem test_met_StartUp :
    (∀ n, n < 3 → (starting (.stage n false) 0).boot.stage = .stage n false) ∧
    (∀ minimal e, (starting (.stage 3 minimal) e).boot.stage = .stage 3 minimal ∧
      (starting (.stage 3 minimal) e).boot.mslots.length = 8 ∧ (starting (.stage 3 minimal) e).boot.selfTest = e) ∧
    (starting (.ready true) 0).boot.stage = .ready true ∧
    (∀ e ∈ [Instr.getVersion, .getCapabilities, .negotiateAlgorithms, .getDigests, .getCertificate, .challenge [1],
        .getMeasurements 0xFF, .getMeasurements 5],
      (Sys2Proof.spdmAnswer (starting (.ready false) 0).boot e).isSome = true) :=
  ⟨fun _ _ => rfl, fun _ _ => ⟨rfl, rfl, rfl⟩, rfl, by simp [Sys2Proof.spdmAnswer]⟩

/-- The first function has a receive window of one slot of 4 KiB, taken or free, and link 11 is up. -/
def linked (taken : Bool) : State :=
  { serving.modFunc 0 fun f => { f with crecvbase := 1, crecvsize := 1, cslot := 16 } with
    linkUp := 2 ^ 11, hbm := if taken then serving.hbm.writeN 65536 (leBytes 4 1) else serving.hbm }
def contribution : Contribution := { fn := 0, link := 11, sender := 63, collective := 1, round := 2, payload := [1, 2, 3, 4] }

theorem test_met_LinksAndScrubbing :
    ((linked false).receives contribution = true ∧ (linked false).freeSlot ((linked false).func 0) = some 0 ∧
      (linked false).scrub = [] ∧ (linked false).linkUp.getLsbD 11 = true ∧
      ({ linked false with waitingIn := [contribution] } : State).waitingIn[0]? = some contribution) ∧
    ((linked true).receives contribution = true ∧ (linked true).freeSlot ((linked true).func 0) = none) ∧
    (let o := { copyOp tm64 page0 false with waitingPeer := true }
     let s : State := { at_ (.nop md) with copies := [o] }
     s.copies[0]? = some o ∧ o.waitingPeer = true) ∧
    ((linked false).linkUp.getLsbD 0 = false ∧ (linked false).boot.stage = .ready false) ∧
    5 ∈ ({ serving with scrub := [5] } : State).scrub := by decide +kernel

/-- A step runs the word, parks it behind a pending name, traps one that does not decode, and takes an
enabled action; and the word of a table row comes next after reset. -/
theorem test_met_StepRunsDecoded :
    (let s := at_ (.add ⟨4, 5, 6, md⟩)
     s.stopped = false ∧ s.choice = 1 ∧ s.cl.instr = .ok (.add ⟨4, 5, 6, md⟩) ∧ s.cg.park = .none ∧
       (∀ n ∈ readNames (.add ⟨4, 5, 6, md⟩), s.cg.busy n = false)) ∧
    (let r : PendRes := { id := 3, seq := 0, live := [(.g 5, 1)], need := 1, vals := [], landed := false, loads := false,
                          atomic := false, acquire := false }
     let s := (at_ (.add ⟨4, 5, 6, md⟩)).modCg fun g => { g with pending := [r] }
     s.cg.park = .none ∧ ∃ n ∈ readNames (.add ⟨4, 5, 6, md⟩), s.cg.busy n = true) ∧
    (let r : PendRes := { id := 3, seq := 1, live := [(.g 4, 1)], need := 1, vals := [], landed := false, loads := false,
                          atomic := false, acquire := false }
     let s := (at_ (.add ⟨4, 5, 6, md⟩)).modCg fun g => { g with pending := [r] }
     s.cg.park = .none ∧ ∃ n ∈ writeNames (.add ⟨4, 5, 6, md⟩), s.cg.unreturned n = true) ∧
    (let s := State.reset.placeWords [0xC9000000]
     s.stopped = false ∧ s.choice = 1 ∧ errIs (match s.cl.instr with | .error _ => .error (0, 0) | .ok _ => .ok ()) (0, 0) = true) ∧
    (let s : State := { due true false serving with choice := 2 }
     s.stopped = false ∧ 0 < s.actions.length) ∧
    (let s : State := { serving with disp := { serving.disp with boundaryDue := true } }
     Instr.periodBoundary ∈ s.events ∧ isNext (exec .periodBoundary s) = true) ∧
    (let s := at_ (.nop md)
     (1, 0) ∈ s.arbiter) ∧
    (∀ l, l = [] ∨ l = [Instr.rearm] ∨ l = [.powerOn [] [] []] →
      ({ starting .stopped 0 with inbox := l } : State).stopped = true ∧
      ({ starting .stopped 0 with inbox := l } : State).inbox = l) ∧
    (decodeTableWord 32 0x00000000).isSome = true :=
  ⟨⟨by decide +kernel, by decide +kernel, ok_of_option (by decide +kernel), by decide +kernel, by decide +kernel⟩,
    by decide +kernel, by decide +kernel, by decide +kernel, by decide +kernel, by decide +kernel, by decide +kernel,
    by rintro l (rfl | rfl | rfl) <;> decide +kernel, by decide +kernel⟩

/-- Steps that keep the form of memory: an instruction, and an event that writes. -/
theorem test_met_MemoryInvariant :
    Inv State.reset ∧ isNext (step State.reset) = true ∧
      encodable (.nop md) ∧ encodable (.eret md) ∧ ¬ encodable .dispatcherCycle ∧ wellFormed (.add ⟨127, 0, 127, md⟩) = true := by
  refine ⟨inv_reset, by decide +kernel, ?_, ?_, ?_, by decide +kernel⟩
  · exact .inr ⟨md, rfl⟩
  · exact .inl (by decide +kernel)
  · rintro (h | ⟨m, h⟩)
    · exact h (by decide +kernel)
    · cases h

/-! ### Values from the specification's own examples -/

/-- What an instruction does to a state, and a g register of a lane after it. -/
def after (i : Instr) (s : State) : State := match exec i s with | .next t => t | _ => s
def gOf (s : State) (n l : Nat) : Word := s.cg.read (.g n) l

/-- The worked conversions of R116: destination and source type, rounding, saturation, a, result, flags. -/
theorem test_conversions_R116 :
    [(CvtTy.fp .bf16, CvtTy.fp .f32, Rm.rne, false, 0x3F808000, 0x3F80, 8),
     (.fp .e4m3, .fp .f32, .rne, false, 0x43E10000, 0x7E, 8), (.fp .e4m3, .fp .f32, .rne, false, 0x43FA0000, 0x7F, 10),
     (.fp .e4m3, .fp .f32, .rne, true, 0x43FA0000, 0x7E, 10), (.i32, .fp .f32, .rne, false, 0x40600000, 4, 8),
     (.i32, .fp .f32, .rz, false, 0xC0200000, 0xFFFFFFFE, 8), (.i32, .fp .f32, .rne, false, 0x4F32D05E, 0x7FFFFFFF, 1),
     (.w8, .fp .f32, .rne, false, 0x7FC00000, 0, 1), (.i8, .i32, .rne, false, 0x181, 0xFFFFFF81, 0),
     (.i8, .i32, .rne, true, 0x181, 0x7F, 0), (.i8, .fp .f32, .rne, false, 0x42FECCCD, 0x7F, 8),
     (.i8, .fp .f32, .rne, false, 0x42FF3333, 0x7F, 1), (.fp .e5m2, .fp .f32, .rne, true, 0x7F800000, 0x7B, 0),
     (.fp .e4m3, .fp .f32, .rz, false, 0x43FA0000, 0x7F, 10)].all
      (fun (d, t, rm, sat, a, r, f) => fpCvt d t rm sat a == (r, f)) = true := by decide +kernel

/-- The stochastic conversions of R116, and those of R242. -/
theorem test_conversions_R242 :
    fpCvtRs .bf16 false 0x3F808000 0x7FFF = (0x3F80, 8) ∧ fpCvtRs .bf16 false 0x3F808000 0x8000 = (0x3F81, 8) ∧
    [(FTy.f16, Rm.rne, 0x33000000, 0, 12), (.f16, .rne, 0x33400000, 1, 12), (.f16, .ru, 0x30800000, 1, 12),
     (.e5m2, .rne, 0x476A6000, 0x7B, 8), (.e5m2, .rne, 0x47723000, 0x7C, 10), (.e5m2, .rz, 0x47723000, 0x7B, 8),
     (.e5m2, .rz, 0x4788B800, 0x7B, 10), (.e4m3, .rne, 0x43E80000, 0x7E, 8), (.e4m3, .rne, 0x43E88000, 0x7F, 10),
     (.e4m3, .rne, 0x3A800000, 0, 12), (.bf16, .rne, 0x00008001, 1, 12)].all
      (fun (d, rm, a, r, f) => fpCvt (.fp d) (.fp .f32) rm false a == (r, f)) = true := by decide +kernel

/-- Reassembly worked in BF16: weights 0.75 and 0.375, rows 5.0 and 1.0, source 3.0. -/
theorem test_reassembly :
    let w : List Word := [0x3F400000, 0x3EC00000]
    let y0 := some 0x40A00000
    let y1 := some 0x3F800000
    let x := some 0x40400000
    reassemble w [y0, y1] true = (0x4084, 0) ∧ reassemble w [none, y1] true = (0x3EC0, 0) ∧
      reassemble w [x, y1] true = (0x4028, 0) ∧ reassemble w [y0, none] true = (0x4070, 0) ∧
      reassemble w [y0, x] true = (0x409C, 0) ∧ reassemble w [y0, some 0x3F810000] true = (0x4084, 8) := by decide +kernel

/-- Kernel `tri`: every word between its headers. -/
theorem test_words_tri :
    [(0x28020038, 0, Instr.addi ⟨1, 0, md⟩ 7), (0x03000048, 0, .call 9 md), (0x07200018, 0, .enrol 1 3 md),
     (0x10060808, 0, .add ⟨3, 2, 1, md⟩), (0x08200000, 0, .rejoin 1 md), (0x06000000, 0, .exit md),
     (0x10040408, 0, .add ⟨2, 1, 1, md⟩), (0x05000000, 0, .ret md)].all
      (fun (w, x, i) => (decodeWords w x).toOption == some i) = true := by decide +kernel

/-- Kernel `tri`, one word each: g1 := 7; the call, 9 words on from its own word, with the next word's offset
pushed at the lowest spill word; g3 := 14 + 7; the lanes of `exit` are gone. -/
theorem test_addi : gOf (after (.addi ⟨1, 0, md⟩ 7) (at_ (.addi ⟨1, 0, md⟩ 7))) 1 31 = 7 := by decide +kernel
theorem test_call :
    let t := after (.call 9 md) (at_ (.call 9 md))
    (t.cg.lane 5).pc = 40 ∧ (t.cg.lane 5).lsp.toNat * 4 = 252 := by decide +kernel
theorem test_add :
    gOf (after (.add ⟨3, 2, 1, md⟩) (putG 2 14 (putG 1 7 (at_ (.add ⟨3, 2, 1, md⟩))))) 3 0 = 21 := by decide +kernel
theorem test_exit_lane :
    let t := after (.exit md) (oneLane (at_ (.exit md)))
    (t.cg.lane 0).st = .exited ∧ (t.cg.lane 1).st = .ready := by decide +kernel

/-- R107: the most negative number is its own absolute value; a shift by 32 gives 0, or the sign; a source that
is also the destination is read first. -/
theorem test_abs : gOf (after (.abs ⟨1, 2, md⟩) (putG 2 0x80000000 (at_ (.abs ⟨1, 2, md⟩)))) 1 0 = 0x80000000 := by
  decide +kernel
theorem test_shl : gOf (after (.shl ⟨1, 2, 3, md⟩) (putG 2 5 (putG 3 32 (at_ (.shl ⟨1, 2, 3, md⟩))))) 1 0 = 0 := by decide +kernel
theorem test_sar :
    gOf (after (.sar ⟨1, 2, 3, md⟩) (putG 2 0x80000000 (putG 3 32 (at_ (.sar ⟨1, 2, 3, md⟩))))) 1 0 = 0xFFFFFFFF := by
  decide +kernel
theorem test_sub_self : gOf (after (.sub ⟨1, 1, 1, md⟩) (putG 1 9 (at_ (.sub ⟨1, 1, 1, md⟩)))) 1 7 = 0 := by decide +kernel
/-- R108: the carry goes into the high word. -/
theorem test_add64 :
    let t := after (.add64 ⟨4, 2, 2, md⟩) (putG 2 0x80000000 (putG 3 1 (at_ (.add64 ⟨4, 2, 2, md⟩))))
    gOf t 4 0 = 0 ∧ gOf t 5 0 = 3 := by decide +kernel
/-- R109: a field of no bits is 0; a signed one is extended. -/
theorem test_bfe :
    let i (t : IntTy) : Instr := .bfe ⟨1, 2, 3, t, md⟩
    gOf (after (i .i32) (putG 2 0xF0 (putG 3 0x404 (at_ (i .i32))))) 1 0 = 0xFFFFFFFF ∧
      gOf (after (i .w32) (putG 2 0xF0 (putG 3 0x020 (at_ (i .w32))))) 1 0 = 0 := by decide +kernel
/-- R344: `trap` in last place parks its lanes at the fall-through offset, `dbrk` at its own word. -/
theorem test_trap :
    let t := after (.trap 7 md) (oneLane (at_ (.trap 7 md)))
    let u := after (.dbrk 7 md) (oneLane (at_ (.dbrk 7 md)))
    (t.cg.lane 0).st.isParked = true ∧ (t.cg.lane 0).pc = 8 ∧ (t.cg.lane 1).st = .ready ∧ (u.cg.lane 0).pc = 4 := by
  decide +kernel
/-- R194, R4: a store puts its word at the base and offset, low byte first, once its packet has arrived. -/
theorem test_st :
    let i : Instr := .st 4 tmBase .w32 .v1 none md
    let s := (oneLane (putG 4 0x11223344 (lastTm i))).modCt fun t => { t with quantum := 1 }
    let t := (after i s).drainFirst
    let u := after (.homePerform 0 0) t
    t.net.length = 1 ∧ (u.team 1).tm.readLe 4092 4 = 0x11223344 ∧ (u.team 1).tm.readLe 4092 1 = 0x44 := by decide +kernel
end Sys2Proof.Tests
end

section
/-! Values of the integer instructions: each operation of the model on words is the integer function that
R107 and R109 define, modulo 2^32. -/

namespace Sys2Proof.Machine

open Sys2Proof Sys2Proof.Safety

/-! ### Operations on words as functions of integers -/

theorem add_eq_ofNat (a b : Word) : a + b = BitVec.ofNat 32 (a.toNat + b.toNat) := by
  rw [BitVec.ofNat_add]; simp

theorem sub_eq_ofInt (a b : Word) : a - b = BitVec.ofInt 32 (a.toNat - b.toNat) := by
  rw [Int.sub_eq_add_neg, BitVec.ofInt_add, BitVec.ofInt_neg, BitVec.sub_eq_add_neg]; simp

theorem mul_eq_ofNat (a b : Word) : a * b = BitVec.ofNat 32 (a.toNat * b.toNat) := by
  simp [BitVec.ofNat_mul]

theorem neg_eq_ofInt (a : Word) : -a = BitVec.ofInt 32 (-a.toInt) := by simp [BitVec.ofInt_neg]

theorem and_eq_ofNat (a b : Word) : a &&& b = BitVec.ofNat 32 (a.toNat &&& b.toNat) := by
  simp [← BitVec.toNat_and]

theorem or_eq_ofNat (a b : Word) : a ||| b = BitVec.ofNat 32 (a.toNat ||| b.toNat) := by
  simp [← BitVec.toNat_or]

theorem xor_eq_ofNat (a b : Word) : a ^^^ b = BitVec.ofNat 32 (a.toNat ^^^ b.toNat) := by
  simp [← BitVec.toNat_xor]

theorem not_eq_ofNat (a : Word) : ~~~a = BitVec.ofNat 32 (2 ^ 32 - 1 - a.toNat) := by
  rw [← BitVec.toNat_not, BitVec.ofNat_toNat]; simp

theorem add_signExtend_eq_ofInt {w : Nat} (a : Word) (imm : BitVec w) :
    a + imm.signExtend 32 = BitVec.ofInt 32 (a.toNat + imm.toInt) := by
  simp [BitVec.ofInt_add, BitVec.signExtend]

theorem shiftLeft_eq_ofNat (a : Word) (n : Nat) : a <<< n = BitVec.ofNat 32 (a.toNat * 2 ^ n) := by
  apply BitVec.eq_of_toNat_eq
  simp [Nat.shiftLeft_eq]

theorem ushiftRight_eq_ofNat (a : Word) (n : Nat) : a >>> n = BitVec.ofNat 32 (a.toNat / 2 ^ n) := by
  rw [← Nat.shiftRight_eq_div_pow, ← BitVec.toNat_ushiftRight, BitVec.ofNat_toNat]; simp

theorem sshiftRight_eq_ofInt (a : Word) (n : Nat) :
    a.sshiftRight n = BitVec.ofInt 32 (a.toInt / 2 ^ n) := by
  unfold BitVec.sshiftRight
  rw [Int.shiftRight_eq_div_pow]; simp

/-- An arithmetic shift by 31 leaves copies of the sign. -/
theorem sshiftRight_31 (a : Word) : a.sshiftRight 31 = if a.msb then BitVec.allOnes 32 else 0 := by
  apply BitVec.eq_of_getLsbD_eq
  intro j hj
  have hin : (if 31 + j < 32 then a.getLsbD (31 + j) else a.msb) = a.msb := by
    split
    · obtain rfl : j = 0 := by omega
      exact (BitVec.msb_eq_getLsbD_last a).symm
    · rfl
  have hout : (if a.msb then BitVec.allOnes 32 else 0#32).getLsbD j = a.msb := by
    cases a.msb
    · exact BitVec.getLsbD_zero
    · rw [if_pos rfl, BitVec.getLsbD_allOnes, decide_eq_true hj]
  rw [BitVec.getLsbD_sshiftRight, hin]
  refine Eq.trans ?_ hout.symm
  simp [hj]

theorem shlW_eq (a b : Word) :
    shlW a b = if b.toNat < 32 then BitVec.ofNat 32 (a.toNat * 2 ^ b.toNat) else 0 := by
  rw [shlW, shiftLeft_eq_ofNat]

theorem shrW_eq (a b : Word) :
    shrW a b = if b.toNat < 32 then BitVec.ofNat 32 (a.toNat / 2 ^ b.toNat) else 0 := by
  rw [shrW, ushiftRight_eq_ofNat]

theorem sarW_eq (a b : Word) :
    sarW a b = if b.toNat < 32 then BitVec.ofInt 32 (a.toInt / 2 ^ b.toNat)
      else if a.msb then BitVec.allOnes 32 else 0 := by
  unfold sarW
  split
  · exact sshiftRight_eq_ofInt a _
  · exact sshiftRight_31 a

theorem absW_eq (a : Word) : absW a = BitVec.ofNat 32 a.toInt.natAbs := by
  unfold absW
  rw [← BitVec.ofInt_natCast, BitVec.msb_eq_toInt]
  by_cases h : a.toInt < 0
  · rw [if_pos (by simpa using h), Int.ofNat_natAbs_of_nonpos (by omega), neg_eq_ofInt]
  · rw [if_neg (by simpa using h), Int.natAbs_of_nonneg (by omega), BitVec.ofInt_toInt]

theorem clzW_eq (a : Word) : clzW a = if a = 0 then 32 else BitVec.ofNat 32 (31 - Nat.log2 a.toNat) := by
  unfold clzW bitLen
  by_cases h : a = 0
  · subst h; rfl
  · have hn : a.toNat ≠ 0 := fun e => h (BitVec.eq_of_toNat_eq (by simpa using e))
    rw [if_neg hn, if_neg h, Nat.add_comm, Nat.sub_add_eq]

theorem brevW_eq (a : Word) : brevW a = a.reverse := by
  apply BitVec.eq_of_getLsbD_eq
  intro j hj
  rw [brevW, getLsbD_maskOf, BitVec.getLsbD_reverse]
  simp [hj, BitVec.getMsbD]

theorem div_two_pow_mod_two (a : Word) (j : Nat) : a.toNat / 2 ^ j % 2 = (a.getLsbD j).toNat :=
  (Nat.toNat_testBit ..).symm

theorem countP_eq_sum_toNat {α : Type} (p : α → Bool) (l : List α) :
    l.countP p = (l.map fun x => (p x).toNat).sum := by
  induction l with
  | nil => rfl
  | cons x r ih => cases h : p x <;> simp [h, ih, Nat.add_comm]

theorem popcW_eq (a : Word) :
    popcW a = BitVec.ofNat 32 ((List.range 32).map fun j => a.toNat / 2 ^ j % 2).sum := by
  simp only [popcW, countP_eq_sum_toNat, div_two_pow_mod_two]

theorem clampTo_eq (t : IntTy) (v : Int) :
    clampTo t v = BitVec.ofInt 32 (max (tyLow t) (min v (tyHigh t))) := by
  cases t <;> simp only [clampTo, wordOfInt, tyLow, tyHigh] <;> congr 1 <;> omega

theorem leaW_eq (a b : Word) (imm : BitVec 24) (sh : BitVec 5) :
    leaW a b imm sh = BitVec.ofInt 32 (a.toNat + b.toNat * 2 ^ sh.toNat + imm.toInt) := by
  have hs : b <<< sh.toNat = BitVec.ofInt 32 (b.toNat * 2 ^ sh.toNat) := by
    rw [shiftLeft_eq_ofNat, ← BitVec.ofInt_natCast]; norm_cast
  rw [BitVec.ofInt_add, BitVec.ofInt_add, ← hs]
  simp [leaW, BitVec.signExtend]

/-! ### Bit fields -/

theorem ofInt_sub_eq_ofNat (m k : Nat) (hk : k ≤ 2 ^ 32) :
    BitVec.ofInt 32 ((m : Int) - k) = BitVec.ofNat 32 (m + (2 ^ 32 - k)) := by
  apply BitVec.eq_of_toNat_eq
  rw [BitVec.toNat_ofInt, BitVec.toNat_ofNat]
  omega

/-- The sign extension of a field of n + 1 bits, by the field's value. -/
theorem signExtend_ofNat_succ (n f : Nat) (hn : n + 1 ≤ 32) :
    (BitVec.ofNat (n + 1) f).signExtend 32 =
      if f % 2 ^ (n + 1) < 2 ^ n then BitVec.ofNat 32 (f % 2 ^ (n + 1))
      else BitVec.ofNat 32 (f % 2 ^ (n + 1) + (2 ^ 32 - 2 ^ (n + 1))) := by
  have hp : 2 ^ (n + 1) = 2 * 2 ^ n := by rw [Nat.pow_succ, Nat.mul_comm]
  rw [BitVec.signExtend, BitVec.toInt_eq_toNat_cond, BitVec.toNat_ofNat]
  split
  · rw [if_pos (by omega), BitVec.ofInt_natCast]
  · rw [if_neg (by omega), ofInt_sub_eq_ofNat _ _ (Nat.pow_le_pow_right (by decide) hn)]

theorem bfeW_w32 (a b : Word) :
    bfeW .w32 a b = BitVec.ofNat 32 (a.toNat / 2 ^ bfPos b % 2 ^ bfLen b) := by
  show (if bfLen b = 0 then 0 else BitVec.ofNat 32 (a.toNat / 2 ^ bfPos b % 2 ^ bfLen b)) = _
  split
  · next h => rw [h, Nat.pow_zero, Nat.mod_one]; rfl
  · rfl

theorem bfeW_i32 (a b : Word) :
    bfeW .i32 a b = (BitVec.ofNat (bfLen b) (a.toNat / 2 ^ bfPos b)).signExtend 32 := by
  have hl : bfLen b ≤ 32 := by unfold bfLen bfPos; omega
  show (if bfLen b = 0 then 0
    else if a.toNat / 2 ^ bfPos b % 2 ^ bfLen b < 2 ^ (bfLen b - 1)
      then BitVec.ofNat 32 (a.toNat / 2 ^ bfPos b % 2 ^ bfLen b)
      else BitVec.ofNat 32 (a.toNat / 2 ^ bfPos b % 2 ^ bfLen b + (2 ^ 32 - 2 ^ bfLen b))) = _
  generalize bfLen b = n at hl
  cases n with
  | zero => simp [BitVec.signExtend, BitVec.of_length_zero]
  | succ n => exact (signExtend_ofNat_succ n _ hl).symm

theorem mod_two_pow_eq_sum (x n : Nat) :
    x % 2 ^ n = ((List.range n).map fun j => x / 2 ^ j % 2 * 2 ^ j).sum := by
  induction n with
  | zero => simp [Nat.mod_one]
  | succ n ih => rw [Nat.mod_pow_succ, ih, List.range_succ]; simp [Nat.mul_comm]

/-- A word is the sum of its bits. -/
theorem word_eq_sum_bits (x : Word) :
    x = BitVec.ofNat 32 ((List.range 32).map fun j => (x.getLsbD j).toNat * 2 ^ j).sum := by
  simp only [← div_two_pow_mod_two]
  rw [← mod_two_pow_eq_sum, Nat.mod_eq_of_lt x.isLt, BitVec.ofNat_toNat, BitVec.setWidth_eq]

theorem getLsbD_fieldMask {n p j : Nat} (hj : j < 32) :
    (BitVec.ofNat 32 ((2 ^ n - 1) * 2 ^ p)).getLsbD j = decide (p ≤ j ∧ j < p + n) := by
  rw [BitVec.getLsbD_ofNat, Nat.testBit_mul_two_pow, Nat.testBit_two_pow_sub_one]
  by_cases h : p ≤ j
  · simp [h, hj]; omega
  · simp [h]

theorem getLsbD_bfiW {a b c : Word} {j : Nat} (hj : j < 32) :
    (bfiW a b c).getLsbD j =
      if bfPos b ≤ j ∧ j < bfPos b + bfLen b then a.getLsbD (j - bfPos b) else c.getLsbD j := by
  have hp : (BitVec.ofNat 32 (bfPos b)).toNat = bfPos b := by
    rw [BitVec.toNat_ofNat, Nat.mod_eq_of_lt]; unfold bfPos; omega
  show ((c &&& ~~~BitVec.ofNat 32 ((2 ^ bfLen b - 1) * 2 ^ bfPos b)) |||
    (shlW a (BitVec.ofNat 32 (bfPos b)) &&& BitVec.ofNat 32 ((2 ^ bfLen b - 1) * 2 ^ bfPos b))).getLsbD j = _
  rw [BitVec.getLsbD_or, BitVec.getLsbD_and, BitVec.getLsbD_and, BitVec.getLsbD_not, getLsbD_fieldMask hj]
  by_cases h : bfPos b ≤ j ∧ j < bfPos b + bfLen b
  · have hb : bfPos b < 32 := by omega
    have hn : ¬ j < bfPos b := by omega
    simp only [shlW, hp, if_pos hb, if_pos h, BitVec.getLsbD_shiftLeft]
    simp only [h, hj, hn, and_self, decide_true, decide_false, Bool.not_true, Bool.not_false, Bool.and_false,
      Bool.and_true, Bool.true_and, Bool.false_or]
  · simp [h, hj]

theorem bfiW_eq (a b c : Word) :
    bfiW a b c = BitVec.ofNat 32 ((List.range 32).map fun j =>
      (if bfPos b ≤ j ∧ j < bfPos b + bfLen b then a.toNat / 2 ^ (j - bfPos b) % 2
       else c.toNat / 2 ^ j % 2) * 2 ^ j).sum := by
  have hbits : ∀ j ∈ List.range 32, ((bfiW a b c).getLsbD j).toNat * 2 ^ j =
      (if bfPos b ≤ j ∧ j < bfPos b + bfLen b then a.toNat / 2 ^ (j - bfPos b) % 2
       else c.toNat / 2 ^ j % 2) * 2 ^ j := by
    intro j hj
    rw [getLsbD_bfiW (List.mem_range.mp hj), div_two_pow_mod_two, div_two_pow_mod_two, apply_ite Bool.toNat]
  rw [word_eq_sum_bits (bfiW a b c), List.map_congr_left hbits]

/-! ### The integer instructions -/

/-- A computation lane by lane depends on the values of its result alone. -/
theorem State.alu_congr {s : State} {i : Instr} {v w : Group → Nat → Word} (h : ∀ g l, v g l = w g l) :
    (s.alu i fun g l => [v g l]) = s.alu i fun g l => [w g l] := by
  rw [funext fun g => funext (h g)]

/-- R107, R109: an integer instruction of one word computes its result lane by lane, with the value of its
rule. -/
theorem exec_integerResult {i : Instr} {d : BitVec 7} {f : Group → Nat → Word}
    (h : integerResult i = some (d, f)) (s : State) : exec i s = s.alu i fun g l => [f g l] := by
  cases i <;> cases h
  case add => exact State.alu_congr fun _ _ => add_eq_ofNat _ _
  case sub => exact State.alu_congr fun _ _ => sub_eq_ofInt _ _
  case mul => exact State.alu_congr fun _ _ => mul_eq_ofNat _ _
  case mulhi => exact State.alu_congr fun _ _ => rfl
  case mad o t sat =>
    refine State.alu_congr fun _ _ => ?_
    cases sat
    · rfl
    · exact clampTo_eq _ _
  case min => exact State.alu_congr fun _ _ => rfl
  case max => exact State.alu_congr fun _ _ => rfl
  case abs => exact State.alu_congr fun _ _ => absW_eq _
  case neg => exact State.alu_congr fun _ _ => neg_eq_ofInt _
  case and => exact State.alu_congr fun _ _ => and_eq_ofNat _ _
  case or => exact State.alu_congr fun _ _ => or_eq_ofNat _ _
  case xor => exact State.alu_congr fun _ _ => xor_eq_ofNat _ _
  case not => exact State.alu_congr fun _ _ => not_eq_ofNat _
  case shl => exact State.alu_congr fun _ _ => shlW_eq _ _
  case shr => exact State.alu_congr fun _ _ => shrW_eq _ _
  case sar => exact State.alu_congr fun _ _ => sarW_eq _ _
  case clz => exact State.alu_congr fun _ _ => clzW_eq _
  case popc => exact State.alu_congr fun _ _ => popcW_eq _
  case brev => exact State.alu_congr fun _ _ => brevW_eq _
  case bfe o =>
    refine State.alu_congr fun _ _ => ?_
    cases o.t
    · exact bfeW_i32 _ _
    · exact bfeW_w32 _ _
  case bfi => exact State.alu_congr fun _ _ => bfiW_eq _ _ _
  case sel => rfl
  case mov => rfl
  case movi => rfl
  case addi => exact State.alu_congr fun _ _ => add_signExtend_eq_ofInt _ _
  case lea => exact State.alu_congr fun _ _ => leaW_eq _ _ _ _
  case shli => exact State.alu_congr fun _ _ => shiftLeft_eq_ofNat _ _
  case shri => exact State.alu_congr fun _ _ => ushiftRight_eq_ofNat _ _
  case sari => exact State.alu_congr fun _ _ => sshiftRight_eq_ofInt _ _

/-- It writes its result register and no other. -/
theorem writeNames_integerResult {i : Instr} {d : BitVec 7} {f : Group → Nat → Word}
    (h : integerResult i = some (d, f)) : writeNames i = [.g d.toNat] := by
  cases i <;> cases h <;> rfl

theorem laneCollective_integerResult {i : Instr} {d : BitVec 7} {f : Group → Nat → Word}
    (h : integerResult i = some (d, f)) : laneCollective i = false := by
  cases i <;> cases h <;> rfl

end Sys2Proof.Machine
end

section
/-! Words that stop lanes (R303, R310): where `retire` leaves the lanes, the registers and the entry, and
what a word that acts lane by lane does. -/

namespace Sys2Proof.Machine

open Sys2Proof Sys2Proof.Safety

/-! ### Which lanes stop, and why -/

/-- A list of stops holds one reason for a lane. -/
def StopsAt (stops : List LaneStop) (l : Nat) (w : Why) : Prop := ∀ v, ⟨l, v⟩ ∈ stops ↔ v = w

/-- A list of stops holds none for a lane. -/
def Passes (stops : List LaneStop) (l : Nat) : Prop := ∀ w, ⟨l, w⟩ ∉ stops

theorem StopsAt.mem {stops : List LaneStop} {l : Nat} {w : Why} (h : StopsAt stops l w) : ⟨l, w⟩ ∈ stops :=
  (h w).mpr rfl

theorem StopsAt.ne_nil {stops : List LaneStop} {l : Nat} {w : Why} (h : StopsAt stops l w) : stops ≠ [] :=
  List.ne_nil_of_mem h.mem

theorem getLsbD_stopMask (stops : List LaneStop) (l : Nat) :
    (stopMask stops).getLsbD l = true ↔ l < 32 ∧ ∃ w, ⟨l, w⟩ ∈ stops := by
  unfold stopMask
  rw [getLsbD_maskOf]
  simp only [Bool.and_eq_true, decide_eq_true_eq, List.any_eq_true, beq_iff_eq]
  refine and_congr_right fun _ => ⟨?_, ?_⟩
  · rintro ⟨⟨k, w⟩, hx, rfl⟩
    exact ⟨w, hx⟩
  · rintro ⟨w, hx⟩
    exact ⟨_, hx, rfl⟩

theorem StopsAt.not_rest {stops : List LaneStop} {l : Nat} {w : Why} (h : StopsAt stops l w) (hl : l < 32)
    (m : Mask) : (m &&& ~~~stopMask stops).getLsbD l = false := by
  rw [BitVec.getLsbD_and, BitVec.getLsbD_not, (getLsbD_stopMask stops l).mpr ⟨hl, w, h.mem⟩]
  simp

theorem Passes.rest {stops : List LaneStop} {l : Nat} (h : Passes stops l) (m : Mask) :
    (m &&& ~~~stopMask stops).getLsbD l = m.getLsbD l := by
  have hn : (stopMask stops).getLsbD l = false :=
    Bool.eq_false_iff.mpr fun hs => let ⟨_, w, hw⟩ := (getLsbD_stopMask stops l).mp hs; h w hw
  rw [BitVec.getLsbD_and, BitVec.getLsbD_not, hn]
  by_cases hl : l < 32
  · simp [hl]
  · simp [BitVec.getLsbD_of_ge m l (by omega)]

theorem mem_trapLanes {m : Mask} {code addr l : Nat} {w : Why} :
    ⟨l, w⟩ ∈ trapLanes m code addr ↔ m.getLsbD l = true ∧ w = .trap code addr := by
  unfold trapLanes
  rw [List.mem_map]
  constructor
  · rintro ⟨k, hk, he⟩
    cases he
    exact ⟨(mem_lanesOf m l).mp hk, rfl⟩
  · rintro ⟨hl, rfl⟩
    exact ⟨l, (mem_lanesOf m l).mpr hl, rfl⟩

theorem stopsAt_trapLanes {m : Mask} {l : Nat} (code addr : Nat) (h : m.getLsbD l = true) :
    StopsAt (trapLanes m code addr) l (.trap code addr) := fun _ =>
  mem_trapLanes.trans (and_iff_right h)

theorem passes_trapLanes {m : Mask} {l : Nat} (code addr : Nat) (h : m.getLsbD l = false) :
    Passes (trapLanes m code addr) l := fun _ hw =>
  Bool.false_ne_true (h.symm.trans (mem_trapLanes.mp hw).1)

theorem exists_lane_of_ne_zero {m : Mask} (h : m ≠ 0) : ∃ l, m.getLsbD l = true := by
  obtain ⟨l, hl⟩ := List.exists_mem_of_ne_nil _ (mt lanesOf_eq_nil.mp h)
  exact ⟨l, (mem_lanesOf m l).mp hl⟩

/-! ### The lanes that stop -/

/-- A second stop of a lane for the same reason changes nothing. -/
theorem Lane.stop_stop (x : Lane) (c : Clause) (w : Why) : (x.stop c w).stop c w = x.stop c w := rfl

theorem Group.lane_stops_of_passes {c : Clause} {stops : List LaneStop} {l : Nat} (h : Passes stops l)
    (g : Group) (hl : l < g.lanes.length) :
    (stops.foldl (fun g x => g.modLane x.lane fun y => y.stop c x.why) g).lane l = g.lane l := by
  induction stops generalizing g with
  | nil => rfl
  | cons x r ih =>
    have hx : l ≠ x.lane := fun e => h x.why (e ▸ List.mem_cons_self)
    rw [List.foldl_cons, ih (fun w hw => h w (List.mem_cons_of_mem _ hw)) _ (by simpa using hl),
      Group.lane_modLane hl, if_neg hx]

theorem Group.lane_stops_of_stopsAt {c : Clause} {stops : List LaneStop} {l : Nat} {w : Why}
    (hall : ∀ v, ⟨l, v⟩ ∈ stops → v = w) (g : Group) (hl : l < g.lanes.length)
    (h : ⟨l, w⟩ ∈ stops ∨ g.lane l = (g.lane l).stop c w) :
    (stops.foldl (fun g x => g.modLane x.lane fun y => y.stop c x.why) g).lane l = (g.lane l).stop c w := by
  induction stops generalizing g with
  | nil => simpa using h
  | cons x r ih =>
    have hr := fun v hv => hall v (List.mem_cons_of_mem _ hv)
    rw [List.foldl_cons]
    by_cases hx : l = x.lane
    · have hw : x.why = w := hall x.why (hx ▸ List.mem_cons_self)
      have hs : (g.modLane x.lane fun y => y.stop c x.why).lane l = (g.lane l).stop c w := by
        rw [Group.lane_modLane hl, if_pos hx, hw]
      rw [ih hr _ (by simpa using hl) (.inr (by rw [hs]; rfl)), hs, Lane.stop_stop]
    · have hs : (g.modLane x.lane fun y => y.stop c x.why).lane l = g.lane l := by
        rw [Group.lane_modLane hl, if_neg hx]
      rw [ih hr _ (by simpa using hl) ?_, hs]
      rw [hs]
      refine h.imp_left fun hm => ?_
      rcases List.mem_cons.mp hm with rfl | hm
      · exact absurd rfl hx
      · exact hm

theorem Group.stopLanes_lane_of_passes {c : Clause} {stops : List LaneStop} {l : Nat} (h : Passes stops l)
    (g : Group) (hl : l < g.lanes.length) : (g.stopLanes c stops).lane l = g.lane l :=
  Group.lane_stops_of_passes h g hl

theorem Group.stopLanes_lane_of_stopsAt {c : Clause} {stops : List LaneStop} {l : Nat} {w : Why}
    (h : StopsAt stops l w) (g : Group) (hl : l < g.lanes.length) :
    (g.stopLanes c stops).lane l = (g.lane l).stop c w :=
  Group.lane_stops_of_stopsAt (fun v => (h v).mp) g hl (.inl h.mem)

/-- Stopping lanes touches the lanes and the entry alone. -/
theorem Group.stopLanes_rest (g : Group) (c : Clause) (stops : List LaneStop) :
    { g.stopLanes c stops with lanes := g.lanes, entry := g.entry } = g := by
  have key : ∀ g : Group, { stops.foldl (fun g x => g.modLane x.lane fun y => y.stop c x.why) g with
      lanes := g.lanes, entry := g.entry } = g := by
    induction stops with
    | nil => exact fun _ => rfl
    | cons x r ih => exact fun g => congrArg (fun y : Group => { y with lanes := g.lanes }) (ih (g.modLane x.lane _))
  exact key g

theorem Group.stopLanes_length (g : Group) (c : Clause) (stops : List LaneStop) :
    (g.stopLanes c stops).lanes.length = g.lanes.length := by
  show (stops.foldl (fun g x => g.modLane x.lane fun y => y.stop c x.why) g).lanes.length = _
  induction stops generalizing g with
  | nil => rfl
  | cons x r ih => rw [List.foldl_cons, ih, Group.modLane_length]

/-! ### The group after the word -/

/-- The group when its lanes have stopped and before the others go on. -/
def Group.halfRetired (g0 g : Group) (i : Instr) (stops : List LaneStop) (now : Nat) : Group :=
  let x := (Group.account g0 { g with accepted := 0, heldOp := none, since := none } i now).stopLanes g0.cl stops
  if stops.isEmpty then x.releaseOperands g0.cl i else x

/-- The group when the lanes of a mask have gone on. -/
def Group.goOn (g : Group) (c : Clause) (m : Mods) (rest : Mask) : Group :=
  ((g.advance c rest).parkAfter m rest).haltHere

theorem Group.retire_eq (g0 g : Group) (i : Instr) (stops : List LaneStop) (now : Nat) :
    Group.retire g0 g i stops now =
      (let x := Group.halfRetired g0 g i stops now
       if (g0.frames.length = x.frames.length ∨ x.clause.isSome) ∧ !x.ended then
         x.goOn g0.cl (instrMods i) (g0.cl.issue &&& ~~~stopMask stops)
       else { x with clause := none, park := .none }) := rfl

theorem Group.halfRetired_lanes (g0 g : Group) (i : Instr) (stops : List LaneStop) (now : Nat) :
    (Group.halfRetired g0 g i stops now).lanes =
      ((Group.account g0 { g with accepted := 0, heldOp := none, since := none } i now).stopLanes
        g0.cl stops).lanes := by
  unfold Group.halfRetired
  split
  · exact Group.releaseOperands_lanes _ _ _
  · rfl

theorem Group.halfRetired_lane (g0 g : Group) (i : Instr) (stops : List LaneStop) (now l : Nat) :
    (Group.halfRetired g0 g i stops now).lane l =
      ((Group.account g0 { g with accepted := 0, heldOp := none, since := none } i now).stopLanes
        g0.cl stops).lane l := by
  rw [Group.lane, Group.halfRetired_lanes]; rfl

theorem Group.halfRetired_length (g0 g : Group) (i : Instr) (stops : List LaneStop) (now : Nat) :
    (Group.halfRetired g0 g i stops now).lanes.length = g.lanes.length := by
  rw [Group.halfRetired_lanes, Group.stopLanes_length, Group.account_length]

theorem Group.halfRetired_frames (g0 g : Group) (i : Instr) (stops : List LaneStop) (now : Nat) :
    (Group.halfRetired g0 g i stops now).frames = g.frames := by
  have h := congrArg Group.frames (Group.stopLanes_rest
    (Group.account g0 { g with accepted := 0, heldOp := none, since := none } i now) g0.cl stops)
  unfold Group.halfRetired
  split
  · exact (Group.releaseOperands_frames _ _ _).trans h
  · exact h

theorem Group.halfRetired_ended (g0 g : Group) (i : Instr) (stops : List LaneStop) (now : Nat) :
    (Group.halfRetired g0 g i stops now).ended = g.ended := by
  have h := congrArg Group.ended (Group.stopLanes_rest
    (Group.account g0 { g with accepted := 0, heldOp := none, since := none } i now) g0.cl stops)
  unfold Group.halfRetired
  split
  · exact (Group.releaseOperands_ended _ _ _).trans h
  · exact h

/-- Lanes that go on change their offset alone: to the next word, or past the clause unless a control-flow word
has moved them. -/
theorem Group.goOn_lane (g : Group) (c : Clause) (m : Mods) (rest : Mask) {l : Nat} (hl : l < g.lanes.length) :
    ((g.goOn c m rest).lane l).st = (g.lane l).st ∧ ((g.goOn c m rest).lane l).lsp = (g.lane l).lsp ∧
    ((g.goOn c m rest).lane l).pc =
      if rest.getLsbD l = true ∧ ¬ (isControlFlow c.op = true ∧ c.words.length ≤ c.nextSlot)
      then nextPc c else (g.lane l).pc := by
  have hpark : ((g.advance c rest).parkAfter m rest).lane l = (g.advance c rest).lane l := by
    rw [Group.lane, (Group.parkAfter_same _ _ _).2.2.2.1]; rfl
  obtain ⟨h1, h2, h3⟩ := Group.haltHere_lane ((g.advance c rest).parkAfter m rest) l
  unfold Group.goOn
  rw [h1, h2, h3, hpark]
  by_cases hn : c.nextSlot < c.words.length
  · have ha : (g.advance c rest).lane l = (g.modLanes rest fun _ x => { x with pc := nextPc c }).lane l := by
      unfold Group.advance nextPc
      rw [if_pos hn, if_pos hn]; rfl
    rw [ha, Group.lane_modLanes hl]
    simp only [Nat.not_le.mpr hn, and_false, not_false_eq_true, and_true]
    split <;> exact ⟨rfl, rfl, rfl⟩
  · by_cases hc : isControlFlow c.op = true
    · have ha : (g.advance c rest).lane l = g.lane l := by
        unfold Group.advance
        rw [if_neg hn, if_pos hc]; rfl
      rw [ha]
      simp [hc, Nat.not_lt.mp hn]
    · have ha : (g.advance c rest).lane l = (g.modLanes rest fun _ x => { x with pc := nextPc c }).lane l := by
        unfold Group.advance nextPc
        rw [if_neg hn, if_neg hn, if_neg hc]; rfl
      rw [ha, Group.lane_modLanes hl]
      simp only [hc, Bool.false_eq_true, false_and, not_false_eq_true, and_true]
      split <;> exact ⟨rfl, rfl, rfl⟩

theorem Group.goOn_length (g : Group) (c : Clause) (m : Mods) (rest : Mask) :
    (g.goOn c m rest).lanes.length = g.lanes.length := by
  have ha : (g.advance c rest).lanes.length = g.lanes.length := by
    unfold Group.advance
    split
    · exact Group.modLanes_length _ _ _
    · dsimp only
      split
      · rfl
      · exact Group.modLanes_length _ _ _
  unfold Group.goOn Group.haltHere
  rw [← ha, ← (Group.parkAfter_same (g.advance c rest) m rest).2.2.2.1]
  split
  · unfold Group.stopHere
    split
    · rfl
    · rfl
    · exact Group.modLanes_length _ _ _
  · rfl

theorem Group.retire_length (g0 g : Group) (i : Instr) (stops : List LaneStop) (now : Nat) :
    (Group.retire g0 g i stops now).lanes.length = g.lanes.length := by
  rw [Group.retire_eq, ← Group.halfRetired_length g0 g i stops now]
  dsimp only
  split
  · exact Group.goOn_length _ _ _ _
  · rfl

/-- A lane that stops at the word stays there. -/
theorem Group.retire_lane_of_stopsAt {g0 g : Group} {stops : List LaneStop} {l : Nat} {w : Why}
    (h : StopsAt stops l w) (i : Instr) (now : Nat) (hlen : g.lanes.length = 32) (hl : l < 32) :
    ((Group.retire g0 g i stops now).lane l).st = ((g.lane l).stop g0.cl w).st ∧
    ((Group.retire g0 g i stops now).lane l).lsp = (g.lane l).lsp ∧
    ((Group.retire g0 g i stops now).lane l).pc = g0.cl.here := by
  have hx : (Group.halfRetired g0 g i stops now).lane l =
      ((Group.account g0 { g with accepted := 0, heldOp := none, since := none } i now).lane l).stop g0.cl w := by
    rw [Group.halfRetired_lane, Group.stopLanes_lane_of_stopsAt h _ (by rw [Group.account_length, hlen]; exact hl)]
  have hlsp := (Group.account_lane g0 { g with accepted := 0, heldOp := none, since := none } i now l).2.1
  have hlt : l < (Group.halfRetired g0 g i stops now).lanes.length := by
    rw [Group.halfRetired_length, hlen]; exact hl
  rw [Group.retire_eq]
  dsimp only
  split
  · obtain ⟨h1, h2, h3⟩ := Group.goOn_lane (Group.halfRetired g0 g i stops now) g0.cl (instrMods i)
      (g0.cl.issue &&& ~~~stopMask stops) hlt
    rw [h1, h2, h3, h.not_rest hl, hx]
    exact ⟨rfl, hlsp, rfl⟩
  · refine ⟨(congrArg Lane.st hx).trans rfl, (congrArg Lane.lsp hx).trans hlsp, congrArg Lane.pc hx⟩

/-- A lane that does not stop at the word goes on with its group. -/
theorem Group.retire_lane_of_passes {g0 g : Group} {stops : List LaneStop} {l : Nat}
    (h : Passes stops l) (i : Instr) (now : Nat) (hlen : g.lanes.length = 32) (hl : l < 32)
    (hf : g0.frames = g.frames) (he : g.ended = false) :
    ((Group.retire g0 g i stops now).lane l).st = (g.lane l).st ∧
    ((Group.retire g0 g i stops now).lane l).lsp = (g.lane l).lsp ∧
    ((Group.retire g0 g i stops now).lane l).pc =
      if g0.cl.issue.getLsbD l = true ∧ ¬ (isControlFlow g0.cl.op = true ∧ g0.cl.words.length ≤ g0.cl.nextSlot)
      then nextPc g0.cl else (g.lane l).pc := by
  have hx : (Group.halfRetired g0 g i stops now).lane l =
      (Group.account g0 { g with accepted := 0, heldOp := none, since := none } i now).lane l := by
    rw [Group.halfRetired_lane, Group.stopLanes_lane_of_passes h _ (by rw [Group.account_length, hlen]; exact hl)]
  obtain ⟨a1, a2, a3⟩ := Group.account_lane g0 { g with accepted := 0, heldOp := none, since := none } i now l
  have hlt : l < (Group.halfRetired g0 g i stops now).lanes.length := by
    rw [Group.halfRetired_length, hlen]; exact hl
  rw [Group.retire_eq]
  dsimp only
  rw [if_pos (by rw [Group.halfRetired_frames, Group.halfRetired_ended, hf, he]; exact ⟨.inl rfl, rfl⟩)]
  obtain ⟨h1, h2, h3⟩ := Group.goOn_lane (Group.halfRetired g0 g i stops now) g0.cl (instrMods i)
    (g0.cl.issue &&& ~~~stopMask stops) hlt
  rw [h1, h2, h3, h.rest, hx, a1, a2, a3]
  exact ⟨rfl, rfl, rfl⟩

/-- A word that stops a lane releases no register, so that every register reads as the word has left it. -/
theorem Group.retire_read {g0 g : Group} {stops : List LaneStop} (h : stops ≠ []) (i : Instr) (now : Nat)
    (n : RegName) (l : Nat) : (Group.retire g0 g i stops now).read n l = g.read n l := by
  have hx : Group.halfRetired g0 g i stops now =
      (Group.account g0 { g with accepted := 0, heldOp := none, since := none } i now).stopLanes g0.cl stops := by
    unfold Group.halfRetired
    rw [List.isEmpty_eq_false_iff.mpr h]; rfl
  have hr : (Group.halfRetired g0 g i stops now).read n l = g.read n l := by
    rw [hx]
    have h := congrArg (fun x : Group => x.read n l) (Group.stopLanes_rest
      (Group.account g0 { g with accepted := 0, heldOp := none, since := none } i now) g0.cl stops)
    exact h
  rw [Group.retire_eq, ← hr]
  dsimp only
  split
  · obtain ⟨_, b2, b3, b4⟩ := Group.advance_same (Group.halfRetired g0 g i stops now) g0.cl
      (g0.cl.issue &&& ~~~stopMask stops)
    obtain ⟨_, c2, c3, _, c4⟩ := Group.parkAfter_same ((Group.halfRetired g0 g i stops now).advance g0.cl
      (g0.cl.issue &&& ~~~stopMask stops)) (instrMods i) (g0.cl.issue &&& ~~~stopMask stops)
    obtain ⟨_, d2, d3, d4⟩ := Group.haltHere_same (((Group.halfRetired g0 g i stops now).advance g0.cl
      (g0.cl.issue &&& ~~~stopMask stops)).parkAfter (instrMods i) (g0.cl.issue &&& ~~~stopMask stops))
    exact Group.read_congr ((d4 n l).trans ((c4 n l).trans (b4 n l))) (d3.trans (c3.trans b3))
      (d2.trans (c2.trans b2))
  · rfl

theorem Group.retire_index_eq (g0 g : Group) (i : Instr) (stops : List LaneStop) (now : Nat) :
    (Group.retire g0 g i stops now).index = g.index := by
  have h := congrArg Group.index (retire_hull g0 g i stops now); exact h

theorem Group.goOn_entry (g : Group) (c : Clause) (m : Mods) (rest : Mask) :
    (g.goOn c m rest).entry = g.entry := by
  have ha : (g.advance c rest).entry = g.entry := by
    unfold Group.advance
    split
    · rfl
    · dsimp only
      split <;> rfl
  have hp : ((g.advance c rest).parkAfter m rest).entry = (g.advance c rest).entry := by
    unfold Group.parkAfter
    dsimp only
    split
    · rfl
    · split <;> rfl
  unfold Group.goOn Group.haltHere
  rw [← ha, ← hp]
  split
  · unfold Group.stopHere
    split <;> rfl
  · rfl

/-- A trap begins an entry (R303). -/
theorem Group.retire_entry {g0 g : Group} {stops : List LaneStop} {l code addr : Nat}
    (h : ⟨l, .trap code addr⟩ ∈ stops) (i : Instr) (now : Nat) :
    (Group.retire g0 g i stops now).entry.isSome = true := by
  have ht : stops.any (fun x => x.why.isTrap) = true := List.any_eq_true.mpr ⟨_, h, rfl⟩
  have hx : (Group.halfRetired g0 g i stops now).entry.isSome = true := by
    unfold Group.halfRetired
    rw [List.isEmpty_eq_false_iff.mpr (List.ne_nil_of_mem h)]
    unfold Group.stopLanes
    dsimp only
    rw [ht]; rfl
  rw [Group.retire_eq]
  dsimp only
  split
  · rw [Group.goOn_entry]; exact hx
  · exact hx

/-! ### The device after the word -/

/-- Outside a supervisor handler a word changes its own group alone when it retires. -/
theorem State.retire_of_not_inSup {s0 : State} (h : s0.cg.inSup = false) (s : State) (i : Instr)
    (stops : List LaneStop) :
    s0.retire s i stops = s.modCg fun g => Group.retire s0.cg g i stops s0.tick := by
  unfold State.retire
  dsimp only
  rw [h]; rfl

/-- A word that changes its own group by `u` and retires, outside a supervisor handler. -/
theorem retire_modCg {s : State} {u : Group → Group} (ht : (s.team? s.curTeam).isSome = true)
    (hg : (s.ct.group? s.curGroup).isSome = true) (hi : ∀ g, (u g).index = g.index)
    (hq : s.cg.inSup = false) (i : Instr) (stops : List LaneStop) :
    RestKept s (s.retire (s.modCg u) i stops) ∧
      (s.retire (s.modCg u) i stops).cg = Group.retire s.cg (u s.cg) i stops s.tick := by
  have hri : ∀ g, (Group.retire s.cg (u g) i stops s.tick).index = g.index := fun g =>
    (Group.retire_index_eq _ _ _ _ _).trans (hi g)
  rw [State.retire_of_not_inSup hq, State.modCg_modCg _ _ _ hi]
  exact ⟨restKept_modCg hri ht s.fresh, State.cg_modCg hri ht hg⟩

theorem State.modCg_id (s : State) : s.modCg id = s := by
  unfold State.modCg State.modGroup State.modTeam Team.modGroup
  simp

theorem trapped_of_stopsAt {s t : State} {g : Group} {i : Instr} {stops : List LaneStop} {now l code addr : Nat}
    (ht : t.cg = Group.retire s.cg g i stops now) (h : StopsAt stops l (.trap code addr))
    (hlen : g.lanes.length = 32) (hl : l < 32) :
    Trapped s t l code addr ∧ (t.cg.lane l).lsp = (g.lane l).lsp := by
  obtain ⟨h1, h2, h3⟩ := Group.retire_lane_of_stopsAt (g0 := s.cg) h i now hlen hl
  rw [← ht] at h1 h2 h3
  exact ⟨⟨h1, h3⟩, h2⟩

end Sys2Proof.Machine
end

section
/-! Control-flow words that move their active lanes one by one (R104), and stop those that cannot move. -/

namespace Sys2Proof.Machine

open Sys2Proof Sys2Proof.Safety

/-! ### Words that act lane by lane -/

/-- What a word does to each lane: the reason why the lane stops, if it does; else how it moves and what it
stores in the group's spill slices. -/
structure LaneMoves where
  why : Nat → Option Why
  move : Nat → Lane → Lane
  store : Nat → Memory → Memory

/-- One lane moves. -/
def LaneMoves.one (a : LaneMoves) (g : Group) (l : Nat) : Group :=
  { g.modLane l (a.move l) with spill := a.store l g.spill }

/-- The lanes of a list move in turn. -/
def LaneMoves.all (a : LaneMoves) (ls : List Nat) (g : Group) : Group := ls.foldl a.one g

/-- The lanes of a list that move, and the stops of the others. -/
def LaneMoves.moving (a : LaneMoves) (ls : List Nat) : List Nat := ls.filter fun l => (a.why l).isNone
def LaneMoves.stops (a : LaneMoves) (ls : List Nat) : List LaneStop :=
  ls.filterMap fun l => (a.why l).map (LaneStop.mk l)

/-- A lane moves, or stops. -/
def LaneMoves.act (a : LaneMoves) (s : State) (l : Nat) : State × List LaneStop :=
  match a.why l with
  | some w => (s, [⟨l, w⟩])
  | none => (s.modCg fun g => a.one g l, [])

theorem LaneMoves.mem_moving {a : LaneMoves} {ls : List Nat} {l : Nat} :
    l ∈ a.moving ls ↔ l ∈ ls ∧ a.why l = none := by
  simp [LaneMoves.moving]

theorem LaneMoves.nodup_moving (a : LaneMoves) {ls : List Nat} (h : ls.Nodup) : (a.moving ls).Nodup :=
  h.filter _

theorem LaneMoves.mem_stops {a : LaneMoves} {ls : List Nat} {l : Nat} {w : Why} :
    ⟨l, w⟩ ∈ a.stops ls ↔ l ∈ ls ∧ a.why l = some w := by
  simp [LaneMoves.stops]

theorem LaneMoves.stopsAt {a : LaneMoves} {ls : List Nat} {l : Nat} {w : Why} (hl : l ∈ ls)
    (h : a.why l = some w) : StopsAt (a.stops ls) l w := fun v => by
  rw [LaneMoves.mem_stops, h, Option.some_inj, eq_comm (a := w)]
  exact and_iff_right hl

theorem LaneMoves.passes {a : LaneMoves} {l : Nat} (h : a.why l = none) (ls : List Nat) :
    Passes (a.stops ls) l := fun w hw => by
  rw [LaneMoves.mem_stops, h] at hw
  cases hw.2

/-- Lanes that move change themselves and the slices alone. -/
theorem LaneMoves.all_rest (a : LaneMoves) (ls : List Nat) (g : Group) :
    { a.all ls g with lanes := g.lanes, spill := g.spill } = g := by
  unfold LaneMoves.all
  induction ls generalizing g with
  | nil => rfl
  | cons l r ih =>
    exact congrArg (fun x : Group => { x with lanes := g.lanes, spill := g.spill }) (ih (a.one g l))

theorem LaneMoves.all_spill {a : LaneMoves} (h : ∀ l m, a.store l m = m) (ls : List Nat) (g : Group) :
    (a.all ls g).spill = g.spill := by
  unfold LaneMoves.all
  induction ls generalizing g with
  | nil => rfl
  | cons l r ih => rw [List.foldl_cons, ih]; exact h l g.spill

theorem LaneMoves.all_length (a : LaneMoves) (ls : List Nat) (g : Group) :
    (a.all ls g).lanes.length = g.lanes.length := by
  unfold LaneMoves.all
  induction ls generalizing g with
  | nil => rfl
  | cons l r ih => rw [List.foldl_cons, ih]; exact Group.modLane_length g l (a.move l)

theorem LaneMoves.one_lane (a : LaneMoves) {g : Group} {k l : Nat} (hl : l < g.lanes.length) :
    (a.one g k).lane l = if l = k then a.move k (g.lane l) else g.lane l :=
  Group.lane_modLane hl

theorem LaneMoves.all_lane_of_not_mem (a : LaneMoves) {ls : List Nat} {l : Nat} (h : l ∉ ls) (g : Group)
    (hl : l < g.lanes.length) : (a.all ls g).lane l = g.lane l := by
  unfold LaneMoves.all
  induction ls generalizing g with
  | nil => rfl
  | cons k r ih =>
    rw [List.mem_cons, not_or] at h
    have hk : l < (a.one g k).lanes.length := (Group.modLane_length g k (a.move k)).symm ▸ hl
    rw [List.foldl_cons, ih h.2 _ hk, a.one_lane hl, if_neg h.1]

theorem LaneMoves.all_lane_of_mem (a : LaneMoves) {ls : List Nat} {l : Nat} (hn : ls.Nodup) (h : l ∈ ls)
    (g : Group) (hl : l < g.lanes.length) : (a.all ls g).lane l = a.move l (g.lane l) := by
  induction ls generalizing g with
  | nil => cases h
  | cons k r ih =>
    rw [List.nodup_cons] at hn
    have hk : l < (a.one g k).lanes.length := (Group.modLane_length g k (a.move k)).symm ▸ hl
    show (a.all r (a.one g k)).lane l = _
    rcases List.mem_cons.mp h with rfl | hr
    · rw [a.all_lane_of_not_mem hn.1 _ hk, a.one_lane hl, if_pos rfl]
    · have hne : l ≠ k := fun e => hn.1 (e ▸ hr)
      rw [ih hn.2 hr _ hk, a.one_lane hl, if_neg hne]

theorem nodup_append_singleton {ls : List Nat} {l : Nat} (h : ls.Nodup) (hl : l ∉ ls) : (ls ++ [l]).Nodup :=
  (List.perm_append_singleton l ls).nodup_iff.mpr (List.nodup_cons.mpr ⟨hl, h⟩)

/-- A step over lanes in turn that acts on each as `a` says, whichever lanes have moved before it. -/
theorem overLanes_eq {s : State} {f : State → Nat → State × List LaneStop} (a : LaneMoves) {ls : List Nat}
    (hn : ls.Nodup)
    (hf : ∀ done l, l ∈ ls → done.Nodup → l ∉ done →
      f (s.modCg (a.all done)) l = a.act (s.modCg (a.all done)) l) :
    overLanes s ls f = (s.modCg (a.all (a.moving ls)), a.stops ls) := by
  have hi : ∀ done g, (a.all done g).index = g.index := fun done g => by
    have h := congrArg Group.index (a.all_rest done g); exact h
  have key : ∀ (r done : List Nat) (stops : List LaneStop), r.Nodup → done.Nodup →
      (∀ l ∈ r, l ∈ ls ∧ l ∉ done) →
      r.foldl (fun acc l => let x := f acc.1 l; (x.1, acc.2 ++ x.2)) (s.modCg (a.all done), stops) =
        (s.modCg (a.all (done ++ a.moving r)), stops ++ a.stops r) := by
    intro r
    induction r with
    | nil => intro done stops _ _ _; simp [LaneMoves.moving, LaneMoves.stops]
    | cons l r ih =>
      intro done stops hr hdone hm
      obtain ⟨hl, hd⟩ := hm l List.mem_cons_self
      rw [List.nodup_cons] at hr
      rw [List.foldl_cons, hf done l hl hdone hd]
      cases hw : a.why l with
      | some w =>
        have hact : a.act (s.modCg (a.all done)) l = (s.modCg (a.all done), [⟨l, w⟩]) := by
          rw [LaneMoves.act, hw]
        rw [hact]
        dsimp only
        rw [ih done _ hr.2 hdone fun k hk => hm k (List.mem_cons_of_mem _ hk)]
        simp [LaneMoves.moving, LaneMoves.stops, hw]
      | none =>
        have hact : a.act (s.modCg (a.all done)) l = (s.modCg (a.all (done ++ [l])), []) := by
          have ha : a.all (done ++ [l]) = fun g => a.one (a.all done g) l := by
            funext g
            simp [LaneMoves.all]
          rw [LaneMoves.act, hw, ha, ← State.modCg_modCg s _ (fun g => a.one g l) (hi done)]
        rw [hact]
        dsimp only
        rw [List.append_nil, ih (done ++ [l]) _ hr.2 (nodup_append_singleton hdone hd) fun k hk => ?_]
        · simp [LaneMoves.moving, LaneMoves.stops, hw]
        · obtain ⟨h1, h2⟩ := hm k (List.mem_cons_of_mem _ hk)
          refine ⟨h1, ?_⟩
          rw [List.mem_append, List.mem_singleton, not_or]
          exact ⟨h2, fun e => hr.1 (e ▸ hk)⟩
  have h := key ls [] [] hn List.nodup_nil fun l hl => ⟨hl, List.not_mem_nil⟩
  have h0 : s.modCg (a.all []) = s := s.modCg_id
  rw [h0] at h
  exact h

/-! ### The active lanes of a control-flow word -/

/-- What lane l still sees of the state `s` in `v`, where other lanes of the issuing group have moved. -/
structure SameFor (a : LaneMoves) (s v : State) (l : Nat) : Prop where
  group : { v.cg with lanes := s.cg.lanes, spill := s.cg.spill } = s.cg
  team : { v.ct with groups := s.ct.groups } = s.ct
  lane : v.cg.lane l = s.cg.lane l
  slices : (∀ k m, a.store k m = m) → v.cg.spill = s.cg.spill
  errors : v.eccSk = s.eccSk

theorem SameFor.cl {a : LaneMoves} {s v : State} {l : Nat} (h : SameFor a s v l) : v.cl = s.cl := by
  have e := congrArg Group.cl h.group; exact e

theorem SameFor.read {a : LaneMoves} {s v : State} {l : Nat} (h : SameFor a s v l) (n : RegName) (k : Nat) :
    v.cg.read n k = s.cg.read n k := by
  have e := congrArg (fun g : Group => g.read n k) h.group; exact e

theorem SameFor.room {a : LaneMoves} {s v : State} {l : Nat} (h : SameFor a s v l) :
    v.ct.spill = s.ct.spill := by
  have e := congrArg Team.spill h.team; exact e

theorem SameFor.skEcc {a : LaneMoves} {s v : State} {l : Nat} (h : SameFor a s v l) (k off n : Nat) :
    v.skEcc v.ct v.cg k off n = s.skEcc s.ct s.cg k off n := by
  have e1 : v.ct.key = s.ct.key := by have e := congrArg Team.key h.team; exact e
  have e2 : v.cg.index = s.cg.index := by have e := congrArg Group.index h.group; exact e
  unfold State.skEcc
  rw [h.errors, e1, e2]

/-- The group of a control-flow word when the lanes that are guarded off have fallen through and lanes have
moved. -/
def LaneMoves.after (a : LaneMoves) (s : State) (i : Instr) (ls : List Nat) (g : Group) : Group :=
  a.all ls (g.modLanes (s.cl.issue &&& ~~~s.active i) fun _ x => { x with pc := s.cl.fall })

theorem LaneMoves.after_rest (a : LaneMoves) (s : State) (i : Instr) (ls : List Nat) (g : Group) :
    { a.after s i ls g with lanes := g.lanes, spill := g.spill } = g := by
  have h := a.all_rest ls (g.modLanes (s.cl.issue &&& ~~~s.active i) fun _ x => { x with pc := s.cl.fall })
  exact congrArg (fun x : Group => { x with lanes := g.lanes, spill := g.spill }) h

theorem LaneMoves.after_index (a : LaneMoves) (s : State) (i : Instr) (ls : List Nat) (g : Group) :
    (a.after s i ls g).index = g.index := by
  have h := congrArg Group.index (a.after_rest s i ls g); exact h

theorem LaneMoves.after_length (a : LaneMoves) (s : State) (i : Instr) (ls : List Nat) (g : Group) :
    (a.after s i ls g).lanes.length = g.lanes.length := by
  unfold LaneMoves.after
  rw [a.all_length, Group.modLanes_length]

/-- An active lane, which is not one of those that are guarded off, stands where it has moved to. -/
theorem LaneMoves.after_lane {s : State} {i : Instr} {l : Nat} (a : LaneMoves)
    (hl : (s.active i).getLsbD l = true) {ls : List Nat} (hn : ls.Nodup) {g : Group} (h : g.lanes.length = 32) :
    (a.after s i ls g).lane l = if l ∈ ls then a.move l (g.lane l) else g.lane l := by
  have hlt : l < g.lanes.length := h ▸ lane_lt_of_active hl
  have hft : (g.modLanes (s.cl.issue &&& ~~~s.active i) fun _ x => { x with pc := s.cl.fall }).lane l = g.lane l := by
    rw [Group.lane_modLanes hlt, if_neg (by simp [hl])]
  have hlm := (Group.modLanes_length g (s.cl.issue &&& ~~~s.active i)
    fun _ x => { x with pc := s.cl.fall }).symm ▸ hlt
  unfold LaneMoves.after
  split
  · next hm => rw [a.all_lane_of_mem hn hm _ hlm, hft]
  · next hm => rw [a.all_lane_of_not_mem hm _ hlm, hft]

theorem State.fallThrough_modCg (s : State) (i : Instr) (a : LaneMoves) (ls : List Nat) :
    (s.fallThrough i).modCg (a.all ls) = s.modCg (a.after s i ls) :=
  State.modCg_modCg s _ _ fun _ => rfl

theorem sameFor_moved {i : Instr} {s : State} (hc : CanIssue i s) (a : LaneMoves) {ls : List Nat} {l : Nat}
    (hl : (s.active i).getLsbD l = true) (hd : ls.Nodup) (hn : l ∉ ls) :
    SameFor a s (s.modCg (a.after s i ls)) l := by
  have hcg : (s.modCg (a.after s i ls)).cg = a.after s i ls s.cg :=
    State.cg_modCg (a.after_index s i ls) hc.team hc.group
  refine ⟨?_, ?_, ?_, fun hs => ?_, rfl⟩
  · rw [hcg]; exact a.after_rest s i ls s.cg
  · rw [State.ct_modCg hc.team]; rfl
  · rw [hcg, a.after_lane hl hd hc.lanes, if_neg hn]
  · rw [hcg, LaneMoves.after, a.all_spill hs]; rfl

/-- The effect of a control-flow word whose active lanes move or stop one by one. -/
theorem overLanes_fallThrough {i : Instr} {s : State} {f : State → Nat → State × List LaneStop}
    (hc : CanIssue i s) (a : LaneMoves)
    (hf : ∀ v l, (s.active i).getLsbD l = true → SameFor a s v l → f v l = a.act v l) :
    overLanes (s.fallThrough i) (lanesOf (s.active i)) f =
      (s.modCg (a.after s i (a.moving (lanesOf (s.active i)))), a.stops (lanesOf (s.active i))) := by
  rw [overLanes_eq a (nodup_lanesOf _) fun done l hl hn hd => ?_, State.fallThrough_modCg]
  rw [State.fallThrough_modCg]
  have hl := (mem_lanesOf _ _).mp hl
  exact hf _ l hl (sameFor_moved hc a hl hn hd)

/-- R104, R303: a control-flow word whose active lanes move or stop one by one, outside a supervisor handler:
the lanes that stop are PARKED at it with their traps, and the others stand where they have moved to. -/
theorem run_laneMoves {i : Instr} {s : State} {f : State → Nat → State × List LaneStop} (hc : CanIssue i s)
    (he : AtEnd s) (hq : s.cg.inSup = false) (a : LaneMoves)
    (hf : ∀ v l, (s.active i).getLsbD l = true → SameFor a s v l → f v l = a.act v l) :
    ∃ t, (s.run i fun s =>
        let r := overLanes (s.fallThrough i) (lanesOf (s.active i)) f
        .done r.1 r.2) = .next t ∧ RestKept s t ∧
      ∀ l, (s.active i).getLsbD l = true →
        (∀ code addr, a.why l = some (.trap code addr) →
          Trapped s t l code addr ∧ (t.cg.lane l).lsp = (s.cg.lane l).lsp) ∧
        (a.why l = none →
          (t.cg.lane l).pc = (a.move l (s.cg.lane l)).pc ∧ (t.cg.lane l).st = (a.move l (s.cg.lane l)).st) := by
  have hdone : (fun s : State =>
      let r := overLanes (s.fallThrough i) (lanesOf (s.active i)) f
      Eff.done r.1 r.2) s =
      .done (s.modCg (a.after s i (a.moving (lanesOf (s.active i))))) (a.stops (lanesOf (s.active i))) := by
    dsimp only
    rw [overLanes_fallThrough hc a hf]
  obtain ⟨hrest, hcg⟩ := retire_modCg hc.team hc.group (a.after_index s i (a.moving (lanesOf (s.active i))))
    hq i (a.stops (lanesOf (s.active i)))
  have hlen : (a.after s i (a.moving (lanesOf (s.active i))) s.cg).lanes.length = 32 :=
    (a.after_length s i _ s.cg).trans hc.lanes
  refine ⟨_, State.run_done hc.budget hc.intact hdone, hrest, fun l hl => ?_⟩
  have hlt := lane_lt_of_active hl
  have hmem : l ∈ lanesOf (s.active i) := (mem_lanesOf _ _).mpr hl
  have hlane := a.after_lane hl (a.nodup_moving (nodup_lanesOf (s.active i))) hc.lanes
  constructor
  · intro code addr hw
    obtain ⟨h1, h2⟩ := trapped_of_stopsAt hcg (LaneMoves.stopsAt hmem hw) hlen hlt
    rw [if_neg (by simp [LaneMoves.mem_moving, hw])] at hlane
    exact ⟨h1, h2.trans (congrArg Lane.lsp hlane)⟩
  · intro hw
    rw [if_pos (LaneMoves.mem_moving.mpr ⟨hmem, hw⟩)] at hlane
    have hrest := a.after_rest s i (a.moving (lanesOf (s.active i))) s.cg
    have hfr : (a.after s i (a.moving (lanesOf (s.active i))) s.cg).frames = s.cg.frames := by
      have h := congrArg Group.frames hrest; exact h
    have hen : (a.after s i (a.moving (lanesOf (s.active i))) s.cg).ended = s.cg.ended := by
      have h := congrArg Group.ended hrest; exact h
    obtain ⟨h1, _, h3⟩ := Group.retire_lane_of_passes (g0 := s.cg) (LaneMoves.passes hw (lanesOf (s.active i))) i
      s.tick hlen hlt hfr.symm (hen.trans hc.live)
    rw [if_neg fun h => h.2 he] at h3
    rw [hcg, h1, h3]
    exact ⟨congrArg Lane.pc hlane, congrArg Lane.st hlane⟩

/-! ### Branches, calls and returns -/

/-- How the lanes of a branch move, with the push of the fall-through offset on request, and which traps stop
them (R104). -/
def jumpMoves (s : State) (target : Nat → Word) (push : Bool) : LaneMoves where
  why l :=
    if (target l).toNat % 4 ≠ 0 then some (.trap codeMisaligned (target l).toNat)
    else if push = true ∧ ((s.cg.lane l).lspBytes < 4 ∨ s.ct.spill < (s.cg.lane l).lspBytes) then
      some (.trap codeRange (s.cg.lane l).lspBytes)
    else none
  move l x := if push then { x with pc := target l, lsp := x.lsp - 1 } else { x with pc := target l }
  store l m :=
    if push then m.writeN (spillKey l ((s.cg.lane l).lspBytes - 4)) (leBytes 4 s.cl.fall.toNat) else m

theorem jump_eq_act {s v : State} {l : Nat} {target : Nat → Word} {push : Bool}
    (h : SameFor (jumpMoves s target push) s v l) :
    v.jump l (target l) push = (jumpMoves s target push).act v l := by
  unfold State.jump LaneMoves.act
  rw [h.lane, h.room, h.cl]
  by_cases hm : (target l).toNat % 4 ≠ 0
  · simp only [jumpMoves, if_pos hm]
  · cases push
    · simp only [jumpMoves, if_neg hm, Bool.false_eq_true, false_and, if_false]; rfl
    · by_cases hr : (s.cg.lane l).lspBytes < 4 ∨ s.ct.spill < (s.cg.lane l).lspBytes
      · simp only [jumpMoves, if_neg hm, if_true, if_pos hr, true_and]
      · simp only [jumpMoves, if_neg hm, if_true, if_neg hr, true_and]; rfl

/-- The offset that a direct branch goes to is its label (R80). -/
theorem direct_eq_labelOf (s : State) {w : Nat} (off : BitVec w) : s.direct off = labelOf s off := by
  unfold State.direct labelOf
  rw [BitVec.ofInt_add, BitVec.ofInt_mul, BitVec.signExtend, BitVec.mul_comm]
  simp

/-- Each branch is the model's shared branch operation, to the offsets that R104 names. -/
theorem exec_branchTarget {i : Instr} {target : Nat → Word} {push : Bool} {s : State}
    (h : branchTarget s i = some (target, push)) :
    ∃ go : State → Nat → Word, exec i s = s.branch i push go ∧
      ∀ a v l, SameFor a s v l → go v l = target l := by
  have hdirect : ∀ {w : Nat} (off : BitVec w) (a : LaneMoves) (v : State) (l : Nat), SameFor a s v l →
      v.direct off = labelOf s off := fun off a v l hv => by
    rw [← direct_eq_labelOf, State.direct, hv.cl]; rfl
  cases i <;> cases h
  case bra off m => exact ⟨fun s _ => s.direct off, rfl, hdirect off⟩
  case brx o => exact ⟨fun s l => s.cg.rg o.a l, rfl, fun _ _ l hv => hv.read _ l⟩
  case call off m => exact ⟨fun s _ => s.direct off, rfl, hdirect off⟩
  case callx o => exact ⟨fun s l => s.cg.rg o.a l, rfl, fun _ _ l hv => hv.read _ l⟩

/-- The offset on top of a lane's call stack. -/
def popped (s : State) (l : Nat) : Word :=
  BitVec.ofNat 32 (s.cg.spill.readLe (spillKey l (s.cg.lane l).lspBytes) 4)

/-- How the lanes of a `ret` move, and which traps stop them (R104, R301). -/
def popMoves (s : State) : LaneMoves where
  why l :=
    if s.ct.spill < (s.cg.lane l).lspBytes + 4 then some (.trap codeRange (s.cg.lane l).lspBytes)
    else if s.skEcc s.ct s.cg l (s.cg.lane l).lspBytes 4 then some (.trap codeEcc (s.cg.lane l).lspBytes)
    else if (popped s l).toNat % 4 ≠ 0 then some (.trap codeMisaligned (popped s l).toNat)
    else none
  move l x := { x with pc := popped s l, lsp := x.lsp + 1 }
  store _ m := m

theorem popLane_eq_act {s v : State} {l : Nat} (h : SameFor (popMoves s) s v l) :
    v.popLane l = (popMoves s).act v l := by
  unfold State.popLane LaneMoves.act
  dsimp only
  rw [h.lane, h.room, h.skEcc, h.slices fun _ _ => rfl]
  by_cases hr : s.ct.spill < (s.cg.lane l).lspBytes + 4
  · simp only [popMoves, if_pos hr]
  · by_cases hs : s.skEcc s.ct s.cg l (s.cg.lane l).lspBytes 4 = true
    · simp only [popMoves, if_neg hr, if_pos hs]
    · by_cases hm : (popped s l).toNat % 4 ≠ 0
      · simp only [popMoves, if_neg hr, if_neg hs, if_pos hm]; exact if_pos hm
      · simp only [popMoves, if_neg hr, if_neg hs, if_neg hm]; exact if_neg hm

theorem leNat_lt (bs : List Byte) : leNat bs < 256 ^ bs.length := by
  induction bs with
  | nil => simp [leNat]
  | cons b r ih =>
    have hb := b.isLt
    rw [leNat, List.length_cons, Nat.pow_succ]
    omega

theorem Memory.readLe_lt (m : Memory) (a n : Nat) : m.readLe a n < 256 ^ n := by
  have h := leNat_lt (m.readN a n)
  rwa [show (m.readN a n).length = n by simp [Memory.readN]] at h

/-- A popped offset is the stored word itself. -/
theorem popped_toNat (s : State) (l : Nat) :
    (popped s l).toNat = s.cg.spill.readLe (spillKey l (4 * (s.cg.lane l).lsp.toNat)) 4 := by
  unfold popped Lane.lspBytes
  rw [BitVec.toNat_ofNat, Nat.mul_comm _ 4, Nat.mod_eq_of_lt]
  exact Memory.readLe_lt _ _ 4

end Sys2Proof.Machine

namespace Sys2Proof

open Machine Safety

/-- R104, R17: the branches' part of the traps. -/
theorem branchTraps : Claims.BranchTraps := by
  constructor
  · intro i target push s hb hc he hq noRoom
    obtain ⟨go, hexec, hgo⟩ := exec_branchTarget hb
    obtain ⟨t, ht, hrest, hlanes⟩ := run_laneMoves (f := fun v l => v.jump l (go v l) push) hc he hq
      (jumpMoves s target push) fun v l _ hv => by rw [hgo _ v l hv, jump_eq_act hv]
    have hroom : ∀ l, noRoom l ↔
        push = true ∧ ((s.cg.lane l).lspBytes < 4 ∨ s.ct.spill < (s.cg.lane l).lspBytes) := fun l => by
      show push = true ∧ _ ↔ _
      unfold Lane.lspBytes
      refine and_congr_right fun _ => ?_
      omega
    refine ⟨t, hexec.trans ht, hrest, fun l hl => ?_⟩
    obtain ⟨hstop, hgoes⟩ := hlanes l hl
    refine ⟨fun hm => hstop _ _ (if_pos hm), fun hm hn => ?_, fun hm hn => ?_⟩
    · rw [Nat.mul_comm 4]
      exact hstop _ _ ((if_neg (Decidable.not_not.mpr hm)).trans (if_pos ((hroom l).mp hn)))
    · obtain ⟨h1, h2⟩ := hgoes ((if_neg (Decidable.not_not.mpr hm)).trans (if_neg (mt (hroom l).mpr hn)))
      rw [h1, h2]
      cases push <;> exact ⟨rfl, rfl⟩
  · intro m s hc he hq hmis
    obtain ⟨t, ht, hrest, hlanes⟩ := run_laneMoves hc he hq (popMoves s) fun v l _ hv => popLane_eq_act hv
    refine ⟨t, ht, hrest, fun l hl => ?_⟩
    obtain ⟨hroom, hecc, hodd⟩ := hmis l hl
    rw [Nat.mul_comm 4] at hroom hecc
    rw [← popped_toNat] at hodd ⊢
    refine (hlanes l hl).1 _ _ ?_
    exact (if_neg (Nat.not_lt.mpr hroom)).trans ((if_neg (by rw [Lane.lspBytes, hecc]; decide)).trans (if_pos hodd))

end Sys2Proof
end

section
/-! Words whose effect is a trap, and words that read a register with an uncorrectable error (R7, R84, R85,
R301, R344). -/

namespace Sys2Proof.Machine

open Sys2Proof Sys2Proof.Safety

/-! ### The undefined opcode -/

/-- A group whose lanes of a mask stop at the clause header with a decode trap (R85). -/
def Group.decodeStop (set : Mask) (p : Pend) (g : Group) : Group :=
  { g.modLanes set fun _ x => { x with st := .parked (.trapped p) } with
    clause := none, entry := some (g.entry.getD 0) }

theorem Group.decodeStop_lane {set : Mask} {l : Nat} (p : Pend) {g : Group} (hlen : g.lanes.length = 32)
    (hl : set.getLsbD l = true) : ((g.decodeStop set p).lane l).st = .parked (.trapped p) := by
  have h : (g.decodeStop set p).lane l =
      if set.getLsbD l then { g.lane l with st := .parked (.trapped p) } else g.lane l :=
    Group.lane_modLanes (hlen ▸ lane_lt_of_active hl)
  rw [h, if_pos hl]

theorem Group.decodeStop_index (set : Mask) (p : Pend) (g : Group) : (g.decodeStop set p).index = g.index := rfl

/-- Outside a supervisor handler a decode trap parks the lanes at the header. -/
theorem decodeTrap_eq {s : State} (hq : s.cg.inSup = false) (set : Mask) (hdr : Word) (code : Nat)
    (word off : Word) :
    s.decodeTrap s.curTeam s.curGroup set hdr code word off = s.modCg (Group.decodeStop set
      { code := code, addr := off.setWidth 64, word := word, pc := hdr, decode := true }) := by
  have hq : (s.group s.curTeam s.curGroup).inSup = false := hq
  unfold State.decodeTrap
  rw [hq]; rfl

/-! ### trap and dbrk -/

/-- The group after a word of `s` whose one effect is a trap of its active lanes. -/
def Group.trapActive (s : State) (i : Instr) (code addr : Nat) (g : Group) : Group :=
  Group.retire s.cg g i (trapLanes (s.active i) code addr) s.tick

theorem Group.trapActive_index (s : State) (i : Instr) (code addr : Nat) (g : Group) :
    (g.trapActive s i code addr).index = g.index := Group.retire_index_eq _ _ _ _ _

theorem run_trapActive {i : Instr} {s : State} {f : State → Eff} (hc : CanIssue i s) (hq : s.cg.inSup = false)
    {code addr : Nat} (hf : f s = .done s (trapLanes (s.active i) code addr)) :
    s.run i f = .next (s.modCg (Group.trapActive s i code addr)) := by
  rw [State.run_done hc.budget hc.intact hf, State.retire_of_not_inSup hq]; rfl

/-- R303: the active lanes are PARKED at the word with the trap, the others of the issue set go on, an entry
begins, and no register changes. -/
theorem Group.trapActive_spec {i : Instr} {s : State} (hc : CanIssue i s)
    (hcf : isControlFlow s.cl.op = false) (ha : s.active i ≠ 0) (code addr : Nat) :
    (s.cg.trapActive s i code addr).entry.isSome = true ∧
    (∀ n l, (s.cg.trapActive s i code addr).read n l = s.cg.read n l) ∧
    ∀ l, l < 32 →
      ((s.active i).getLsbD l = true →
        ((s.cg.trapActive s i code addr).lane l).st = .parked (.trapped
          { code := code, addr := BitVec.ofNat 64 addr, word := s.cl.word, pc := s.cl.here, decode := false }) ∧
        ((s.cg.trapActive s i code addr).lane l).pc = s.cl.here) ∧
      ((s.active i).getLsbD l = false → s.cl.issue.getLsbD l = true →
        ((s.cg.trapActive s i code addr).lane l).st = (s.cg.lane l).st ∧
        ((s.cg.trapActive s i code addr).lane l).pc = nextPc s.cl) := by
  have hstop : ∀ l, (s.active i).getLsbD l = true →
      StopsAt (trapLanes (s.active i) code addr) l (.trap code addr) := fun l => stopsAt_trapLanes code addr
  obtain ⟨k, hk⟩ := exists_lane_of_ne_zero ha
  refine ⟨Group.retire_entry (hstop k hk).mem i s.tick, Group.retire_read (hstop k hk).ne_nil i s.tick,
    fun l hl => ⟨fun h => ?_, fun h hi => ?_⟩⟩
  · obtain ⟨h1, _, h3⟩ := Group.retire_lane_of_stopsAt (g0 := s.cg) (hstop l h) i s.tick hc.lanes hl
    exact ⟨h1, h3⟩
  · obtain ⟨h1, _, h3⟩ := Group.retire_lane_of_passes (g0 := s.cg) (passes_trapLanes code addr h) i s.tick
      hc.lanes hl rfl hc.live
    exact ⟨h1, h3.trans (if_pos ⟨hi, fun h => Bool.false_ne_true (hcf.symm.trans h.1)⟩)⟩

/-- The lanes that `trap` has parked move past the word, and no others. -/
theorem Group.afterTrap_lane {g : Group} {c : Clause} {act : Mask} {l : Nat} (hlt : l < g.lanes.length) :
    (act.getLsbD l = false → (g.afterTrap c act).lane l = g.lane l) ∧
    (∀ p, act.getLsbD l = true → (g.lane l).st = .parked (.trapped p) →
      ((g.afterTrap c act).lane l).st = .parked (.trapped p) ∧ ((g.afterTrap c act).lane l).pc = nextPc c) := by
  unfold Group.afterTrap
  rw [Group.lane_modLanes hlt]
  refine ⟨fun h => if_neg (Bool.eq_false_iff.mp h), fun p h hst => ?_⟩
  rw [if_pos h, hst]
  dsimp only
  unfold nextPc
  split <;> exact ⟨rfl, rfl⟩

theorem exec_trap {imm : BitVec 16} {m : Mods} {s : State} (hc : CanIssue (.trap imm m) s)
    (hq : s.cg.inSup = false) :
    exec (.trap imm m) s = .next (s.modCg fun g =>
      (g.trapActive s (.trap imm m) codeSoft imm.toNat).afterTrap s.cl (s.active (.trap imm m))) := by
  show execTrap imm m s = _
  unfold execTrap
  dsimp only
  rw [run_trapActive hc hq rfl, hq]
  exact congrArg Host.Outcome.next (State.modCg_modCg s _ (fun g => g.afterTrap s.cl _)
    (Group.trapActive_index s (.trap imm m) codeSoft imm.toNat))

/-! ### Uncorrectable errors of registers -/

/-- The group with another issue set. -/
def Group.withIssue (m : Mask) (g : Group) : Group :=
  { g with clause := g.clause.map fun c => { c with issue := m } }

theorem State.withIssue_cg {s : State} (ht : (s.team? s.curTeam).isSome = true)
    (hg : (s.ct.group? s.curGroup).isSome = true) (m : Mask) : (s.withIssue m).cg = s.cg.withIssue m :=
  State.cg_modCg (f := Group.withIssue m) (fun _ => rfl) ht hg

/-- Without some lanes of the issue set, the word is active in the others that it was active in. -/
theorem State.withIssue_active {s : State} (ht : (s.team? s.curTeam).isSome = true)
    (hg : (s.ct.group? s.curGroup).isSome = true) (i : Instr) (bad : Mask) :
    (s.withIssue (s.cl.issue &&& ~~~bad)).active i = s.active i &&& ~~~bad := by
  have hcl : ((s.cg.withIssue (s.cl.issue &&& ~~~bad)).cl).active (instrMods i) = s.active i &&& ~~~bad := by
    unfold State.active State.cl Group.cl Group.withIssue Clause.active
    cases s.cg.clause with
    | none => simp [Clause.blank]
    | some c =>
      simp only [Option.map_some, Option.getD_some]
      split
      · rw [BitVec.and_assoc, BitVec.and_assoc, BitVec.and_comm (~~~bad)]
      · rfl
  rw [← hcl, ← State.withIssue_cg ht hg]; rfl

/-- R7, R301: a computation lane by lane in which some lanes read a register with an uncorrectable error. -/
theorem alu_eccLanes {i : Instr} {s : State} (hb : withinBudget s.cg i = true) (he : s.eccLanes i ≠ 0)
    (hl : laneCollective i = false) (f : Group → Nat → List Word) :
    s.alu i f = .next (s.retire (s.modCg fun g => (g.withIssue (s.cl.issue &&& ~~~s.eccLanes i)).writes
      ((s.withIssue (s.cl.issue &&& ~~~s.eccLanes i)).lanewise i f)) i (trapLanes (s.eccLanes i) codeEcc 0)) := by
  have hw : (s.withIssue (s.cl.issue &&& ~~~s.eccLanes i)).writeNow
      ((s.withIssue (s.cl.issue &&& ~~~s.eccLanes i)).lanewise i f) =
      s.modCg fun g => (g.withIssue (s.cl.issue &&& ~~~s.eccLanes i)).writes
        ((s.withIssue (s.cl.issue &&& ~~~s.eccLanes i)).lanewise i f) :=
    State.modCg_modCg s (Group.withIssue _) (fun g => g.writes _) fun _ => rfl
  unfold State.alu State.run
  rw [if_pos hb, if_neg he]
  unfold State.runPast
  rw [hl]
  dsimp only
  rw [hw, List.append_nil]; rfl

/-- The result of an integer instruction does not depend on the clause in issue. -/
theorem integerResult_withIssue {i : Instr} {d : BitVec 7} {f : Group → Nat → Word}
    (h : integerResult i = some (d, f)) (m : Mask) (g : Group) (l : Nat) : f (g.withIssue m) l = f g l := by
  cases i <;> cases h <;> rfl

end Sys2Proof.Machine

namespace Sys2Proof

open Machine Safety

/-- R84, R85: the undefined opcode's part of the traps. -/
theorem undefinedTraps : Claims.Undefined := by
  intro u s hc hq
  refine ⟨_, congrArg Host.Outcome.next (decodeTrap_eq hq _ _ _ _ _),
    restKept_modCg (Group.decodeStop_index _ _) hc.team s.fresh, ?_⟩
  rw [State.cg_modCg (Group.decodeStop_index _ _) hc.team hc.group]
  exact ⟨rfl, rfl, fun l _ hi => ⟨_, Group.decodeStop_lane _ hc.lanes hi, rfl, rfl, rfl⟩⟩

/-- R344, R303: the part of `trap` and `dbrk` in the traps. -/
theorem softwareTraps : Claims.SoftwareTraps := by
  intro i imm m brk s hi hc hq hcf ha
  have himm : (BitVec.ofNat 64 imm.toNat).toNat = imm.toNat := by
    have h := imm.isLt
    rw [BitVec.toNat_ofNat, Nat.mod_eq_of_lt (by omega)]
  rcases hi with ⟨rfl, rfl⟩ | ⟨rfl, rfl⟩
  · have hindex := Group.trapActive_index s (.dbrk imm m) codeDbrk imm.toNat
    obtain ⟨hentry, hread, hlanes⟩ := Group.trapActive_spec hc hcf ha codeDbrk imm.toNat
    refine ⟨_, run_trapActive hc hq rfl, restKept_modCg hindex hc.team s.fresh, ?_⟩
    rw [State.cg_modCg hindex hc.team hc.group]
    refine ⟨hentry, hread, fun l hl => ⟨fun h => ?_, (hlanes l hl).2⟩⟩
    obtain ⟨hst, hpc⟩ := (hlanes l hl).1 h
    exact ⟨⟨_, hst, rfl, himm, rfl⟩, hpc⟩
  · have hindex (g : Group) : ((g.trapActive s (.trap imm m) codeSoft imm.toNat).afterTrap s.cl
        (s.active (.trap imm m))).index = g.index := Group.trapActive_index s _ _ _ g
    obtain ⟨hentry, hread, hlanes⟩ := Group.trapActive_spec hc hcf ha codeSoft imm.toNat
    refine ⟨_, exec_trap hc hq, restKept_modCg hindex hc.team s.fresh, ?_⟩
    rw [State.cg_modCg hindex hc.team hc.group]
    refine ⟨hentry, hread, fun l hl => ?_⟩
    obtain ⟨hpass, htrap⟩ := Group.afterTrap_lane (g := s.cg.trapActive s (.trap imm m) codeSoft imm.toNat)
      (c := s.cl) (act := s.active (.trap imm m)) (l := l)
      (by rw [Group.trapActive, Group.retire_length, hc.lanes]; exact hl)
    refine ⟨fun h => ?_, fun h hin => ?_⟩
    · obtain ⟨hst, hpc⟩ := htrap _ h ((hlanes l hl).1 h).1
      exact ⟨⟨_, hst, rfl, himm, rfl⟩, hpc⟩
    · rw [hpass h]
      exact (hlanes l hl).2 h hin

/-- R7, R301: the part of register errors in the traps. -/
theorem registerErrors : Claims.RegisterErrors := by
  intro i d f s hi ht hg _ hlen hb hq he
  have hn := writeNames_integerResult hi
  let bad := s.eccLanes i
  let v := s.withIssue (s.cl.issue &&& ~~~bad)
  let ws := v.lanewise i fun g l => [f g l]
  have hcgv : v.cg = s.cg.withIssue (s.cl.issue &&& ~~~bad) := State.withIssue_cg ht hg _
  obtain ⟨hrest, hcg⟩ := retire_modCg (u := fun g => (g.withIssue (s.cl.issue &&& ~~~bad)).writes ws) ht hg
    (fun g => Group.writes_index _ ws) hq i (trapLanes bad codeEcc 0)
  obtain ⟨k, hk⟩ := exists_lane_of_ne_zero he
  refine ⟨_, (exec_integerResult hi s).trans (alu_eccLanes hb he (laneCollective_integerResult hi) _), hrest,
    fun l hl => ⟨fun h => (trapped_of_stopsAt hcg (stopsAt_trapLanes codeEcc 0 h) ?_ hl).1, ?_⟩⟩
  · rw [Group.writes_lanes]; exact hlen
  · have hres := read_lanewise_one (s := v) (f := fun g l => [f g l]) (v := f v.cg) hn rfl (fun _ _ => rfl) hl
    have hact : (v.active i).getLsbD l = ((s.active i).getLsbD l && !bad.getLsbD l) := by
      rw [State.withIssue_active ht hg, BitVec.getLsbD_and, BitVec.getLsbD_not, decide_eq_true hl, Bool.true_and]
    have hv : f v.cg l = f s.cg l := by rw [hcgv]; exact integerResult_withIssue hi _ _ l
    rw [hact] at hres
    rw [Group.rg, hcg, Group.retire_read (stopsAt_trapLanes codeEcc 0 hk).ne_nil, ← hcgv, hres, ← hv, hcgv]
    rfl

/-- Settles O17: each branch moves or stops its active lanes one by one; the undefined opcode, `trap` and `dbrk`
stop every lane concerned; and a register error stops the lanes that read it while the word acts in the others. -/
theorem raisedTraps : Obligations.RaisedTraps :=
  ⟨branchTraps, undefinedTraps, softwareTraps, registerErrors⟩

end Sys2Proof
end
